-- ==== Sys2Proof/Word.lean ====
section
/-! DEFINITION. The word types of the part and their plainest arithmetic. -/

namespace Sys2Proof

/-- A scalar register or system register (R51). -/
abbrev Word := BitVec 64

/-- A byte of memory. -/
abbrev Byte := BitVec 8

/-- A vector register, 256 bytes (R51, R169). -/
abbrev VReg := BitVec 2048

end Sys2Proof
end

