-- ==== Sys2Proof/Syntax.lean ====
section
/-! DEFINITION. The instructions and steps of the part: one constructor for every row of spec/opcode_table.json.
A slot instruction carries its guard and the operand layout of 02_bundle.md (R52 to R57); a step of a unit or of the
outside world carries the number of the unit, context or message it concerns. -/

namespace Sys2Proof

/-- The slots of a bundle (R48). -/
inductive Slot
  | s | va | vb | mx | ld | st | ce | sy
deriving DecidableEq, Repr

/-- Slot index, 0 to 7 (R48). -/
def Slot.idx : Slot → Nat
  | .s => 0 | .va => 1 | .vb => 2 | .mx => 3 | .ld => 4 | .st => 5 | .ce => 6 | .sy => 7

/-- Register form of slot S (R52). -/
structure OpR where
  g : BitVec 4
  sd : BitVec 6
  sa : BitVec 6
  sb : BitVec 6
  md : BitVec 32
deriving DecidableEq, Repr

/-- Immediate form of slot S (R52). -/
structure OpI where
  g : BitVec 4
  sd : BitVec 6
  sa : BitVec 6
  aux : BitVec 6
  imm : BitVec 32
deriving DecidableEq, Repr

/-- Branch form of slot S (R52). -/
structure OpB where
  g : BitVec 4
  sl : BitVec 6
  r1 : BitVec 6
  r2 : BitVec 6
  off : BitVec 32
deriving DecidableEq, Repr

/-- Compare form of slot S (R52); `rest` holds sb in 35:30 for CMP and FCMP, imm36 for CMPI. -/
structure OpC where
  g : BitVec 4
  kd : BitVec 4
  cond : BitVec 4
  sa : BitVec 6
  rest : BitVec 36
deriving DecidableEq, Repr

/-- The vector layout of VA and VB (R53); `u` is false for VA and true for VB. -/
structure OpV where
  u : Bool
  g : BitVec 4
  vd : BitVec 11
  va : BitVec 11
  vb : BitVec 11
  vc : BitVec 11
  ty : BitVec 4
  cls : BitVec 2
deriving DecidableEq, Repr

/-- LD landing form, global, vault and window (R54). -/
structure OpLd where
  g : BitVec 4
  la : BitVec 5
  base : BitVec 6
  idx : BitVec 6
  dist : BitVec 10
  size : BitVec 3
  off : BitVec 20
deriving DecidableEq, Repr

/-- LD indexed form (R54). -/
structure OpLdX where
  g : BitVec 4
  la : BitVec 5
  base : BitVec 6
  xv : BitVec 11
  xw : BitVec 2
  sg : BitVec 1
  sh : BitVec 3
  size : BitVec 3
  dist : BitVec 10
  res : BitVec 9
deriving DecidableEq, Repr

/-- Differentiable form of LD and ST (R54). -/
structure OpD where
  g : BitVec 4
  v : BitVec 11
  base : BitVec 6
  space : BitVec 1
  res : BitVec 9
  size : BitVec 3
  off : BitVec 20
deriving DecidableEq, Repr

/-- ST plain form (R54). -/
structure OpSt where
  g : BitVec 4
  src : BitVec 11
  base : BitVec 6
  idx : BitVec 6
  res : BitVec 4
  size : BitVec 3
  off : BitVec 20
deriving DecidableEq, Repr

/-- ST indexed form (R54). -/
structure OpStX where
  g : BitVec 4
  src : BitVec 11
  base : BitVec 6
  xv : BitVec 11
  xw : BitVec 2
  sg : BitVec 1
  sh : BitVec 3
  size : BitVec 3
  res : BitVec 13
deriving DecidableEq, Repr

/-- CUBE (R55). -/
structure OpCube where
  g : BitVec 4
  tile : BitVec 4
  sd : BitVec 6
  mask : BitVec 8
  af : BitVec 3
  bf : BitVec 3
  mode : BitVec 2
  res : BitVec 24
deriving DecidableEq, Repr

/-- MRESUME. -/
structure OpAb where
  g : BitVec 4
  res : BitVec 49
  ab : BitVec 1
deriving DecidableEq, Repr

/-- MPUSHA and MPUSHB. -/
structure OpPush where
  g : BitVec 4
  vs : BitVec 11
  l : BitVec 3
  res : BitVec 36
deriving DecidableEq, Repr

/-- MSTEP. -/
structure OpStep where
  g : BitVec 4
  tile : BitVec 4
  ts : BitVec 1
  mask : BitVec 8
  af : BitVec 3
  bf : BitVec 3
  fa : BitVec 3
  fb : BitVec 3
  res : BitVec 25
deriving DecidableEq, Repr

/-- MDRAIN. -/
structure OpDrain where
  g : BitVec 4
  vd : BitVec 11
  tile : BitVec 4
  ts : BitVec 1
  row : BitVec 7
  col : BitVec 7
  ty : BitVec 4
  fr : BitVec 3
  sat : BitVec 1
  mode : BitVec 3
  res : BitVec 9
deriving DecidableEq, Repr

/-- MZERO. -/
structure OpZero where
  g : BitVec 4
  tile : BitVec 4
  ts : BitVec 1
  res : BitVec 29
  e : BitVec 16
deriving DecidableEq, Repr

/-- MOUTER. -/
structure OpOuter where
  g : BitVec 4
  va : BitVec 11
  vb : BitVec 11
  tile : BitVec 4
  ts : BitVec 1
  ty : BitVec 4
  ha : BitVec 1
  hb : BitVec 1
  res : BitVec 17
deriving DecidableEq, Repr

/-- MRDACC. -/
structure OpRdAcc where
  g : BitVec 4
  vd : BitVec 11
  tile : BitVec 4
  ts : BitVec 1
  row : BitVec 7
  col : BitVec 7
  clr : BitVec 1
  res : BitVec 19
deriving DecidableEq, Repr

/-- MWRACC. -/
structure OpWrAcc where
  g : BitVec 4
  vs : BitVec 11
  tile : BitVec 4
  ts : BitVec 1
  row : BitVec 7
  col : BitVec 7
  add : BitVec 1
  ty : BitVec 4
  res : BitVec 15
deriving DecidableEq, Repr

/-- MSCACC. -/
structure OpScAcc where
  g : BitVec 4
  va : BitVec 11
  vb : BitVec 11
  tile : BitVec 4
  ha : BitVec 1
  hb : BitVec 1
  res : BitVec 22
deriving DecidableEq, Repr

/-- MRENORM. -/
structure OpTile where
  g : BitVec 4
  tile : BitVec 4
  ts : BitVec 1
  res : BitVec 45
deriving DecidableEq, Repr

/-- MEXP. -/
structure OpExp where
  g : BitVec 4
  sd : BitVec 6
  tile : BitVec 4
  ts : BitVec 1
  w : BitVec 1
  sa : BitVec 6
  res : BitVec 32
deriving DecidableEq, Repr

/-- MFMT. -/
structure OpFmt where
  g : BitVec 4
  fd : BitVec 3
  sa : BitVec 6
  res : BitVec 41
deriving DecidableEq, Repr

/-- MPROG. -/
structure OpProg where
  g : BitVec 4
  sd : BitVec 6
  sel : BitVec 2
  res : BitVec 42
deriving DecidableEq, Repr

/-- CE-A layout (R56). -/
structure OpCeA where
  g : BitVec 4
  ch : BitVec 2
  sa : BitVec 6
  sb : BitVec 6
  sc : BitVec 6
  imm : BitVec 30
deriving DecidableEq, Repr

/-- CE-V layout (R56). -/
structure OpCeV where
  g : BitVec 4
  ch : BitVec 2
  xv : BitVec 11
  xw : BitVec 2
  sg : BitVec 1
  sh : BitVec 3
  cnt : BitVec 7
  res : BitVec 24
deriving DecidableEq, Repr

/-- SY-R layout (R57). -/
structure OpSy where
  g : BitVec 4
  sd : BitVec 6
  sa : BitVec 6
  sb : BitVec 6
  imm : BitVec 32
deriving DecidableEq, Repr

/-- SY-A layout (R57). -/
structure OpSyA where
  g : BitVec 4
  sd : BitVec 6
  base : BitVec 6
  sb : BitVec 6
  w : BitVec 1
  ord : BitVec 2
  sp : BitVec 1
  off : BitVec 28
deriving DecidableEq, Repr

/-- SY-V layout (R57). -/
structure OpSyV where
  g : BitVec 4
  vo : BitVec 11
  vs : BitVec 11
  base : BitVec 6
  ty : BitVec 4
  ord : BitVec 2
  sp : BitVec 1
  res : BitVec 15
deriving DecidableEq, Repr

/-- SY-C layout (R57). -/
structure OpSyC where
  g : BitVec 4
  ch : BitVec 2
  all : BitVec 1
  mask : BitVec 11
  res : BitVec 36
deriving DecidableEq, Repr

/-- A fabric packet: the 32-byte header of R418, the payload, and the contributor bitmap of an INCOMPLETE RESULT. -/
structure Packet where
  opc : Nat
  flags : Nat
  gstep : Nat
  rop : Nat
  rwin : Nat
  src : Nat
  dst : Nat
  chan : Nat
  msgid : Nat
  psn : Nat
  len : Nat
  steptag : Nat
  offset : Nat
  reason : Nat
  payload : List (BitVec 8)
  bitmap : BitVec 256
deriving DecidableEq, Repr

/-- Storage that a soft error can strike (R377). -/
inductive Place
  | vaultWord (v w : Nat)
  | memWord (pa : Nat)
  | scalar (c x r : Nat)
  | vector (c x r : Nat)
  | landing (c x la : Nat)
  | face (c : Nat) (north : Bool) (l i : Nat)
  | tile (c t i : Nat)
  | chanBuf (c ch : Nat)
  | stamp (v u : Nat)
  | tlb (q : Nat)
  | mesh (st m : Nat)
deriving DecidableEq, Repr

/-- Every instruction and step of the part. -/
inductive Instr
  /-- R157. sd := sa + sb, wrapping modulo 2^64. -/
  | add (o : OpR)
  /-- R157. sd := sa - sb, wrapping. -/
  | sub (o : OpR)
  /-- R158. sd := sa + sign-extended imm32. -/
  | addi (o : OpI)
  /-- R157. sd := low 64 bits of sa × sb. -/
  | mul (o : OpR)
  /-- R157. sd := high 64 bits of the signed product. -/
  | mulh (o : OpR)
  /-- R157. sd := high 64 bits of the unsigned product. -/
  | mulhn (o : OpR)
  /-- R157. Signed quotient truncated toward zero, with the borderline cases and DIVZ of R16. -/
  | div (o : OpR)
  /-- R157. Unsigned quotient, with the divide-by-zero result and DIVZ of R16. -/
  | divn (o : OpR)
  /-- R157. Signed remainder with the sign of the dividend. -/
  | rem (o : OpR)
  /-- R157. Unsigned remainder. -/
  | remn (o : OpR)
  /-- R157. sd := sa and sb. -/
  | and (o : OpR)
  /-- R157. sd := sa or sb. -/
  | or (o : OpR)
  /-- R157. sd := sa xor sb. -/
  | xor (o : OpR)
  /-- R158. sd := sa and sign-extended imm32. -/
  | andi (o : OpI)
  /-- R158. sd := sa or sign-extended imm32. -/
  | ori (o : OpI)
  /-- R158. sd := sa xor sign-extended imm32. -/
  | xori (o : OpI)
  /-- R157. Logical left shift by sb modulo 64. -/
  | shl (o : OpR)
  /-- R157. Logical right shift by sb modulo 64. -/
  | shr (o : OpR)
  /-- R157. Arithmetic right shift by sb modulo 64. -/
  | sha (o : OpR)
  /-- R158. Left shift by an immediate count. -/
  | shli (o : OpI)
  /-- R158. Logical right shift by an immediate count. -/
  | shri (o : OpI)
  /-- R158. Arithmetic right shift by an immediate count. -/
  | shai (o : OpI)
  /-- R158. Rotate right by an immediate count. -/
  | roti (o : OpI)
  /-- R157. Signed minimum of sa and sb. -/
  | min (o : OpR)
  /-- R157. Signed maximum of sa and sb. -/
  | max (o : OpR)
  /-- R157. Unsigned minimum of sa and sb. -/
  | minn (o : OpR)
  /-- R157. Unsigned maximum of sa and sb. -/
  | maxn (o : OpR)
  /-- R157. Count of leading zero bits of sa. -/
  | clz (o : OpR)
  /-- R157. Count of one bits of sa. -/
  | popc (o : OpR)
  /-- R158. sd := sign-extended imm32. -/
  | movi (o : OpI)
  /-- R158. sd := imm32 << 32 or-ed with sa<31:0>. -/
  | movhi (o : OpI)
  /-- R160. Compares two scalars and writes all ones or all zeros to a mask. -/
  | cmp (o : OpC)
  /-- R160. Compares a scalar with a sign-extended imm36 into a mask. -/
  | cmpi (o : OpC)
  /-- R157. sd := sa when bit 0 of the named mask is 1, otherwise sb. -/
  | sel (o : OpR)
  /-- R159. Extracts a bit field of sa, zero- or sign-extended. -/
  | bfx (o : OpI)
  /-- R159. Inserts the low bits of sa into a field of sd. -/
  | bfi (o : OpI)
  /-- R161. Scalar floating add in F32, F16 or BF16 under RND. -/
  | fadd (o : OpR)
  /-- R161. Scalar floating multiply under RND. -/
  | fmul (o : OpR)
  /-- R161. Scalar fused multiply-add with one rounding. -/
  | ffma (o : OpR)
  /-- R160. Compares two F32 scalars into a mask, with NaN handling of R34. -/
  | fcmp (o : OpC)
  /-- R162. Converts one scalar between element types under R36. -/
  | fcvt (o : OpR)
  /-- R163. Copies a scalar into a mask. -/
  | kmov (o : OpR)
  /-- R163. Copies a mask into a scalar. -/
  | kget (o : OpR)
  /-- R163. Counts the one bits of a mask into a scalar. -/
  | kpopc (o : OpR)
  /-- R164. Sets SHAPE, the log2 row count of the vector matrix view. -/
  | setshape (o : OpI)
  /-- R112. Reads a work-identifier field, an extent, the gang index or size, or the core number. -/
  | widf (o : OpI)
  /-- R165. Branches to the address in sa when the guard is true. -/
  | br (o : OpR)
  /-- R165. Branches to a bundle offset relative to the branching bundle. -/
  | bri (o : OpB)
  /-- R165. Branches relative and writes the return address into the link scalar. -/
  | call (o : OpB)
  /-- R165. Branches to the address in sa, marked as a return. -/
  | ret (o : OpR)
  /-- R167. Sets up the context's hardware loop, or skips the body when the count is zero. -/
  | loop (o : OpI)
  /-- R163. Reads CYC, the cluster reference count or the package time counter into a scalar. -/
  | timer (o : OpR)
  /-- R323. Reads a system register by index, clearing RC fields; freezes for registers outside the core. -/
  | sysrd (o : OpI)
  /-- R323. Writes a system register by index under its access codes, freezing where the register's rule requires. -/
  | syswr (o : OpI)
  /-- R173. Element-wise addition. -/
  | vadd (o : OpV)
  /-- R173. Element-wise subtraction. -/
  | vsub (o : OpV)
  /-- R173. Element-wise multiplication. -/
  | vmul (o : OpV)
  /-- R173. Element-wise va × vb + vc with one rounding. -/
  | vfma (o : OpV)
  /-- R173. Element-wise va × vb − vc with one rounding. -/
  | vfms (o : OpV)
  /-- R173. Element-wise −(va × vb) + vc with one rounding. -/
  | vfnma (o : OpV)
  /-- R173. Element-wise minimum. -/
  | vmin (o : OpV)
  /-- R173. Element-wise maximum. -/
  | vmax (o : OpV)
  /-- R173. Element-wise absolute value. -/
  | vabs (o : OpV)
  /-- R173. Element-wise negation. -/
  | vneg (o : OpV)
  /-- R176. Element-wise compare into a mask, per lane all or any. -/
  | vcmp (o : OpV)
  /-- R177. Selects va or vb per element by a mask. -/
  | vsel (o : OpV)
  /-- R174. Bitwise AND of vectors. -/
  | vand (o : OpV)
  /-- R174. Bitwise OR of vectors. -/
  | vor (o : OpV)
  /-- R174. Bitwise XOR of vectors. -/
  | vxor (o : OpV)
  /-- R174. Bitwise NOT of a vector. -/
  | vnot (o : OpV)
  /-- R174. Element-wise left shift. -/
  | vshl (o : OpV)
  /-- R174. Element-wise logical right shift. -/
  | vshr (o : OpV)
  /-- R174. Element-wise arithmetic right shift. -/
  | vsha (o : OpV)
  /-- R179. Converts one part of a register between element types, advancing SRSEED. -/
  | vcvt (o : OpV)
  /-- R173. Element-wise multiplication by a power of two. -/
  | vscale (o : OpV)
  /-- R178. Writes the class code of each floating element. -/
  | vclass (o : OpV)
  /-- R175. Broadcasts one row of the matrix view to every row. -/
  | vbcast (o : OpV)
  /-- R175. Copies a vector source into vd. -/
  | vmov (o : OpV)
  /-- R173. Upper half of element-wise integer products. -/
  | vmulhi (o : OpV)
  /-- R181. Clamps elements to the range of a narrower type without changing type. -/
  | vsat (o : OpV)
  /-- R175. Element-wise integer hash of va keyed by vb. -/
  | vhash (o : OpV)
  /-- R177. Writes a mask of lanes whose elements are all finite and sets NFS.VEC on a non-finite element. -/
  | vfinite (o : OpV)
  /-- R175. Adds each element's index to the source element. -/
  | viota (o : OpV)
  /-- R177. Writes a mask of nonzero lanes. -/
  | vkmov (o : OpV)
  /-- R182. Element-wise division, correctly rounded. -/
  | vdiv (o : OpV)
  /-- R182. Element-wise square root. -/
  | vsqrt (o : OpV)
  /-- R182. Element-wise reciprocal square root. -/
  | vrsqrt (o : OpV)
  /-- R182. Element-wise reciprocal. -/
  | vrcp (o : OpV)
  /-- R182. Element-wise base-2 exponential. -/
  | vexp2 (o : OpV)
  /-- R182. Element-wise base-2 logarithm. -/
  | vlog2 (o : OpV)
  /-- R182. Element-wise hyperbolic tangent. -/
  | vtanh (o : OpV)
  /-- R183. Permutes elements of va by indices in vb. -/
  | vperm (o : OpV)
  /-- R183. Transposes the matrix view of va. -/
  | vtrans (o : OpV)
  /-- R184. Reduces each row of the matrix view. -/
  | vrowred (o : OpV)
  /-- R184. Reduces each column of the matrix view. -/
  | vcolred (o : OpV)
  /-- R184. Reduces every element into element 0. -/
  | vallred (o : OpV)
  /-- R183. Rotates the elements of va by n. -/
  | vrot (o : OpV)
  /-- R180. Narrows two registers into one. -/
  | vpack (o : OpV)
  /-- R180. Widens one register into two. -/
  | vunpack (o : OpV)
  /-- R183. Extracts one element into a scalar. -/
  | vlaneget (o : OpV)
  /-- R266. Checks a descriptor, claims scoreboard entries, spends heat tokens and starts the cube sequencer on a matrix product. -/
  | cube (o : OpCube)
  /-- R274. Restarts a stopped CUBE. -/
  | mresume (o : OpAb)
  /-- R274. Abandons a stopped CUBE and clears its face slices. -/
  | mresumeAbandon (o : OpAb)
  /-- R254. Loads a west face slice from a vector register. -/
  | mpusha (o : OpPush)
  /-- R254. Loads a north face slice from a vector register. -/
  | mpushb (o : OpPush)
  /-- R255. Accumulates one step from the face slices into a tile, spending heat tokens. -/
  | mstep (o : OpStep)
  /-- R280. Converts a tile block into a vector register with one rounding. -/
  | mdrain (o : OpDrain)
  /-- R276. Clears a tile and sets its exponent. -/
  | mzero (o : OpZero)
  /-- R277. Adds an outer product of two vectors to a tile. -/
  | mouter (o : OpOuter)
  /-- R278. Reads a tile block as F32, optionally clearing it. -/
  | mrdacc (o : OpRdAcc)
  /-- R279. Writes or adds a vector block into a tile. -/
  | mwracc (o : OpWrAcc)
  /-- R281. Adds the staging tile into a tile under block scales. -/
  | mscacc (o : OpScAcc)
  /-- R282. Forces one renormalisation of a tile. -/
  | mrenorm (o : OpTile)
  /-- R283. Reads a tile's exponent into a scalar. -/
  | mexp (o : OpExp)
  /-- R283. Writes a tile's exponent, scaling every finite element exactly. -/
  | mexpW (o : OpExp)
  /-- R284. Writes a format register after checking legality. -/
  | mfmt (o : OpFmt)
  /-- R285. Reads MX.PROG, HEAT.LVL or SQ.CNT into a scalar. -/
  | mprog (o : OpProg)
  /-- R206. Reads 1–8 global bytes into a landing slot. -/
  | ldg (o : OpLd)
  /-- R206. Reads 64–256 global bytes into a landing slot. -/
  | ldgv (o : OpLd)
  /-- R208. Gathers global elements by an index vector into a landing slot. -/
  | ldgx (o : OpLdX)
  /-- R206. Reads 1–8 vault bytes into a landing slot. -/
  | ldv (o : OpLd)
  /-- R206. Reads 64–256 vault bytes into a landing slot. -/
  | ldvv (o : OpLd)
  /-- R207. Reads strided vault elements into a landing slot. -/
  | ldvs (o : OpLd)
  /-- R208. Gathers vault elements by an index vector. -/
  | ldvx (o : OpLdX)
  /-- R204. Reads 1–8 bytes of a parameter window, zero beyond its bound. -/
  | wld (o : OpLd)
  /-- R204. Reads 64–256 bytes of a parameter window. -/
  | wldv (o : OpLd)
  /-- R209. Acquiring read of 4 or 8 global bytes. -/
  | lda (o : OpLd)
  /-- R210. Reads 8 vault bytes into a mask. -/
  | ldk (o : OpLd)
  /-- R219. Differentiable load: reads the primal in forward mode, or accumulates into adjoint cells and clears vd in reverse mode (R222). -/
  | dld (o : OpD)
  /-- R211. Stores 1–8 bytes of a scalar to global memory. -/
  | stg (o : OpSt)
  /-- R211. Stores 64–256 bytes of a vector to global memory. -/
  | stgv (o : OpSt)
  /-- R212. Scatters vector elements to global memory. -/
  | stgx (o : OpStX)
  /-- R211. Stores 1–8 bytes of a scalar to a vault. -/
  | stv (o : OpSt)
  /-- R211. Stores 64–256 bytes of a vector to a vault. -/
  | stvv (o : OpSt)
  /-- R211. Stores vector elements strided into a vault. -/
  | stvs (o : OpSt)
  /-- R212. Scatters vector elements into a vault. -/
  | stvx (o : OpStX)
  /-- R212. Releasing store of 4 or 8 bytes. -/
  | stl (o : OpSt)
  /-- R211. Stores a mask to a vault. -/
  | stk (o : OpSt)
  /-- R219. Differentiable store: tapes and writes the primal in forward mode, or exchanges adjoints and restores from the tape in reverse mode (R223). -/
  | dst (o : OpD)
  /-- R233. Sets a channel's bases and spaces, resetting its nest unless KEEP. -/
  | cebase (o : OpCeA)
  /-- R233. Sets the count and strides of one loop level of a channel. -/
  | celvl (o : OpCeA)
  /-- R233. Sets a channel's copy length. -/
  | celen (o : OpCeA)
  /-- R234. Checks a channel's configuration, claims the scoreboard and starts it. -/
  | cego (o : OpCeA)
  /-- R241. Pushes one index onto a channel's gather queue. -/
  | ceidx (o : OpCeA)
  /-- R241. Pushes indices from a vector onto a channel's gather queue. -/
  | ceidxv (o : OpCeV)
  /-- R241. Pushes an end marker onto a channel's gather queue. -/
  | ceidxend (o : OpCeA)
  /-- R235. Reads a channel's status or bitmap word, trapping CEFAULT on a halt unless NT. -/
  | cestat (o : OpCeA)
  /-- R236. Cancels a channel once its requests are performed or discarded. -/
  | cecancel (o : OpCeA)
  /-- R237. Continues a halted channel from its recorded indices. -/
  | ceresume (o : OpCeA)
  /-- R233. Sets a channel's fabric rank, step tag, window and reduction operation. -/
  | cefab (o : OpCeA)
  /-- R113. Creates a child strand record and pushes it on the core's deque. -/
  | fork (o : OpSy)
  /-- R114. Waits in a freeze for all children and returns the fault and kill counts. -/
  | join (o : OpSy)
  /-- R114. Saves and parks the strand when children are outstanding, otherwise returns the counts. -/
  | joinPark (o : OpSy)
  /-- R115. Waits for children, channels and CUBE, then ends the strand done or faulted. -/
  | exit (o : OpSy)
  /-- R116. Saves the strand and pushes it at the tail of the deque. -/
  | yield (o : OpSy)
  /-- R116. Resets the checkpoint timer and serves a pending pre-emption or role-swap request by saving the strand. -/
  | ckpt (o : OpSy)
  /-- R119. Checks a header and writes a launch entry to a hardware launch queue. -/
  | spawn (o : OpSy)
  /-- R120. Kills the strand whose record lies at a spill slot of the issuer's launch. -/
  | kill (o : OpSy)
  /-- R120. Kills every admitted launch with the named header in the issuer's address space. -/
  | killL (o : OpSy)
  /-- R301. Initialises a barrier object with its expected count. -/
  | binit (o : OpSyA)
  /-- R302. Arrives on a barrier as a release, completing the phase at the expected count. -/
  | barr (o : OpSyA)
  /-- R303. Freezes until the barrier's phase differs from the given parity, then acquires. -/
  | bwait (o : OpSyA)
  /-- R305. Freezes until the wanted chunk bits of a channel are set, trapping CEFAULT on a halt. -/
  | cewait (o : OpSyC)
  /-- R306. Freezes until earlier accesses are performed at the named scope. -/
  | fence (o : OpSy)
  /-- R307. Contributes a scalar to a gang-group reduction round and freezes for the result. -/
  | gred (o : OpSy)
  /-- R296. Atomic add returning the old value. -/
  | aadd (o : OpSyA)
  /-- R296. Atomic signed minimum. -/
  | amin (o : OpSyA)
  /-- R296. Atomic signed maximum. -/
  | amax (o : OpSyA)
  /-- R296. Atomic AND. -/
  | aand (o : OpSyA)
  /-- R296. Atomic OR. -/
  | aor (o : OpSyA)
  /-- R296. Atomic XOR. -/
  | axor (o : OpSyA)
  /-- R296. Atomic swap. -/
  | aswp (o : OpSyA)
  /-- R296. Atomic compare-and-swap with sd as comparand. -/
  | acas (o : OpSyA)
  /-- R298. Adds each element atomically at its own address, posted. -/
  | vaadd (o : OpSyV)
  /-- R298. ORs each element atomically at its own address, posted. -/
  | vaor (o : OpSyV)
  /-- R217. Waits for differentiable traffic and sets forward or reverse mode. -/
  | dmode (o : OpSy)
  /-- R215. Binds or unbinds a differentiable region from the descriptor table. -/
  | dreg (o : OpSy)
  /-- R221. Pushes a marker entry on the tape. -/
  | tapemk (o : OpSy)
  /-- R311. Posts a voltage and divisor target for the cluster rail, or is refused. -/
  | tune (o : OpSy)
  /-- R312. Changes the issuing core's divisors at once when permitted. -/
  | clkdiv (o : OpSy)
  /-- R315. Turns the ballast generator off. -/
  | ballastOff (o : OpSy)
  /-- R315. Sets the ballast generator to a fixed floor. -/
  | ballastLevel (o : OpSy)
  /-- R315. Sets the ballast generator to follow the recent average draw. -/
  | ballastAuto (o : OpSy)
  /-- R316. Raises BRKPT at issue. -/
  | trap (o : OpSy)
  /-- R317. Leaves trap mode and reissues the trapping bundle from its repeat index. -/
  | eret (o : OpSy)
  /-- R318. Pops the oldest statistics record into two scalars. -/
  | statq (o : OpSy)
  /-- R319. Freezes until a time counter reaches a value. -/
  | waitt (o : OpSy)
  /-- R320. Posts a software event to the package event unit as a release. -/
  | event (o : OpSy)
  /-- R321. Reads a receive window's step tag. -/
  | steptag (o : OpSy)
  /-- R321. Sets a receive window's step tag as a package fence. -/
  | steptagW (o : OpSy)
  /-- R144. One issue of a bundle (one repeat index) by a context retires atomically: every slot and the PLOG take effect, or none does. -/
  | bundleIssue (c : Nat) (x : Nat)
  /-- R141. Data of a read arrive at a Pending landing slot and make it Full, unless a later read has taken the slot; poison or race marks the slot. -/
  | landingArrival (m : Nat)
  /-- R50. Opcode 0 in any slot does nothing, whatever its guard and operand fields. -/
  | nop (sl : Slot)
  /-- R61. The header's predicate logic operation combines two masks into a destination mask at every issue of the bundle. -/
  | plog (op : BitVec 3) (kd : BitVec 4) (ka : BitVec 4) (kb : BitVec 4)
  /-- R118. The checkpoint timer reaches 0 and the strand faults with CKPTLATE. -/
  | ckptTimerExpire (c : Nat) (x : Nat)
  /-- R108. A save of a strand completes after its waits and writes, and the record goes to state 7, 3 or 2. -/
  | strandSaveDone (c : Nat) (x : Nat)
  /-- R109. A context restores a saved strand after checking its image and live-range entry. -/
  | strandRestore (c : Nat) (x : Nat)
  /-- R110. An idle context takes work from the resume list, deque, dispatcher or a steal. -/
  | contextTakeWork (c : Nat) (x : Nat)
  /-- R102. The dispatcher reserves contexts for a whole gang and starts every member. -/
  | gangAdmit (l : Nat)
  /-- R335. The distributor hands the next range of a launch to the eligible cluster or stack of lowest rank. -/
  | dispatchRange (l : Nat)
  /-- R124. The dispatcher posts a pre-emption request to a victim context of lower priority. -/
  | preemptRequest (l : Nat)
  /-- R96. A child's end or a spawned launch's completion updates the parent's join word atomically, making a parked parent runnable at zero. -/
  | joinWordUpdate (m : Nat)
  /-- R267. The cube sequencer emits its next load, fetch or step beat into the beat FIFO. -/
  | cubeSeqBeat (c : Nat)
  /-- R252. The matrix domain takes one beat from the beat FIFO and performs it. -/
  | matrixBeat (c : Nat)
  /-- R275. Every nanosecond the heat-token bucket gains 4 × (8 − GOV.STEP) tokens up to 2^20. -/
  | heatRefill (c : Nat)
  /-- R229. A running channel performs one iteration of its loop nest, reading and writing L bytes. -/
  | copyIteration (c : Nat) (ch : Nat)
  /-- R333. A bank's network port serves one request message taken from the mesh. -/
  | vaultNetRequest (m : Nat)
  /-- R445. An HBM controller performs a read or write request. -/
  | hbmRequest (m : Nat)
  /-- R296. An atomic unit accepts or refuses an atomic request and performs an accepted one indivisibly. -/
  | atomicRequest (m : Nat)
  /-- R293. A refused requester retries after the unit's retry interval. -/
  | atomicRetry (m : Nat)
  /-- R293. A reservation not used within 2 µs is released and its requester leaves the order queue. -/
  | atomicReservationExpire (u : Nat) (r : Nat)
  /-- R298. One element of a vector atomic is applied at its owning unit. -/
  | vectorAtomicElement (m : Nat)
  /-- R222. A reverse-mode add into an adjoint cell is performed atomically at the owning unit. -/
  | adjointAccumulate (m : Nat)
  /-- R223. An adjoint cell is read and cleared atomically at its owning unit for a reverse DST or D copy. -/
  | adjointExchange (m : Nat)
  /-- R300. A barrier's bank unit performs a BINIT, BARR, BWAIT read or channel arrival on the object. -/
  | barrierRequest (m : Nat)
  /-- R303. A barrier's unit reports a phase flip to a remote waiter, releasing it. -/
  | barrierPhaseReport (m : Nat)
  /-- R308. A reduction unit counts a contribution and, at the last, sends the result to every member. -/
  | gredContribution (m : Nat)
  /-- R353. A race report for a remote store arrives and the context traps RACE at its next issue. -/
  | raceReport (m : Nat)
  /-- R329. A cluster TLB hit fills the missing µTLB. -/
  | tlbFill (q : Nat)
  /-- R330. A page walk ends with a fill, a PAGEFAULT, a PERM or a POISON. -/
  | pageWalkDone (q : Nat)
  /-- R350. A stamp-scrubber pass ends, having cleared stale stamps, and PASS is updated for every core. -/
  | stampScrubPass (st : Nat)
  /-- R378. The patrol scrubber reads a vault word, correcting or poisoning it. -/
  | patrolScrub (v : Nat) (w : Nat)
  /-- R371. After a core divisor change the vault crossing drains and the ratio switches, ending the core freeze. -/
  | crossingRatioSwitch (c : Nat)
  /-- R310. Each µs of a move the rail moves one code toward VTGT, advancing MSTATE when it arrives. -/
  | railCodeStep (q : Nat)
  /-- R337. Every core of the cluster has switched to the move's divisors, ending step 2 of the move. -/
  | railDivisorDone (q : Nat)
  /-- R376. Every 10 µs each core writes a stall-ratio sample into its ring. -/
  | sampleBoundary (st : Nat)
  /-- R372. Every µs the thermal sensors are sampled and COL.TEMP and STK.TMAX updated. -/
  | sensorSample (st : Nat) (temps : List Nat)
  /-- R314. At each µs boundary the ballast floor decays by DSLEW and follows the average in auto mode. -/
  | ballastFloorUpdate (c : Nat)
  /-- R402. At each µs boundary each core moves ILIM and sets DSLEW by the ramp limits. -/
  | ilimUpdate (c : Nat)
  /-- R398. The event unit accepts an event and writes a record to the ring, drops it, or buffers it. -/
  | eventPost (m : Nat)
  /-- R395. The distributor reads a queue entry, checks the header and admits or refuses the launch. -/
  | lqEntryRead (q : Nat)
  /-- R407. RST.CTL kind 2 resets one stack after killing its launches. -/
  | rstStack (st : Nat)
  /-- R408. A stack's rails come up, self-test runs and the lane-repair map reloads. -/
  | stackBringup (st : Nat)
  /-- R408. Each stack is released and FEAT.SUP is set. -/
  | stackRelease (st : Nat)
  /-- R406. BXC command returning a signed report of measurements and features. -/
  | attest (pa : Nat)
  /-- R406. BXC command returning the public key and certificate. -/
  | ident (pa : Nat)
  /-- R406. BXC command returning machine-check log entries. -/
  | mclog (pa : Nat)
  /-- R406. BXC command verifying and loading a runtime firmware image, extending M2. -/
  | fwload (pa : Nat)
  /-- R436. The drain ends when all requests are answered or at 2 ms; the group closes and retrains. -/
  | groupDrainEnd (g : Nat)
  /-- R422. Pacing allows a REREQ for the oldest hole to be sent to its source. -/
  | rereqSend (r : Nat)
  /-- R423. An unacknowledged message is retransmitted, or its channel halts with TIMEOUT after RETRIES. -/
  | rtoExpire (m : Nat)
  /-- R434. A link goes down or a rank becomes unreachable; channels halt with LINK and an event is posted. -/
  | ranklost (r : Nat) (why : Nat)
  /-- R155. Each core cycle that is not otherwise a core freeze, the current-window limiter decides, copy-channel and ballast charges accrue, and the freeze and DSTARVE counters count. -/
  | coreCycle (c : Nat)
  /-- R384. A strand's load or store through the register window is performed at the register's core, returning its value and clearing RC fields. -/
  | registerWindowAccess (m : Nat)
  /-- R69. A register result started by an earlier issue lands in its destination when its latency has elapsed or its data arrive. -/
  | resultLand (c : Nat) (x : Nat)
  /-- R404. Every 100 µs the device writes a telemetry record or counts it lost. -/
  | telemetryRecord
  /-- R440. At each 1 ms dwell boundary each cluster updates its averaged slack, advised step and VADV. -/
  | slackDwell
  /-- R366. A vertical-bus flit fails its CRC and is retried, recording the lane for repair after 16 retries in 1 ms. -/
  | vbusFlitRetry (st : Nat) (lane : Nat)
  /-- R365. A residue check detects a failed layer; tiles become NaN and the core is barred from cube work. -/
  | layerRuntimeFail (c : Nat) (layer : Nat)
  /-- R356. A rail, PLL, TLB, dispatcher or core logic failure stops the cluster and kills launches placed there. -/
  | clusterFail (q : Nat) (cause : Nat)
  /-- R379. A stack fails at run time, failing every cluster and refusing outside accesses. -/
  | stackFail (st : Nat) (cause : Nat)
  /-- R398. A buffered hardware event is written to the ring once room appears. -/
  | eventBufferDrain
  /-- R393. A write to LQ.PROD publishes or withdraws entries, or is refused with LQERR. -/
  | lqProdWrite (q : Nat) (v : BitVec 64)
  /-- R397. A write of a header address kills that launch. -/
  | pkgKill (v : BitVec 64)
  /-- R397. A write of a record address makes a fault-parked strand runnable. -/
  | pkgResume (v : BitVec 64)
  /-- R331. Invalidates every entry of the cluster's TLBs. -/
  | tlbInvAll (q : Nat)
  /-- R331. Invalidates every cluster TLB entry of one ASID. -/
  | tlbInvAsid (q : Nat) (asid : Nat)
  /-- R331. Invalidates the cluster TLB entries of one ASID covering one address. -/
  | tlbInvPage (q : Nat) (asid : Nat) (vpn : Nat)
  /-- R390. Invalidates every TLB entry in every cluster of the package. -/
  | pkgTlbinvAll
  /-- R390. Invalidates one ASID's entries in every cluster. -/
  | pkgTlbinvAsid (asid : Nat)
  /-- R390. Invalidates one page of one ASID in every cluster. -/
  | pkgTlbinvPage (asid : Nat) (vpn : Nat)
  /-- R132. Writing 1 to CORE.CFG.SWAPREQ requests a role swap at the lead's next CKPT. -/
  | swapreqWrite (c : Nat)
  /-- R373. A write to GOV.MIN raises the governor step at once or lowers it at the next boundary. -/
  | govMinWrite (st : Nat) (v : BitVec 64)
  /-- R400. A write to FEAT.EN enables features, or is refused whole. -/
  | featEnWrite (n : Nat) (v : BitVec 64)
  /-- R403. A signed offset is stepped or slewed into the package time counter. -/
  | ptimeOfsWrite (v : BitVec 64)
  /-- R407. RST.CTL kind 1 starts a warm reset. -/
  | rstWarm
  /-- R407. RST.CTL kind 3 starts a cold reset. -/
  | rstCold
  /-- R408. Power-on starts a cold reset and bring-up. -/
  | powerOn
  /-- R407. PERST# starts a cold or warm reset according to PERSTCOLD. -/
  | perst
  /-- R407. A PCIe hot reset starts a warm reset. -/
  | pcieHotReset
  /-- R405. The BXC verifies and measures its firmware and the initialisation firmware. -/
  | bxcFirmwareBoot
  /-- R408. The BXC completes HBM4E and bridge training. -/
  | hbmBridgeTraining
  /-- R408. The host link trains and PKG.ID.READY is set. -/
  | hostLinkTraining
  /-- R391. A host read through the register, vault or HBM window, clearing RC fields it returns. -/
  | hostWindowRead (pa : Nat) (n : Nat)
  /-- R391. A host write through a window, merged into registers or refused as R368 gives. -/
  | hostWindowWrite (pa : Nat) (n : Nat) (v : BitVec 64)
  /-- R386. A bridge port receives a trimmed header, re-requests the packet and holds later messages until it arrives. -/
  | bridgeTrimmedHeader (m : Nat)
  /-- R436. Writing GO starts a personality switch: quiesce and drain. -/
  | grpGo (g : Nat)
  /-- R436. Retraining ends; the group opens in its new personality or fails. -/
  | groupRetrainDone (g : Nat) (ok : Bool) (trimx : Bool)
  /-- R433. Reloads every rank-table entry. -/
  | rankUpdAll
  /-- R433. Reloads one rank-table entry, discarding receiver state on change (R435). -/
  | rankUpdOne (r : Nat)
  /-- R426. Binds a receive window from its table entry. -/
  | rwBind (w : Nat)
  /-- R426. Unbinds a receive window. -/
  | rwUnbind (w : Nat)
  /-- R426. Writes a window's live state to its table entry. -/
  | rwSnapshot (w : Nat)
  /-- R420. An arriving WRITE message is accepted, tag-checked and placed, or refused. -/
  | write (p : Packet)
  /-- R427. An arriving REDUCE message applies its reduction to window elements. -/
  | reduce (p : Packet)
  /-- R415. An arriving READ message reads window bytes and answers with READRESP. -/
  | read (p : Packet)
  /-- R415. An arriving READRESP delivers the data of a fabric load. -/
  | readresp (p : Packet)
  /-- R421. An arriving ACK adds a message to the sender's acknowledged set, setting chunk bits or halting a channel on REFUSE. -/
  | ack (p : Packet)
  /-- R422. An arriving REREQ makes the sender re-read and retransmit a message. -/
  | rereq (p : Packet)
  /-- R430. An arriving in-switch RESULT is placed as a write and completes on placement. -/
  | result (p : Packet)
  /-- R431. An INCOMPLETE RESULT sets the window's INCOMPLETE state and contributor bitmap and places nothing. -/
  | resultIncomplete (p : Packet)
  /-- R419. A trimmed header arrives and creates a hole for its message. -/
  | trimmedHeader (p : Packet)
  /-- R437. A CXL memory device reports a write failure; the channel halts FULL and LIMIT is lowered. -/
  | cxlWriteFail (g : Nat) (off : Nat)
  /-- R323. A write to a register with no behaviour of its own, under its access codes. -/
  | registerWrite (c : Nat) (x : Nat) (idx : Nat) (v : BitVec 64)
  /-- R377. A soft error strikes protected storage, later read as corrected (ECC.CE) or marked poisoned (ECC.UE). -/
  | softError (place : Place) (ue : Bool)
  /-- R386. A re-requested packet arrives again at the bridge port, ending the hole and releasing the messages held behind it. -/
  | bridgeRetransmission (m : Nat)
  /-- R410. A write to PKG.ROOTn sets an address space's root for later walks and extends M3. -/
  | pkgRootWrite (n : Nat) (v : BitVec 64)
  /-- R403. A write to PTIME.CFG selects the package time counter's source and extends M3. -/
  | ptimeCfgWrite (v : BitVec 64)
  /-- R403. An IEEE 1588 event message arrives on the selected Ultra Ethernet group, is timestamped and disciplines PTIME. -/
  | ieee1588EventMessage (g : Nat) (t : Nat)
deriving DecidableEq, Repr

end Sys2Proof
end

