-- ==== Sys2Proof/WellFormed.lean ====
section
/-! DEFINITION. The encoding checks of R75: which operand fields an instruction of the table admits. A term that fails
`Instr.wf` is an encoding that is not an instruction, and its bundle traps ILLOP whatever the guard. -/

namespace Sys2Proof

/-- x<h:l> of R9. -/
def bitsOf {w : Nat} (x : BitVec w) (h l : Nat) : Nat := (x.toNat >>> l) % 2 ^ (h + 1 - l)

/-- Element types of class FL (R172): F32, F16, BF16. -/
def tyFL (t : BitVec 4) : Bool := t.toNat ≤ 2

/-- Element types of class IN (R172): I32 to N64. -/
def tyIN (t : BitVec 4) : Bool := 3 ≤ t.toNat && t.toNat ≤ 10

/-- Element types of class ALL (R172). -/
def tyALL (t : BitVec 4) : Bool := t.toNat ≤ 10

/-- NFA, the narrow type through a format register (R53). -/
def tyNFA (t : BitVec 4) : Bool := t.toNat == 11

/-- Storage width of a type other than NFA (R169). -/
def tyWidth (t : Nat) : Nat :=
  match t with
  | 0 | 3 | 6 => 32
  | 1 | 2 | 4 | 7 => 16
  | 5 | 8 => 8
  | _ => 64

/-- The va field of its source class (R53); ct16 to ct63 trap ILLOP (R171). -/
def vaOk (o : OpV) : Bool :=
  match o.cls.toNat with
  | 0 => true
  | 1 => bitsOf o.va 9 5 == 0
  | 2 => bitsOf o.va 10 6 == 0
  | _ => bitsOf o.va 10 4 == 0

/-- A vector instruction of two sources: vc is zero. -/
def wfV2 (ty : BitVec 4 → Bool) (o : OpV) : Bool := vaOk o && ty o.ty && o.vc == 0

/-- A vector instruction of one source: vb and vc are zero. -/
def wfV1 (ty : BitVec 4 → Bool) (o : OpV) : Bool := vaOk o && ty o.ty && o.vb == 0 && o.vc == 0

/-- A vector instruction of VA only (R71). -/
def vaOnly (o : OpV) : Bool := !o.u

/-- The 32- and 64-bit integer types of VHASH and VAOR. -/
def tyWideInt (t : BitVec 4) : Bool := t.toNat == 3 || t.toNat == 6 || t.toNat == 9 || t.toNat == 10

/-- vc bits 10:8 name a format register only for NFA (R53). -/
def frOk (nfa : Bool) (vc : BitVec 11) : Bool := nfa || bitsOf vc 10 8 == 0

/-- VCMP (R176). -/
def wfVcmp (o : OpV) : Bool :=
  vaOk o && (tyALL o.ty || tyNFA o.ty) && bitsOf o.vd 10 4 == 0 && bitsOf o.vc 7 4 == 0 && frOk (tyNFA o.ty) o.vc
    && !(tyIN o.ty && 6 ≤ bitsOf o.vc 2 0)

/-- VFINITE (R177) names a mask in vd; VCLASS (R178) names a register. -/
def wfVclass (o : OpV) : Bool :=
  vaOk o && (tyFL o.ty || tyNFA o.ty) && o.vb == 0 && bitsOf o.vc 7 0 == 0 && frOk (tyNFA o.ty) o.vc

/-- The types and control word of a conversion (R179, R180). -/
def wfCvt (o : OpV) : Bool :=
  let s := bitsOf o.vc 7 4
  vaOk o && o.ty.toNat ≤ 11 && s ≤ 11 && !(tyNFA o.ty && s == 11) && frOk (tyNFA o.ty || s == 11) o.vc
    && bitsOf o.vc 2 0 ≤ 4

/-- The greater over the smaller storage width of a conversion without NFA. -/
def cvtRatio (o : OpV) : Nat :=
  let ws := tyWidth (bitsOf o.vc 7 4)
  let wd := tyWidth o.ty.toNat
  max ws wd / min ws wd

/-- VCVT's part (R179): below q, which depends on the format register where one side is NFA. -/
def wfVcvt (o : OpV) : Bool :=
  wfCvt o && bitsOf o.vb 10 4 == 0
    && (tyNFA o.ty || bitsOf o.vc 7 4 == 11 || bitsOf o.vb 3 0 < cvtRatio o)

/-- VPACK narrows and VUNPACK widens by a factor of two (R180). -/
def wfPack (narrow : Bool) (o : OpV) : Bool :=
  let ws := tyWidth (bitsOf o.vc 7 4)
  let wd := tyWidth o.ty.toNat
  vaOnly o && wfCvt o
    && (tyNFA o.ty || bitsOf o.vc 7 4 == 11 || (if narrow then wd * 2 == ws else ws * 2 == wd))

/-- VSAT's pairs of types (R181). -/
def wfVsat (o : OpV) : Bool :=
  let u := bitsOf o.vc 7 4
  vaOk o && o.vb == 0 && bitsOf o.vc 3 0 == 0 && frOk (u == 11) o.vc
    && ((tyIN o.ty && 3 ≤ u && u ≤ 10 && tyWidth u ≤ tyWidth o.ty.toNat) || (tyFL o.ty && (u ≤ 2 || u == 11)))

/-- The reductions (R184). -/
def wfVred (o : OpV) : Bool :=
  vaOnly o && vaOk o && o.vc == 0 && bitsOf o.vb 10 3 == 0
    && ((bitsOf o.vb 2 0 ≤ 2 && tyALL o.ty) || ((bitsOf o.vb 2 0 == 3 || bitsOf o.vb 2 0 == 4) && tyIN o.ty))

/-- Element count of a type other than NFA (R169). -/
def tyCount (t : BitVec 4) : Nat := 2048 / tyWidth t.toNat

/-- Whether an index names a system register that some chapter assigns (R137, R322, R444). -/
def sysAssigned (i : Nat) : Bool :=
  (0x001 ≤ i && i ≤ 0x005) || (0x008 ≤ i && i ≤ 0x011) || (0x018 ≤ i && i ≤ 0x01B) || i == 0x020 || i == 0x028
  || (0x030 ≤ i && i ≤ 0x032) || (0x034 ≤ i && i ≤ 0x038) || i == 0x03C || (0x040 ≤ i && i ≤ 0x044)
  || (0x100 ≤ i && i ≤ 0x102) || i == 0x104 || i == 0x105 || (0x108 ≤ i && i ≤ 0x10A) || i == 0x10C || i == 0x10D
  || i == 0x110 || i == 0x111 || (0x120 ≤ i && i ≤ 0x122) || (0x130 ≤ i && i ≤ 0x134) || (0x140 ≤ i && i ≤ 0x1C0)
  || (0x200 ≤ i && i ≤ 0x20A)
  || i == 0x300 || (0x302 ≤ i && i ≤ 0x30C) || (0x310 ≤ i && i ≤ 0x327) || (0x330 ≤ i && i ≤ 0x347)
  || (0x400 ≤ i && i ≤ 0x409) || (0x410 ≤ i && i ≤ 0x413) || (0x418 ≤ i && i ≤ 0x41A) || (0x420 ≤ i && i ≤ 0x424)
  || (0x428 ≤ i && i ≤ 0x42C) || (0x430 ≤ i && i ≤ 0x432) || i == 0x434 || (0x438 ≤ i && i ≤ 0x43B)
  || (0x440 ≤ i && i ≤ 0x4C1) || i == 0x4D0 || i == 0x4D1
  || i == 0x500 || i == 0x501 || (0x508 ≤ i && i ≤ 0x537) || (0x540 ≤ i && i ≤ 0x543) || (0x550 ≤ i && i ≤ 0x558)
  || i == 0x560 || i == 0x561 || (0x568 ≤ i && i ≤ 0x57F)

/-- A shift by an immediate (R158). -/
def wfShiftI (o : OpI) : Bool := o.aux == 0 && bitsOf o.imm 31 6 == 0

/-- A bit field lies within the word (R159). -/
def wfField (o : OpI) : Bool :=
  o.aux == 0 && bitsOf o.imm 7 6 == 0 && bitsOf o.imm 15 14 == 0 && bitsOf o.imm 31 17 == 0
    && bitsOf o.imm 5 0 + bitsOf o.imm 13 8 + 1 ≤ 64

/-- Size codes lo to hi (R206, R211). -/
def sizeIn (z : BitVec 3) (lo hi : Nat) : Bool := lo ≤ z.toNat && z.toNat ≤ hi

/-- An indexed access names no more elements than one index register holds (R208). -/
def indexedOk (size : BitVec 3) (xw : BitVec 2) : Bool := size.toNat ≤ 3 && xw.toNat ≤ size.toNat

/-- TS = 1 names accS, and the tile field is then zero (R253). -/
def tsOk (ts : BitVec 1) (tile : BitVec 4) : Bool := ts == 0 || tile == 0

/-- A barrier instruction has W = 0, ORD = 0 and SP = 1 (R300). -/
def wfBarrier (o : OpSyA) : Bool := o.w == 0 && o.ord == 0 && o.sp == 1

/-- A vector atomic's order is relaxed or release (R298). -/
def wfVatomic (o : OpSyV) : Bool := o.res == 0 && (o.ord == 0 || o.ord == 2)

/-- A core number of the package (R187). -/
def coreOk (c : Nat) : Bool := c < 96

/-- A core and context of the package (R126). -/
def ctxOk (c x : Nat) : Bool := c < 96 && x < 2

/-- The encoding checks of R75, one line for each instruction; of a step, that its unit exists. -/
def Instr.wf : Instr → Bool
  | .add o | .sub o | .mul o | .mulh o | .mulhn o | .div o | .divn o | .rem o | .remn o | .and o | .or o | .xor o
  | .shl o | .shr o | .sha o | .min o | .max o | .minn o | .maxn o => o.md == 0
  | .clz o | .popc o => o.sb == 0 && o.md == 0
  | .sel o => bitsOf o.md 31 4 == 0
  | .addi o | .andi o | .ori o | .xori o | .movhi o => o.aux == 0
  | .shli o | .shri o | .shai o | .roti o => wfShiftI o
  | .movi o => o.sa == 0 && o.aux == 0
  | .bfx o => wfField o
  | .bfi o => wfField o && bitsOf o.imm 16 16 == 0
  | .cmp o => bitsOf o.rest 29 0 == 0 && o.cond.toNat ≤ 9
  | .cmpi o => o.cond.toNat ≤ 9
  | .fcmp o => bitsOf o.rest 29 0 == 0 && o.cond.toNat ≤ 7
  | .fadd o | .fmul o => bitsOf o.md 3 0 ≤ 2 && bitsOf o.md 31 4 == 0
  | .ffma o => bitsOf o.md 3 0 ≤ 2 && bitsOf o.md 31 10 == 0
  | .fcvt o => o.sb == 0 && bitsOf o.md 3 0 ≤ 10 && bitsOf o.md 7 4 ≤ 10 && bitsOf o.md 31 9 == 0
  | .kmov o => bitsOf o.sd 5 4 == 0 && o.sb == 0 && o.md == 0
  | .kget o | .kpopc o => bitsOf o.sa 5 4 == 0 && o.sb == 0 && o.md == 0
  | .setshape o => o.sd == 0 && o.sa == 0 && o.aux == 0 && o.imm.toNat ≤ 6
  | .widf o =>
    o.sa == 0 && o.imm == 0
      && (o.aux.toNat ≤ 5 || (8 ≤ o.aux.toNat && o.aux.toNat ≤ 13) || (16 ≤ o.aux.toNat && o.aux.toNat ≤ 19))
  | .br o | .ret o => o.sd == 0 && o.sb == 0 && o.md == 0
  | .bri o => o.sl == 0 && o.r1 == 0 && o.r2 == 0
  | .call o => o.r1 == 0 && o.r2 == 0
  | .loop o => o.sd == 0 && o.aux == 0 && 1 ≤ o.imm.toNat && o.imm.toNat < 2 ^ 24
  | .timer o => o.sa == 0 && o.sb == 0 && o.md.toNat ≤ 2
  | .sysrd o => o.sa == 0 && o.aux == 0 && bitsOf o.imm 31 12 == 0 && sysAssigned o.imm.toNat
  | .syswr o => o.sd == 0 && o.aux == 0 && bitsOf o.imm 31 12 == 0 && sysAssigned o.imm.toNat
  | .vadd o | .vsub o | .vmul o | .vmin o | .vmax o | .vand o | .vor o | .vxor o => wfV2 tyALL o
  | .vfma o | .vfms o | .vfnma o => vaOk o && tyALL o.ty
  | .vabs o | .vneg o | .vnot o | .vmov o => wfV1 tyALL o
  | .vcmp o => wfVcmp o
  | .vsel o => vaOk o && tyALL o.ty && bitsOf o.vc 10 4 == 0
  | .vshl o | .vshr o | .vsha o | .vmulhi o => wfV2 tyIN o
  | .vcvt o => wfVcvt o
  | .vscale o => wfV2 tyFL o
  | .vclass o => wfVclass o
  | .vbcast o => vaOk o && tyALL o.ty && bitsOf o.vb 10 7 == 0 && o.vc == 0
  | .vsat o => wfVsat o
  | .vhash o => wfV2 tyWideInt o
  | .vfinite o => wfVclass o && bitsOf o.vd 10 4 == 0
  | .viota o => wfV1 tyIN o
  | .vkmov o => wfV1 tyALL o && bitsOf o.vd 10 4 == 0
  | .vdiv o => vaOnly o && wfV2 tyALL o
  | .vsqrt o | .vrsqrt o | .vrcp o | .vexp2 o | .vlog2 o | .vtanh o => vaOnly o && wfV1 tyFL o
  | .vperm o => vaOnly o && wfV2 tyALL o
  | .vtrans o => vaOnly o && wfV1 tyALL o
  | .vrowred o | .vcolred o | .vallred o => wfVred o
  | .vrot o => vaOnly o && wfV2 tyALL o && o.vb.toNat < tyCount o.ty
  | .vpack o => wfPack true o
  | .vunpack o => wfPack false o && o.vb == 0 && o.vd.toNat ≤ 2046
  | .vlaneget o => vaOnly o && wfV2 tyALL o && o.vb.toNat < tyCount o.ty && bitsOf o.vd 10 6 == 0
  | .cube o =>
    o.res == 0 && o.sd.toNat ≤ 58 && o.mask != 0 && o.af.toNat ≤ 5 && o.bf.toNat ≤ 5 && o.mode.toNat ≤ 2
      && (o.mode != 2 || o.tile == 0)
  | .mresume o => o.res == 0 && o.ab == 0
  | .mresumeAbandon o => o.res == 0 && o.ab == 1
  | .mpusha o | .mpushb o => o.res == 0
  | .mstep o => o.res == 0 && tsOk o.ts o.tile && o.mask != 0 && o.af.toNat ≤ 5 && o.bf.toNat ≤ 5
  | .mdrain o =>
    o.res == 0 && tsOk o.ts o.tile && (tyFL o.ty || tyNFA o.ty) && (tyNFA o.ty || o.fr == 0) && o.mode.toNat ≤ 4
  | .mzero o => o.res == 0 && tsOk o.ts o.tile
  | .mouter o =>
    o.res == 0 && tsOk o.ts o.tile && (tyFL o.ty || o.ty == 5 || o.ty == 8)
      && ((o.ty != 1 && o.ty != 2) || (o.ha == 0 && o.hb == 0))
  | .mrdacc o => o.res == 0 && tsOk o.ts o.tile
  | .mwracc o => o.res == 0 && tsOk o.ts o.tile && o.ty.toNat ≤ 3
  | .mscacc o => o.res == 0
  | .mrenorm o => o.res == 0 && tsOk o.ts o.tile
  | .mexp o => o.w == 0 && o.sa == 0 && o.res == 0 && tsOk o.ts o.tile
  | .mexpW o => o.w == 1 && o.sd == 0 && o.res == 0 && tsOk o.ts o.tile
  | .mfmt o => o.res == 0
  | .mprog o => o.res == 0 && o.sel.toNat ≤ 2
  | .ldg o | .ldv o => sizeIn o.size 0 3
  | .ldgv o | .ldvv o => sizeIn o.size 4 6
  | .ldgx o | .ldvx o => o.res == 0 && indexedOk o.size o.xw
  | .ldvs o => sizeIn o.size 1 3
  | .wld o => sizeIn o.size 0 3 && bitsOf o.base 5 3 == 0
  | .wldv o => sizeIn o.size 4 6 && bitsOf o.base 5 3 == 0
  | .lda o => sizeIn o.size 2 3
  | .ldk o => sizeIn o.size 3 3 && o.dist == 0 && bitsOf o.la 4 4 == 0
  | .dld o | .dst o => o.res == 0 && sizeIn o.size 2 6
  | .stg o | .stv o => o.res == 0 && sizeIn o.size 0 3 && bitsOf o.src 4 0 == 0
  | .stgv o | .stvv o => o.res == 0 && sizeIn o.size 4 6
  | .stgx o | .stvx o => o.res == 0 && indexedOk o.size o.xw
  | .stvs o => o.res == 0 && sizeIn o.size 1 3
  | .stl o => o.res == 0 && sizeIn o.size 2 3 && bitsOf o.src 4 0 == 0
  | .stk o => o.res == 0 && sizeIn o.size 3 3 && bitsOf o.src 6 0 == 0
  | .cebase o => o.sc == 0 && bitsOf o.imm 2 1 != 3 && bitsOf o.imm 29 4 == 0
  | .celvl o => bitsOf o.imm 2 0 ≤ 5 && bitsOf o.imm 29 3 == 0
  | .celen o => o.sb == 0 && o.sc == 0
  | .cego o => o.sb == 0 && o.sc == 0 && bitsOf o.imm 29 3 == 0 && (bitsOf o.imm 2 2 == 1 || o.sa == 0)
  | .ceidx o => o.sb == 0 && o.sc == 0 && bitsOf o.imm 29 3 == 0
  | .ceidxv o => o.res == 0 && 1 ≤ o.cnt.toNat && o.cnt.toNat ≤ 64
  | .ceidxend o | .cecancel o | .ceresume o => o.sa == 0 && o.sb == 0 && o.sc == 0 && o.imm == 0
  | .cestat o => o.sb == 0 && o.sc == 0 && bitsOf o.imm 29 5 == 0 && bitsOf o.imm 4 1 ≤ 8
  | .cefab o => o.sc == 0 && bitsOf o.imm 29 9 == 0 && bitsOf o.imm 8 6 ≤ 5
  | .fork o => o.imm == 0
  | .join o => o.sa == 0 && o.sb == 0 && o.imm == 0
  | .joinPark o => o.sa == 0 && o.sb == 0 && bitsOf o.imm 31 24 == 0x80
  | .exit o | .eret o => o.sd == 0 && o.sa == 0 && o.sb == 0 && o.imm == 0
  | .yield o | .ckpt o => o.sd == 0 && o.sa == 0 && o.sb == 0 && bitsOf o.imm 31 24 == 0
  | .spawn o => bitsOf o.imm 31 4 == 0
  | .kill o => o.sb == 0 && o.imm == 0
  | .killL o => o.sb == 0 && o.imm == 1
  | .binit o => wfBarrier o
  | .barr o => wfBarrier o && o.sb == 0
  | .bwait o => wfBarrier o && o.sd == 0
  | .cewait o => o.res == 0 && (o.all == 0 || o.mask == 0)
  | .fence o => o.sd == 0 && o.sa == 0 && o.sb == 0 && o.imm.toNat ≤ 4
  | .gred o =>
    o.sb == 0 && bitsOf o.imm 31 7 == 0 && bitsOf o.imm 6 4 != 7 && bitsOf o.imm 2 0 ≤ 4
      && (bitsOf o.imm 3 3 == 0 || 3 ≤ bitsOf o.imm 2 0)
  | .aadd _ | .amin _ | .amax _ | .aand _ | .aor _ | .axor _ | .aswp _ | .acas _ => true
  | .vaadd o => wfVatomic o && (o.ty == 0 || tyWideInt o.ty)
  | .vaor o => wfVatomic o && tyWideInt o.ty
  | .dmode o => o.sd == 0 && o.sa == 0 && o.sb == 0 && o.imm.toNat ≤ 1
  | .dreg o => o.sb == 0 && o.imm.toNat ≤ 7
  | .tapemk o => o.sd == 0 && o.sb == 0 && o.imm == 0
  | .tune o | .clkdiv o => o.sb == 0 && o.imm == 0
  | .ballastOff o => o.sb == 0 && o.sa == 0 && o.imm == 0
  | .ballastLevel o => o.sb == 0 && o.imm == 1
  | .ballastAuto o => o.sb == 0 && o.sa == 0 && o.imm == 2
  | .trap o => o.sd == 0 && o.sa == 0 && o.sb == 0 && bitsOf o.imm 31 16 == 0
  | .statq o => o.sa == 0 && o.sb == 0 && o.imm == 0 && o.sd != 63
  | .waitt o => o.sb == 0 && (o.imm == 1 || o.imm == 2)
  | .event o => bitsOf o.imm 31 16 == 0
  | .steptag o => o.sb == 0 && o.sa == 0 && bitsOf o.imm 31 6 == 0
  | .steptagW o => o.sb == 0 && bitsOf o.imm 31 6 == 4
  | .nop _ => true
  | .plog _ _ _ _ => true
  | .bundleIssue c x | .resultLand c x | .ckptTimerExpire c x | .strandSaveDone c x | .strandRestore c x
  | .contextTakeWork c x | .registerWrite c x _ _ => ctxOk c x
  | .cubeSeqBeat c | .matrixBeat c | .heatRefill c | .crossingRatioSwitch c | .ballastFloorUpdate c | .ilimUpdate c
  | .swapreqWrite c | .coreCycle c | .layerRuntimeFail c _ => coreOk c
  | .copyIteration c ch => coreOk c && ch < 4
  | .patrolScrub v w => v < 96 && w < 2 ^ 23
  | .railCodeStep q | .railDivisorDone q | .tlbFill q | .pageWalkDone q | .tlbInvAll q | .tlbInvAsid q _
  | .tlbInvPage q _ _ | .clusterFail q _ => q < 24
  | .stampScrubPass s | .sampleBoundary s | .sensorSample s _ | .vbusFlitRetry s _ | .stackFail s _ | .govMinWrite s _
  | .rstStack s | .stackBringup s | .stackRelease s => s < 4
  | .lqProdWrite q _ | .lqEntryRead q => q < 16
  | .featEnWrite n _ => n < 4
  | .pkgRootWrite n _ => n < 64
  | .grpGo g | .groupDrainEnd g | .groupRetrainDone g _ _ | .cxlWriteFail g _ | .ieee1588EventMessage g _ => g < 16
  | .rankUpdOne r | .rereqSend r => r < 1024
  | .rwBind w | .rwUnbind w | .rwSnapshot w => w < 64
  | .gangAdmit l | .dispatchRange l | .preemptRequest l => l < 256
  | .landingArrival _ | .joinWordUpdate _ | .vaultNetRequest _ | .hbmRequest _ | .atomicRequest _ | .atomicRetry _
  | .atomicReservationExpire _ _ | .vectorAtomicElement _ | .adjointAccumulate _ | .adjointExchange _
  | .barrierRequest _ | .barrierPhaseReport _ | .gredContribution _ | .raceReport _ | .telemetryRecord | .slackDwell
  | .eventPost _ | .eventBufferDrain | .pkgKill _ | .pkgResume _ | .pkgTlbinvAll | .pkgTlbinvAsid _
  | .pkgTlbinvPage _ _ | .ptimeOfsWrite _ | .rstWarm | .rstCold | .powerOn | .perst | .pcieHotReset
  | .bxcFirmwareBoot | .hbmBridgeTraining | .hostLinkTraining | .attest _ | .ident _ | .mclog _ | .fwload _
  | .hostWindowRead _ _ | .hostWindowWrite _ _ _ | .bridgeTrimmedHeader _ | .rankUpdAll | .write _ | .reduce _
  | .read _ | .readresp _ | .ack _ | .rereq _ | .result _ | .resultIncomplete _ | .trimmedHeader _ | .rtoExpire _
  | .ranklost _ _ | .softError _ _ | .registerWindowAccess _ | .bridgeRetransmission _ | .ptimeCfgWrite _ => true

/-- The opcodes that may not stand in a bundle with REPEAT other than 0 (R64). -/
def Instr.noRepeat : Instr → Bool
  | .br _ | .bri _ | .call _ | .ret _ | .loop _ | .exit _ | .yield _ | .ckpt _ | .eret _ | .spawn _ => true
  | _ => false

/-- Whether the tile field of an MX instruction names accS, which may not step (R63, R253). -/
def Instr.namesAccS : Instr → Bool
  | .mstep o => o.ts == 1
  | .mdrain o => o.ts == 1
  | .mzero o => o.ts == 1
  | .mouter o => o.ts == 1
  | .mrdacc o => o.ts == 1
  | .mwracc o => o.ts == 1
  | .mrenorm o => o.ts == 1
  | .mexp o => o.ts == 1
  | .mexpW o => o.ts == 1
  | .cube o => o.mode == 2
  | _ => false

end Sys2Proof
end

