-- ==== Sys2Proof/Machine/Float.lean ====
section
/-! DEFINITION. Numbers and arithmetic (01_arithmetic.md): formats, exact values, Round (R27 to R30), the special-value
rules (R34) and conversions (R36). Every operation is the exact result followed by one rounding. -/

namespace Sys2Proof.Machine

/-- The sticky flags of CTX.STAT bits 4:0 (R135): DIVZ, FINV, FDZ, FOVF, PWOOB. -/
abbrev Flags := BitVec 5

def Flags.none : Flags := 0
def Flags.divz : Flags := 1
def Flags.finv : Flags := 2
def Flags.fdz : Flags := 4
def Flags.fovf : Flags := 8
def Flags.pwoob : Flags := 16

/-- A floating format: width, exponent bits, mantissa bits, bias, SPEC and SUBN (R17, R19), and whether its NaNs can be
signalling (R18; the NaNs of a narrow format are all quiet, R178). -/
structure Fmt where
  w : Nat
  e : Nat
  m : Nat
  bias : Int
  spec : Nat
  subn : Bool
  ieee : Bool
deriving DecidableEq, Repr

def Fmt.f32 : Fmt := ⟨32, 8, 23, 127, 0, true, true⟩
def Fmt.f16 : Fmt := ⟨16, 5, 10, 15, 0, true, true⟩
def Fmt.bf16 : Fmt := ⟨16, 8, 7, 127, 0, true, true⟩

/-- The narrow format of a format register value (R19). -/
def Fmt.ofReg (r : BitVec 32) : Fmt :=
  let w := bitsOf r 3 0
  let e := bitsOf r 7 4
  { w := w, e := e, m := w - 1 - e, bias := (BitVec.ofNat 8 (bitsOf r 15 8)).toInt, spec := bitsOf r 17 16,
    subn := bitsOf r 18 18 == 1, ieee := false }

/-- Whether a format register value is legal (R22). -/
def fmtLegal (r : BitVec 32) : Bool :=
  let f := Fmt.ofReg r
  let xmax : Int := if f.spec = 0 then 2 ^ f.e - 2 else 2 ^ f.e - 1
  let emin : Int := if f.subn then 1 - f.bias - f.m else 1 - f.bias
  bitsOf r 31 19 == 0 && f.spec != 3 && (4 ≤ f.w && f.w ≤ 8) && (1 ≤ f.e && f.e ≤ f.w - 1)
    && (f.spec != 0 || (2 ≤ f.e && 1 ≤ f.m)) && (f.m != 0 || !f.subn) && decide (xmax - f.bias ≤ 127)
    && decide (-149 ≤ emin)

/-- A value: NaN (signalling or not), infinity, or a finite (-1)^neg × mant × 2^exp. -/
inductive FVal
  | nan (sig : Bool)
  | inf (neg : Bool)
  | fin (neg : Bool) (mant : Nat) (exp : Int)
deriving DecidableEq, Repr

def FVal.isNan : FVal → Bool
  | .nan _ => true
  | _ => false

def FVal.isSnan : FVal → Bool
  | .nan s => s
  | _ => false

def FVal.isInf : FVal → Bool
  | .inf _ => true
  | _ => false

def FVal.isFinite : FVal → Bool
  | .fin _ _ _ => true
  | _ => false

def FVal.isZero : FVal → Bool
  | .fin _ m _ => m == 0
  | _ => false

def FVal.neg : FVal → Bool
  | .nan _ => false
  | .inf n => n
  | .fin n _ _ => n

/-- The value with its sign flipped. -/
def FVal.flip : FVal → FVal
  | .nan s => .nan s
  | .inf n => .inf (!n)
  | .fin n m e => .fin (!n) m e

/-- FINV for a signalling NaN operand (R31). -/
def FVal.snanFlag (a : FVal) : Flags := if a.isSnan then Flags.finv else 0

/-- The value of an encoding (R17, R20). -/
def Fmt.dec (f : Fmt) (bits : Nat) : FVal :=
  let neg := bits / 2 ^ (f.w - 1) % 2 == 1
  let x := bits / 2 ^ f.m % 2 ^ f.e
  let fr := bits % 2 ^ f.m
  if f.spec = 0 ∧ x = 2 ^ f.e - 1 then
    if fr = 0 then .inf neg else .nan (f.ieee && fr < 2 ^ (f.m - 1))
  else if f.spec = 1 ∧ x = 2 ^ f.e - 1 ∧ fr = 2 ^ f.m - 1 then .nan false
  else if x = 0 then
    if f.subn then .fin neg fr (1 - f.bias - f.m) else .fin neg 0 0
  else .fin neg (2 ^ f.m + fr) (x - f.bias - f.m)

/-- The largest finite magnitude as an encoding without sign (R28). -/
def Fmt.maxBits (f : Fmt) : Nat :=
  if f.spec = 0 then (2 ^ f.e - 1) * 2 ^ f.m - 1
  else if f.spec = 1 then 2 ^ (f.w - 1) - 2
  else 2 ^ (f.w - 1) - 1

/-- The canonical NaN (R17, R21); +0 in a format without NaN. -/
def Fmt.canon (f : Fmt) : Nat :=
  if f.spec = 0 ∧ f.ieee then (2 ^ f.e - 1) * 2 ^ f.m + 2 ^ (f.m - 1)
  else if f.spec = 2 then 0
  else 2 ^ (f.w - 1) - 1

/-- The sign bit in place. -/
def Fmt.signBit (f : Fmt) (neg : Bool) : Nat := if neg then 2 ^ (f.w - 1) else 0

/-- The encoding of an infinity; the canonical NaN where SPEC = 1, the largest finite where SPEC = 2 (R28). -/
def Fmt.infBits (f : Fmt) (neg : Bool) : Nat :=
  if f.spec = 0 then f.signBit neg + (2 ^ f.e - 1) * 2 ^ f.m
  else if f.spec = 1 then f.canon
  else f.signBit neg + f.maxBits

/-- A result: an encoding and the flags it sets. -/
structure FRes where
  bits : Nat
  fl : Flags
deriving DecidableEq, Repr

/-- The rounding modes (R26): 0 RNE, 1 RTZ, 2 RUP, 3 RDN, 4 RST. -/
abbrev RMode := Nat

/-- Overflow in Round (R28): where the first row of the table gives an infinity. -/
def overflowToInf (mode : RMode) (neg : Bool) : Bool :=
  match mode with
  | 1 => false
  | 2 => !neg
  | 3 => neg
  | _ => true

/-- The result of a finite value that overflows (R28); FOVF is set with saturation too. -/
def Fmt.overflow (f : Fmt) (mode : RMode) (sat neg : Bool) : FRes :=
  if sat || f.spec == 2 || !overflowToInf mode neg then ⟨f.signBit neg + f.maxBits, Flags.fovf⟩
  else ⟨f.infBits neg, Flags.fovf⟩

/-- An infinite input (R28): as an overflow under RNE, without the flag. -/
def Fmt.ofInf (f : Fmt) (sat neg : Bool) : FRes :=
  if sat then ⟨f.signBit neg + f.maxBits, 0⟩ else ⟨f.infBits neg, 0⟩

/-- A NaN input (R29). -/
def Fmt.ofNan (f : Fmt) (sig : Bool) : FRes :=
  ⟨f.canon, (if f.spec = 2 then Flags.finv else 0) ||| (if sig then Flags.finv else 0)⟩

/-- Number of bits of n; 0 for 0. -/
def bitLen (n : Nat) : Nat := if n = 0 then 0 else n.log2 + 1

/-- The encoding of n × 2^q without sign, for the quantum q of the binade of n in the format. -/
def Fmt.encMag (f : Fmt) (n : Nat) (q : Int) : Nat :=
  if n < 2 ^ f.m then n
  else
    let up := if n = 2 ^ (f.m + 1) then 1 else 0
    ((q + f.m + f.bias).toNat + up) * 2 ^ f.m + (if up = 1 then 0 else n - 2 ^ f.m)

/-- The comparison of an encoding's magnitude with the largest finite one, through exponents that have no encoding. -/
def Fmt.tooBig (f : Fmt) (n : Nat) (q : Int) : Bool :=
  decide ((f.maxBits : Int) < f.encMag n q)

/-- Whether Round takes the candidate of larger magnitude (R27 step 2, R30): twice the distance to the smaller one `d2`
against the gap `g`, the parity of the smaller encoding, and RST's threshold z against the 24-bit fraction. -/
def roundsUp (mode : RMode) (neg odd : Bool) (d g : Nat) (sticky : Bool) (z : Nat) : Bool :=
  match mode with
  | 1 => false
  | 2 => !neg
  | 3 => neg
  | 4 => decide (z < d * 2 ^ 24 / g)
  | _ => decide (g < 2 * d) || (2 * d == g && (sticky || odd))

/-- Round of a nonzero magnitude mant × 2^exp (R27). With `sticky`, the exact magnitude lies strictly between that and
(mant + 1) × 2^exp, and mant holds more than m + 3 bits. `z` is RST's value (R30). -/
def Fmt.roundMag (f : Fmt) (mode : RMode) (sat : Bool) (z : Nat) (neg : Bool) (mant : Nat) (exp : Int)
    (sticky : Bool) : FRes :=
  let top : Int := exp + bitLen mant - 1
  let q : Int := max (top - f.m) (1 - f.bias - f.m)
  let u : Int := min exp (q - 2)
  let x := mant * 2 ^ (exp - u).toNat
  let one := 2 ^ (q - u).toNat
  let n := x / one
  -- the candidates in quanta, the all-ones magnitude of a SPEC = 1 format skipped
  let ones := 2 ^ (f.w - 1) - 1
  let lo := if f.spec = 1 ∧ n ≠ 0 ∧ f.encMag n q = ones then (if f.m = 0 then 0 else n - 1) else n
  let lo2 := if f.spec = 1 ∧ f.m = 0 ∧ n ≠ 0 ∧ f.encMag n q = ones then one / 2 else lo * one
  let hi := if f.spec = 1 ∧ f.encMag (n + 1) q = ones then (if f.m = 0 then 2 * (n + 1) else n + 2) else n + 1
  if x = lo2 ∧ !sticky then
    if lo < 2 ^ f.m ∧ !f.subn ∧ q = 1 - f.bias - f.m then ⟨f.signBit neg, 0⟩
    else if f.tooBig lo q then f.overflow mode sat neg
    else ⟨f.signBit neg + f.encMag lo q, 0⟩
  else
    let odd := f.encMag n q % 2 == 1 && lo == n
    let up := roundsUp mode neg odd (x - lo2) (hi * one - lo2) sticky z
    let bits := if up then f.encMag hi q else if lo = n then f.encMag n q else ones - 1
    if decide (f.maxBits < bits) then f.overflow mode sat neg
    else if bits < 2 ^ f.m ∧ !f.subn then ⟨f.signBit neg, 0⟩
    else ⟨f.signBit neg + bits, 0⟩

/-- Round(x, fmt, mode) of an exact finite value (R27); a zero keeps its sign. -/
def Fmt.round (f : Fmt) (mode : RMode) (sat : Bool) (z : Nat) (neg : Bool) (mant : Nat) (exp : Int)
    (sticky : Bool) : FRes :=
  if mant = 0 then ⟨f.signBit neg, 0⟩ else f.roundMag mode sat z neg mant exp sticky

/-- Conversion of a value to a format (R36): float to float. -/
def Fmt.ofVal (f : Fmt) (mode : RMode) (sat : Bool) (z : Nat) : FVal → FRes
  | .nan s => f.ofNan s
  | .inf n => f.ofInf sat n
  | .fin n m e => f.round mode sat z n m e false

/-- An exact signed integer times a power of two. -/
structure Dy where
  n : Int
  e : Int
deriving DecidableEq, Repr

/-- The exact signed value of a finite value. -/
def FVal.dy : FVal → Dy
  | .fin neg m e => ⟨if neg then -(m : Int) else m, e⟩
  | _ => ⟨0, 0⟩

/-- The exact sum. -/
def Dy.add (a b : Dy) : Dy :=
  let e := min a.e b.e
  ⟨a.n * 2 ^ (a.e - e).toNat + b.n * 2 ^ (b.e - e).toNat, e⟩

/-- The exact product. -/
def Dy.mul (a b : Dy) : Dy := ⟨a.n * b.n, a.e + b.e⟩

/-- Round of an exact value whose zero has the sign `zneg`. -/
def Fmt.ofDy (f : Fmt) (mode : RMode) (zneg : Bool) (d : Dy) : FRes :=
  if d.n = 0 then ⟨f.signBit zneg, 0⟩ else f.round mode false 0 (decide (d.n < 0)) d.n.natAbs d.e false

/-- The mode of an instruction that does not round stochastically (R26). -/
def plainMode (mode : RMode) : RMode := if mode = 4 then 0 else mode

/-- Canon with FINV, or with the flags of signalling operands only. -/
def Fmt.invalid (f : Fmt) : FRes := ⟨f.canon, Flags.finv⟩

/-- a + b (R33, R34). -/
def fAdd (f : Fmt) (mode : RMode) (a b : FVal) : FRes :=
  let sn := a.snanFlag ||| b.snanFlag
  if a.isNan || b.isNan then ⟨f.canon, sn⟩
  else if a.isInf && b.isInf then if a.neg == b.neg then ⟨f.infBits a.neg, 0⟩ else f.invalid
  else if a.isInf then ⟨f.infBits a.neg, 0⟩
  else if b.isInf then ⟨f.infBits b.neg, 0⟩
  else
    let zneg := if a.neg == b.neg then a.neg else mode == 3
    f.ofDy mode (if a.isZero && b.isZero then zneg else mode == 3) (a.dy.add b.dy)

/-- a × b (R33, R34). -/
def fMul (f : Fmt) (mode : RMode) (a b : FVal) : FRes :=
  let sn := a.snanFlag ||| b.snanFlag
  let neg := a.neg != b.neg
  if a.isNan || b.isNan then ⟨f.canon, sn⟩
  else if (a.isInf && b.isZero) || (a.isZero && b.isInf) then f.invalid
  else if a.isInf || b.isInf then ⟨f.infBits neg, 0⟩
  else f.ofDy mode neg (a.dy.mul b.dy)

/-- a × b + c with one rounding; a row for 0 × ∞ decides whatever c is (R34). -/
def fFma (f : Fmt) (mode : RMode) (a b c : FVal) : FRes :=
  let sn := a.snanFlag ||| b.snanFlag ||| c.snanFlag
  let neg := a.neg != b.neg
  if (a.isInf && b.isZero) || (a.isZero && b.isInf) then ⟨f.canon, sn ||| Flags.finv⟩
  else if a.isNan || b.isNan || c.isNan then ⟨f.canon, sn⟩
  else if a.isInf || b.isInf then
    if c.isInf && c.neg != neg then f.invalid else ⟨f.infBits neg, 0⟩
  else if c.isInf then ⟨f.infBits c.neg, 0⟩
  else
    let zneg := if neg == c.neg then neg else mode == 3
    let pz := a.isZero || b.isZero
    f.ofDy mode (if pz && c.isZero then zneg else mode == 3) ((a.dy.mul b.dy).add c.dy)

/-- floor(mant × 2^k / d) and whether it is inexact. -/
def divSticky (mant d k : Nat) : Nat × Bool := (mant * 2 ^ k / d, mant * 2 ^ k % d != 0)

/-- a / b (R33, R34). -/
def fDiv (f : Fmt) (mode : RMode) (a b : FVal) : FRes :=
  let sn := a.snanFlag ||| b.snanFlag
  let neg := a.neg != b.neg
  if a.isNan || b.isNan then ⟨f.canon, sn⟩
  else if (a.isInf && b.isInf) || (a.isZero && b.isZero) then f.invalid
  else if a.isInf then ⟨f.infBits neg, 0⟩
  else if b.isInf then ⟨f.signBit neg, 0⟩
  else if b.isZero then ⟨f.infBits neg, Flags.fdz⟩
  else
    match a, b with
    | .fin _ ma ea, .fin _ mb eb =>
      let k := 64 + bitLen mb
      let (qt, st) := divSticky ma mb k
      f.round mode false 0 neg qt (ea - eb - k) st
    | _, _ => ⟨f.canon, sn⟩

/-- floor of the square root, bit by bit. -/
def isqrtGo (n : Nat) : Nat → Nat → Nat
  | 0, r => r
  | k + 1, r => isqrtGo n k (if (r + 2 ^ k) * (r + 2 ^ k) ≤ n then r + 2 ^ k else r)

/-- floor of the square root. -/
def isqrt (n : Nat) : Nat := isqrtGo n (bitLen n / 2 + 1) 0

/-- √a (R33, R34). -/
def fSqrt (f : Fmt) (mode : RMode) (a : FVal) : FRes :=
  match a with
  | .nan s => ⟨f.canon, if s then Flags.finv else 0⟩
  | .inf n => if n then f.invalid else ⟨f.infBits false, 0⟩
  | .fin neg m e =>
    if m = 0 then ⟨f.signBit neg, 0⟩
    else if neg then f.invalid
    else
      let sh : Nat := if e % 2 = 0 then 128 else 129
      let x : Nat := m * (2 : Nat) ^ sh
      let r := isqrt x
      f.round mode false 0 false r ((e - (sh : Int)) / 2) (r * r != x)

/-- 1 / a (R33, R34). -/
def fRcp (f : Fmt) (mode : RMode) (a : FVal) : FRes :=
  match a with
  | .nan s => ⟨f.canon, if s then Flags.finv else 0⟩
  | .inf n => ⟨f.signBit n, 0⟩
  | .fin neg m e =>
    if m = 0 then ⟨f.infBits neg, Flags.fdz⟩
    else fDiv f mode (.fin false 1 0) (.fin neg m e)

/-- 1 / √a (R33, R34). -/
def fRsqrt (f : Fmt) (mode : RMode) (a : FVal) : FRes :=
  match a with
  | .nan s => ⟨f.canon, if s then Flags.finv else 0⟩
  | .inf n => if n then f.invalid else ⟨f.signBit false, 0⟩
  | .fin neg m e =>
    if m = 0 then ⟨f.infBits neg, Flags.fdz⟩
    else if neg then f.invalid
    else
      let k0 : Nat := 2 * bitLen m + 128
      let k : Nat := if (e + (k0 : Int)) % 2 = 0 then k0 else k0 + 1
      let x : Nat := (2 : Nat) ^ k / m
      let r := isqrt x
      f.round mode false 0 false r (-(e + (k : Int)) / 2) (r * r * m != (2 : Nat) ^ k)

/-- Exact comparison of finite values and infinities: -1, 0 or 1. -/
def FVal.cmp (a b : FVal) : Int :=
  match a, b with
  | .inf x, .inf y => if x == y then 0 else if x then -1 else 1
  | .inf x, _ => if x then -1 else 1
  | _, .inf y => if y then 1 else -1
  | _, _ =>
    let d := (a.dy.add b.flip.dy).n
    if d < 0 then -1 else if d = 0 then 0 else 1

/-- min (R34): a NaN gives the other operand, −0 is below +0. The result is an encoding of one operand. -/
def fMinMax (f : Fmt) (isMax : Bool) (abits bbits : Nat) : FRes :=
  let a := f.dec abits
  let b := f.dec bbits
  let sn := a.snanFlag ||| b.snanFlag
  if a.isNan && b.isNan then ⟨f.canon, sn⟩
  else if a.isNan then ⟨bbits, sn⟩
  else if b.isNan then ⟨abits, sn⟩
  else
    let c := a.cmp b
    let aLess := decide (c < 0) || (c == 0 && a.neg)
    if aLess != isMax then ⟨abits, 0⟩ else ⟨bbits, 0⟩

/-- The comparison conditions (R160, R176): 0 EQ, 1 NE, 2 LT, 3 LE, 4 GT, 5 GE, 6 UN, 7 OR; with the flag of R34. -/
def fCompare (cond : Nat) (a b : FVal) : Bool × Flags :=
  let sn := a.snanFlag ||| b.snanFlag
  let un := a.isNan || b.isNan
  if un then
    match cond with
    | 0 => (false, sn)
    | 1 => (true, sn)
    | 6 => (true, sn)
    | 7 => (false, sn)
    | _ => (false, Flags.finv)
  else
    let c := a.cmp b
    match cond with
    | 0 => (c == 0, 0)
    | 1 => (c != 0, 0)
    | 2 => (decide (c < 0), 0)
    | 3 => (decide (c ≤ 0), 0)
    | 4 => (decide (0 < c), 0)
    | 5 => (decide (0 ≤ c), 0)
    | 6 => (false, 0)
    | _ => (true, 0)

/-- The exact sum of a list of values rounded once (R185). -/
def fSum (f : Fmt) (mode : RMode) (xs : List FVal) : FRes :=
  let sn := xs.foldl (fun acc x => acc ||| x.snanFlag) 0
  let pinf := xs.any fun x => x.isInf && !x.neg
  let ninf := xs.any fun x => x.isInf && x.neg
  if xs.any FVal.isNan then ⟨f.canon, sn ||| (if pinf && ninf then Flags.finv else 0)⟩
  else if pinf && ninf then f.invalid
  else if pinf || ninf then ⟨f.infBits ninf, 0⟩
  else
    let total := xs.foldl (fun acc x => acc.add x.dy) ⟨0, 0⟩
    let zneg :=
      if xs.all fun x => x.isZero && x.neg then true
      else if xs.all fun x => x.isZero && !x.neg then false
      else mode == 3
    f.ofDy mode zneg total

/-- VSCALE: a × 2^n (R173). -/
def fScale (f : Fmt) (mode : RMode) (a : FVal) (n : Int) : FRes :=
  match a with
  | .nan s => ⟨f.canon, if s then Flags.finv else 0⟩
  | .inf s => ⟨f.infBits s, 0⟩
  | .fin neg m e => f.round mode false 0 neg m (e + n) false

/-- RST's 24-bit value for element i (R30). -/
def rstZ (seed : BitVec 64) (i : Nat) : Nat :=
  let h := seed + (BitVec.ofNat 64 (i + 1)) * 0x9E3779B97F4A7C15#64
  let h := (h ^^^ (h >>> 30)) * 0xBF58476D1CE4E5B9#64
  let h := (h ^^^ (h >>> 27)) * 0x94D049BB133111EB#64
  let h := h ^^^ (h >>> 31)
  bitsOf h 63 40

/-- An integer chosen from an exact value under a mode (R36). -/
def roundInt (mode : RMode) (z : Nat) (neg : Bool) (mant : Nat) (exp : Int) : Int :=
  let k := (-exp).toNat
  let lo := if 0 ≤ exp then mant * 2 ^ exp.toNat else mant / 2 ^ k
  let d := if 0 ≤ exp then 0 else mant % 2 ^ k
  let up := d != 0 && roundsUp mode neg (lo % 2 == 1) d (2 ^ k) false z
  let n : Int := if up then lo + 1 else lo
  if neg then -n else n

/-- Range of an integer type of width w (R15). -/
def intMin (signed : Bool) (w : Nat) : Int := if signed then -(2 ^ (w - 1)) else 0
def intMax (signed : Bool) (w : Nat) : Int := if signed then 2 ^ (w - 1) - 1 else 2 ^ w - 1

/-- Clamp to a range. -/
def clampInt (x lo hi : Int) : Int := if x < lo then lo else if hi < x then hi else x

/-- Float to integer (R36): rounded, clamped; NaN gives 0; FINV on NaN and on a clamp. -/
def fToInt (mode : RMode) (z : Nat) (signed : Bool) (w : Nat) : FVal → FRes
  | .nan _ => ⟨0, Flags.finv⟩
  | .inf n => ⟨((if n then intMin signed w else intMax signed w) % 2 ^ w).toNat, Flags.finv⟩
  | .fin n m e =>
    let i := roundInt mode z n m e
    let c := clampInt i (intMin signed w) (intMax signed w)
    ⟨(c % 2 ^ w).toNat, if c = i then 0 else Flags.finv⟩

/-- Rne(x / 2^e) of a dyadic value (R38). -/
def dyRne (d : Dy) (e : Int) : Int := roundInt 0 0 (decide (d.n < 0)) d.n.natAbs (d.e - e)

end Sys2Proof.Machine
end

