-- ==== Sys2Proof/Config.lean ====
section
/-! DEFINITION. What the manual leaves open and the model does not choose: free values without a body (log entries 4,
5 and 8). Nothing in Lean can evaluate one; a statement holds for every value of each. -/

namespace Sys2Proof.Config

/-- Which of the steps that may take place next does so: the unfixed delays and orders of R446, R445 and R4 (log 4).
Applied to the number of choices made so far. -/
opaque choice : Nat → Nat

/-- A value that the manual calls undefined or does not state, applied to a fresh number (log 8). -/
opaque freeWord : Nat → BitVec 64

/-- The value of a byte that the manual calls undefined, applied to a fresh number (log 8). -/
opaque freeByte : Nat → BitVec 8

/-- A thermal reading, in 0.25 °C units, of one layer at a sample (R372), from outside the model (log 4). -/
opaque sensor : Nat → Nat

/-- A mean power of an interval in 0.25 W units (R404), from outside the model (log 4). -/
opaque power : Nat → BitVec 16

/-- SHAKE256 with a 512-bit output (R405): the manual names the function and does not define it (log 5). -/
opaque shake256 : List (BitVec 8) → BitVec 512

/-- Whether an image's ML-DSA-65 signature verifies against the fused key and its security version is accepted
(R405, log 5). -/
opaque imageAccepted : List (BitVec 8) → Bool

/-- The initialisation and BXC firmware images of the part (R405, log 5): 0 the BXC's, 1 the initialisation firmware. -/
opaque firmware : Nat → List (BitVec 8)

/-- A byte of the ML-DSA-65 signature over a report, under the device identity derived from M0 (R406, log 5). -/
opaque signature : BitVec 512 → List (BitVec 8) → Nat → BitVec 8

/-- A byte of the public key of the device identity derived from M0 (R406, log 5). -/
opaque publicKey : BitVec 512 → Nat → BitVec 8

/-- The certificate over that key (R406, log 5). -/
opaque certificate : BitVec 512 → List (BitVec 8)

/-- The vertical bus of a stack that a lane belongs to, and the spare lanes of a bus (R366, R367), which the manual does not
give (log 93). -/
opaque laneBus : Nat → Nat
opaque busSpares : Nat → Nat

/-- An error code of a BXC command whose cause the manual does not number, 2 to 255 (R406, log 8). -/
opaque bxcError : Nat → BitVec 8

/-- The current weight of an operation, by its opcode, that the weight table does not name (R154, log 8). -/
opaque weight : Nat → Nat

end Sys2Proof.Config
end

