-- ==== Sys2Proof/Decode.lean ====
section
/-! DEFINITION. The bundle and its slots as bits (R47 to R57), the opcode map (R70 to R75), stepping (R63), and the
encoder of every slot instruction, written from the same layouts. -/

namespace Sys2Proof

/-- The fields of a layout laid side by side, the first in the highest bits. -/
def packFields : List Nat → List Nat → Nat
  | [], _ => 0
  | _ :: ws, [] => packFields ws []
  | w :: ws, v :: vs => (v % 2 ^ w) * 2 ^ ws.sum + packFields ws vs

/-- The fields of a layout of widths `ws`, from its bits. -/
def unpackFields : List Nat → Nat → List Nat
  | [], _ => []
  | w :: ws, n => (n / 2 ^ ws.sum) % 2 ^ w :: unpackFields ws n

/-- Field k of an unpacked layout, as a bit vector. -/
def fld (w : Nat) (fs : List Nat) (k : Nat) : BitVec w := BitVec.ofNat w (fs.getD k 0)

/-- Why a bundle is not an instruction (R75): its header, or the slot at fault. -/
inductive Reject
  | illb
  | illop (sl : Slot)
deriving DecidableEq, Repr

/-- Field widths of the layout, guard first. -/
def OpR.widths : List Nat := [4, 6, 6, 6, 32]

/-- The layout as field values. -/
def OpR.fields (o : OpR) : List Nat := [o.g.toNat, o.sd.toNat, o.sa.toNat, o.sb.toNat, o.md.toNat]

/-- The layout from field values. -/
def OpR.ofFields (fs : List Nat) : OpR :=
  { g := fld 4 fs 0, sd := fld 6 fs 1, sa := fld 6 fs 2, sb := fld 6 fs 3, md := fld 32 fs 4 }

/-- Field widths of the layout, guard first. -/
def OpI.widths : List Nat := [4, 6, 6, 6, 32]

/-- The layout as field values. -/
def OpI.fields (o : OpI) : List Nat := [o.g.toNat, o.sd.toNat, o.sa.toNat, o.aux.toNat, o.imm.toNat]

/-- The layout from field values. -/
def OpI.ofFields (fs : List Nat) : OpI :=
  { g := fld 4 fs 0, sd := fld 6 fs 1, sa := fld 6 fs 2, aux := fld 6 fs 3, imm := fld 32 fs 4 }

/-- Field widths of the layout, guard first. -/
def OpB.widths : List Nat := [4, 6, 6, 6, 32]

/-- The layout as field values. -/
def OpB.fields (o : OpB) : List Nat := [o.g.toNat, o.sl.toNat, o.r1.toNat, o.r2.toNat, o.off.toNat]

/-- The layout from field values. -/
def OpB.ofFields (fs : List Nat) : OpB :=
  { g := fld 4 fs 0, sl := fld 6 fs 1, r1 := fld 6 fs 2, r2 := fld 6 fs 3, off := fld 32 fs 4 }

/-- Field widths of the layout, guard first. -/
def OpC.widths : List Nat := [4, 4, 4, 6, 36]

/-- The layout as field values. -/
def OpC.fields (o : OpC) : List Nat := [o.g.toNat, o.kd.toNat, o.cond.toNat, o.sa.toNat, o.rest.toNat]

/-- The layout from field values. -/
def OpC.ofFields (fs : List Nat) : OpC :=
  { g := fld 4 fs 0, kd := fld 4 fs 1, cond := fld 4 fs 2, sa := fld 6 fs 3, rest := fld 36 fs 4 }

/-- Field widths of the layout, guard first. -/
def OpV.widths : List Nat := [4, 11, 11, 11, 11, 4, 2]

/-- The layout as field values. -/
def OpV.fields (o : OpV) : List Nat := [o.g.toNat, o.vd.toNat, o.va.toNat, o.vb.toNat, o.vc.toNat, o.ty.toNat, o.cls.toNat]

/-- The layout from field values. -/
def OpV.ofFields (u : Bool) (fs : List Nat) : OpV :=
  { u := u, g := fld 4 fs 0, vd := fld 11 fs 1, va := fld 11 fs 2, vb := fld 11 fs 3, vc := fld 11 fs 4,
    ty := fld 4 fs 5, cls := fld 2 fs 6 }

/-- Field widths of the layout, guard first. -/
def OpLd.widths : List Nat := [4, 5, 6, 6, 10, 3, 20]

/-- The layout as field values. -/
def OpLd.fields (o : OpLd) : List Nat := [o.g.toNat, o.la.toNat, o.base.toNat, o.idx.toNat, o.dist.toNat, o.size.toNat, o.off.toNat]

/-- The layout from field values. -/
def OpLd.ofFields (fs : List Nat) : OpLd :=
  { g := fld 4 fs 0, la := fld 5 fs 1, base := fld 6 fs 2, idx := fld 6 fs 3, dist := fld 10 fs 4,
    size := fld 3 fs 5, off := fld 20 fs 6 }

/-- Field widths of the layout, guard first. -/
def OpLdX.widths : List Nat := [4, 5, 6, 11, 2, 1, 3, 3, 10, 9]

/-- The layout as field values. -/
def OpLdX.fields (o : OpLdX) : List Nat := [o.g.toNat, o.la.toNat, o.base.toNat, o.xv.toNat, o.xw.toNat, o.sg.toNat, o.sh.toNat, o.size.toNat, o.dist.toNat, o.res.toNat]

/-- The layout from field values. -/
def OpLdX.ofFields (fs : List Nat) : OpLdX :=
  { g := fld 4 fs 0, la := fld 5 fs 1, base := fld 6 fs 2, xv := fld 11 fs 3, xw := fld 2 fs 4,
    sg := fld 1 fs 5, sh := fld 3 fs 6, size := fld 3 fs 7, dist := fld 10 fs 8, res := fld 9 fs 9 }

/-- Field widths of the layout, guard first. -/
def OpD.widths : List Nat := [4, 11, 6, 1, 9, 3, 20]

/-- The layout as field values. -/
def OpD.fields (o : OpD) : List Nat := [o.g.toNat, o.v.toNat, o.base.toNat, o.space.toNat, o.res.toNat, o.size.toNat, o.off.toNat]

/-- The layout from field values. -/
def OpD.ofFields (fs : List Nat) : OpD :=
  { g := fld 4 fs 0, v := fld 11 fs 1, base := fld 6 fs 2, space := fld 1 fs 3, res := fld 9 fs 4,
    size := fld 3 fs 5, off := fld 20 fs 6 }

/-- Field widths of the layout, guard first. -/
def OpSt.widths : List Nat := [4, 11, 6, 6, 4, 3, 20]

/-- The layout as field values. -/
def OpSt.fields (o : OpSt) : List Nat := [o.g.toNat, o.src.toNat, o.base.toNat, o.idx.toNat, o.res.toNat, o.size.toNat, o.off.toNat]

/-- The layout from field values. -/
def OpSt.ofFields (fs : List Nat) : OpSt :=
  { g := fld 4 fs 0, src := fld 11 fs 1, base := fld 6 fs 2, idx := fld 6 fs 3, res := fld 4 fs 4,
    size := fld 3 fs 5, off := fld 20 fs 6 }

/-- Field widths of the layout, guard first. -/
def OpStX.widths : List Nat := [4, 11, 6, 11, 2, 1, 3, 3, 13]

/-- The layout as field values. -/
def OpStX.fields (o : OpStX) : List Nat := [o.g.toNat, o.src.toNat, o.base.toNat, o.xv.toNat, o.xw.toNat, o.sg.toNat, o.sh.toNat, o.size.toNat, o.res.toNat]

/-- The layout from field values. -/
def OpStX.ofFields (fs : List Nat) : OpStX :=
  { g := fld 4 fs 0, src := fld 11 fs 1, base := fld 6 fs 2, xv := fld 11 fs 3, xw := fld 2 fs 4,
    sg := fld 1 fs 5, sh := fld 3 fs 6, size := fld 3 fs 7, res := fld 13 fs 8 }

/-- Field widths of the layout, guard first. -/
def OpCube.widths : List Nat := [4, 4, 6, 8, 3, 3, 2, 24]

/-- The layout as field values. -/
def OpCube.fields (o : OpCube) : List Nat := [o.g.toNat, o.tile.toNat, o.sd.toNat, o.mask.toNat, o.af.toNat, o.bf.toNat, o.mode.toNat, o.res.toNat]

/-- The layout from field values. -/
def OpCube.ofFields (fs : List Nat) : OpCube :=
  { g := fld 4 fs 0, tile := fld 4 fs 1, sd := fld 6 fs 2, mask := fld 8 fs 3, af := fld 3 fs 4,
    bf := fld 3 fs 5, mode := fld 2 fs 6, res := fld 24 fs 7 }

/-- Field widths of the layout, guard first. -/
def OpAb.widths : List Nat := [4, 49, 1]

/-- The layout as field values. -/
def OpAb.fields (o : OpAb) : List Nat := [o.g.toNat, o.res.toNat, o.ab.toNat]

/-- The layout from field values. -/
def OpAb.ofFields (fs : List Nat) : OpAb :=
  { g := fld 4 fs 0, res := fld 49 fs 1, ab := fld 1 fs 2 }

/-- Field widths of the layout, guard first. -/
def OpPush.widths : List Nat := [4, 11, 3, 36]

/-- The layout as field values. -/
def OpPush.fields (o : OpPush) : List Nat := [o.g.toNat, o.vs.toNat, o.l.toNat, o.res.toNat]

/-- The layout from field values. -/
def OpPush.ofFields (fs : List Nat) : OpPush :=
  { g := fld 4 fs 0, vs := fld 11 fs 1, l := fld 3 fs 2, res := fld 36 fs 3 }

/-- Field widths of the layout, guard first. -/
def OpStep.widths : List Nat := [4, 4, 1, 8, 3, 3, 3, 3, 25]

/-- The layout as field values. -/
def OpStep.fields (o : OpStep) : List Nat := [o.g.toNat, o.tile.toNat, o.ts.toNat, o.mask.toNat, o.af.toNat, o.bf.toNat, o.fa.toNat, o.fb.toNat, o.res.toNat]

/-- The layout from field values. -/
def OpStep.ofFields (fs : List Nat) : OpStep :=
  { g := fld 4 fs 0, tile := fld 4 fs 1, ts := fld 1 fs 2, mask := fld 8 fs 3, af := fld 3 fs 4,
    bf := fld 3 fs 5, fa := fld 3 fs 6, fb := fld 3 fs 7, res := fld 25 fs 8 }

/-- Field widths of the layout, guard first. -/
def OpDrain.widths : List Nat := [4, 11, 4, 1, 7, 7, 4, 3, 1, 3, 9]

/-- The layout as field values. -/
def OpDrain.fields (o : OpDrain) : List Nat := [o.g.toNat, o.vd.toNat, o.tile.toNat, o.ts.toNat, o.row.toNat, o.col.toNat, o.ty.toNat, o.fr.toNat, o.sat.toNat, o.mode.toNat, o.res.toNat]

/-- The layout from field values. -/
def OpDrain.ofFields (fs : List Nat) : OpDrain :=
  { g := fld 4 fs 0, vd := fld 11 fs 1, tile := fld 4 fs 2, ts := fld 1 fs 3, row := fld 7 fs 4,
    col := fld 7 fs 5, ty := fld 4 fs 6, fr := fld 3 fs 7, sat := fld 1 fs 8, mode := fld 3 fs 9,
    res := fld 9 fs 10 }

/-- Field widths of the layout, guard first. -/
def OpZero.widths : List Nat := [4, 4, 1, 29, 16]

/-- The layout as field values. -/
def OpZero.fields (o : OpZero) : List Nat := [o.g.toNat, o.tile.toNat, o.ts.toNat, o.res.toNat, o.e.toNat]

/-- The layout from field values. -/
def OpZero.ofFields (fs : List Nat) : OpZero :=
  { g := fld 4 fs 0, tile := fld 4 fs 1, ts := fld 1 fs 2, res := fld 29 fs 3, e := fld 16 fs 4 }

/-- Field widths of the layout, guard first. -/
def OpOuter.widths : List Nat := [4, 11, 11, 4, 1, 4, 1, 1, 17]

/-- The layout as field values. -/
def OpOuter.fields (o : OpOuter) : List Nat := [o.g.toNat, o.va.toNat, o.vb.toNat, o.tile.toNat, o.ts.toNat, o.ty.toNat, o.ha.toNat, o.hb.toNat, o.res.toNat]

/-- The layout from field values. -/
def OpOuter.ofFields (fs : List Nat) : OpOuter :=
  { g := fld 4 fs 0, va := fld 11 fs 1, vb := fld 11 fs 2, tile := fld 4 fs 3, ts := fld 1 fs 4,
    ty := fld 4 fs 5, ha := fld 1 fs 6, hb := fld 1 fs 7, res := fld 17 fs 8 }

/-- Field widths of the layout, guard first. -/
def OpRdAcc.widths : List Nat := [4, 11, 4, 1, 7, 7, 1, 19]

/-- The layout as field values. -/
def OpRdAcc.fields (o : OpRdAcc) : List Nat := [o.g.toNat, o.vd.toNat, o.tile.toNat, o.ts.toNat, o.row.toNat, o.col.toNat, o.clr.toNat, o.res.toNat]

/-- The layout from field values. -/
def OpRdAcc.ofFields (fs : List Nat) : OpRdAcc :=
  { g := fld 4 fs 0, vd := fld 11 fs 1, tile := fld 4 fs 2, ts := fld 1 fs 3, row := fld 7 fs 4,
    col := fld 7 fs 5, clr := fld 1 fs 6, res := fld 19 fs 7 }

/-- Field widths of the layout, guard first. -/
def OpWrAcc.widths : List Nat := [4, 11, 4, 1, 7, 7, 1, 4, 15]

/-- The layout as field values. -/
def OpWrAcc.fields (o : OpWrAcc) : List Nat := [o.g.toNat, o.vs.toNat, o.tile.toNat, o.ts.toNat, o.row.toNat, o.col.toNat, o.add.toNat, o.ty.toNat, o.res.toNat]

/-- The layout from field values. -/
def OpWrAcc.ofFields (fs : List Nat) : OpWrAcc :=
  { g := fld 4 fs 0, vs := fld 11 fs 1, tile := fld 4 fs 2, ts := fld 1 fs 3, row := fld 7 fs 4,
    col := fld 7 fs 5, add := fld 1 fs 6, ty := fld 4 fs 7, res := fld 15 fs 8 }

/-- Field widths of the layout, guard first. -/
def OpScAcc.widths : List Nat := [4, 11, 11, 4, 1, 1, 22]

/-- The layout as field values. -/
def OpScAcc.fields (o : OpScAcc) : List Nat := [o.g.toNat, o.va.toNat, o.vb.toNat, o.tile.toNat, o.ha.toNat, o.hb.toNat, o.res.toNat]

/-- The layout from field values. -/
def OpScAcc.ofFields (fs : List Nat) : OpScAcc :=
  { g := fld 4 fs 0, va := fld 11 fs 1, vb := fld 11 fs 2, tile := fld 4 fs 3, ha := fld 1 fs 4,
    hb := fld 1 fs 5, res := fld 22 fs 6 }

/-- Field widths of the layout, guard first. -/
def OpTile.widths : List Nat := [4, 4, 1, 45]

/-- The layout as field values. -/
def OpTile.fields (o : OpTile) : List Nat := [o.g.toNat, o.tile.toNat, o.ts.toNat, o.res.toNat]

/-- The layout from field values. -/
def OpTile.ofFields (fs : List Nat) : OpTile :=
  { g := fld 4 fs 0, tile := fld 4 fs 1, ts := fld 1 fs 2, res := fld 45 fs 3 }

/-- Field widths of the layout, guard first. -/
def OpExp.widths : List Nat := [4, 6, 4, 1, 1, 6, 32]

/-- The layout as field values. -/
def OpExp.fields (o : OpExp) : List Nat := [o.g.toNat, o.sd.toNat, o.tile.toNat, o.ts.toNat, o.w.toNat, o.sa.toNat, o.res.toNat]

/-- The layout from field values. -/
def OpExp.ofFields (fs : List Nat) : OpExp :=
  { g := fld 4 fs 0, sd := fld 6 fs 1, tile := fld 4 fs 2, ts := fld 1 fs 3, w := fld 1 fs 4, sa := fld 6 fs 5,
    res := fld 32 fs 6 }

/-- Field widths of the layout, guard first. -/
def OpFmt.widths : List Nat := [4, 3, 6, 41]

/-- The layout as field values. -/
def OpFmt.fields (o : OpFmt) : List Nat := [o.g.toNat, o.fd.toNat, o.sa.toNat, o.res.toNat]

/-- The layout from field values. -/
def OpFmt.ofFields (fs : List Nat) : OpFmt :=
  { g := fld 4 fs 0, fd := fld 3 fs 1, sa := fld 6 fs 2, res := fld 41 fs 3 }

/-- Field widths of the layout, guard first. -/
def OpProg.widths : List Nat := [4, 6, 2, 42]

/-- The layout as field values. -/
def OpProg.fields (o : OpProg) : List Nat := [o.g.toNat, o.sd.toNat, o.sel.toNat, o.res.toNat]

/-- The layout from field values. -/
def OpProg.ofFields (fs : List Nat) : OpProg :=
  { g := fld 4 fs 0, sd := fld 6 fs 1, sel := fld 2 fs 2, res := fld 42 fs 3 }

/-- Field widths of the layout, guard first. -/
def OpCeA.widths : List Nat := [4, 2, 6, 6, 6, 30]

/-- The layout as field values. -/
def OpCeA.fields (o : OpCeA) : List Nat := [o.g.toNat, o.ch.toNat, o.sa.toNat, o.sb.toNat, o.sc.toNat, o.imm.toNat]

/-- The layout from field values. -/
def OpCeA.ofFields (fs : List Nat) : OpCeA :=
  { g := fld 4 fs 0, ch := fld 2 fs 1, sa := fld 6 fs 2, sb := fld 6 fs 3, sc := fld 6 fs 4,
    imm := fld 30 fs 5 }

/-- Field widths of the layout, guard first. -/
def OpCeV.widths : List Nat := [4, 2, 11, 2, 1, 3, 7, 24]

/-- The layout as field values. -/
def OpCeV.fields (o : OpCeV) : List Nat := [o.g.toNat, o.ch.toNat, o.xv.toNat, o.xw.toNat, o.sg.toNat, o.sh.toNat, o.cnt.toNat, o.res.toNat]

/-- The layout from field values. -/
def OpCeV.ofFields (fs : List Nat) : OpCeV :=
  { g := fld 4 fs 0, ch := fld 2 fs 1, xv := fld 11 fs 2, xw := fld 2 fs 3, sg := fld 1 fs 4, sh := fld 3 fs 5,
    cnt := fld 7 fs 6, res := fld 24 fs 7 }

/-- Field widths of the layout, guard first. -/
def OpSy.widths : List Nat := [4, 6, 6, 6, 32]

/-- The layout as field values. -/
def OpSy.fields (o : OpSy) : List Nat := [o.g.toNat, o.sd.toNat, o.sa.toNat, o.sb.toNat, o.imm.toNat]

/-- The layout from field values. -/
def OpSy.ofFields (fs : List Nat) : OpSy :=
  { g := fld 4 fs 0, sd := fld 6 fs 1, sa := fld 6 fs 2, sb := fld 6 fs 3, imm := fld 32 fs 4 }

/-- Field widths of the layout, guard first. -/
def OpSyA.widths : List Nat := [4, 6, 6, 6, 1, 2, 1, 28]

/-- The layout as field values. -/
def OpSyA.fields (o : OpSyA) : List Nat := [o.g.toNat, o.sd.toNat, o.base.toNat, o.sb.toNat, o.w.toNat, o.ord.toNat, o.sp.toNat, o.off.toNat]

/-- The layout from field values. -/
def OpSyA.ofFields (fs : List Nat) : OpSyA :=
  { g := fld 4 fs 0, sd := fld 6 fs 1, base := fld 6 fs 2, sb := fld 6 fs 3, w := fld 1 fs 4,
    ord := fld 2 fs 5, sp := fld 1 fs 6, off := fld 28 fs 7 }

/-- Field widths of the layout, guard first. -/
def OpSyV.widths : List Nat := [4, 11, 11, 6, 4, 2, 1, 15]

/-- The layout as field values. -/
def OpSyV.fields (o : OpSyV) : List Nat := [o.g.toNat, o.vo.toNat, o.vs.toNat, o.base.toNat, o.ty.toNat, o.ord.toNat, o.sp.toNat, o.res.toNat]

/-- The layout from field values. -/
def OpSyV.ofFields (fs : List Nat) : OpSyV :=
  { g := fld 4 fs 0, vo := fld 11 fs 1, vs := fld 11 fs 2, base := fld 6 fs 3, ty := fld 4 fs 4,
    ord := fld 2 fs 5, sp := fld 1 fs 6, res := fld 15 fs 7 }

/-- Field widths of the layout, guard first. -/
def OpSyC.widths : List Nat := [4, 2, 1, 11, 36]

/-- The layout as field values. -/
def OpSyC.fields (o : OpSyC) : List Nat := [o.g.toNat, o.ch.toNat, o.all.toNat, o.mask.toNat, o.res.toNat]

/-- The layout from field values. -/
def OpSyC.ofFields (fs : List Nat) : OpSyC :=
  { g := fld 4 fs 0, ch := fld 2 fs 1, all := fld 1 fs 2, mask := fld 11 fs 3, res := fld 36 fs 4 }

/-- The bits of a slot: opcode in 59:54, then the guard and the operand layout (R50). -/
def slotBits (op : Nat) (ws fs : List Nat) : Nat := op * 2 ^ 54 + packFields ws fs

/-- The opcode map of slot S (R70); none for an unassigned opcode. -/
def decodeS (w : Nat) : Option Instr :=
  match w / 2 ^ 54 % 64 with
  | 0x00 => some (.nop .s)
  | 0x01 => some (.add (OpR.ofFields (unpackFields OpR.widths w)))
  | 0x02 => some (.sub (OpR.ofFields (unpackFields OpR.widths w)))
  | 0x03 => some (.addi (OpI.ofFields (unpackFields OpI.widths w)))
  | 0x04 => some (.mul (OpR.ofFields (unpackFields OpR.widths w)))
  | 0x05 => some (.mulh (OpR.ofFields (unpackFields OpR.widths w)))
  | 0x06 => some (.mulhn (OpR.ofFields (unpackFields OpR.widths w)))
  | 0x07 => some (.div (OpR.ofFields (unpackFields OpR.widths w)))
  | 0x08 => some (.divn (OpR.ofFields (unpackFields OpR.widths w)))
  | 0x09 => some (.rem (OpR.ofFields (unpackFields OpR.widths w)))
  | 0x0A => some (.remn (OpR.ofFields (unpackFields OpR.widths w)))
  | 0x0B => some (.and (OpR.ofFields (unpackFields OpR.widths w)))
  | 0x0C => some (.or (OpR.ofFields (unpackFields OpR.widths w)))
  | 0x0D => some (.xor (OpR.ofFields (unpackFields OpR.widths w)))
  | 0x0E => some (.andi (OpI.ofFields (unpackFields OpI.widths w)))
  | 0x0F => some (.ori (OpI.ofFields (unpackFields OpI.widths w)))
  | 0x10 => some (.xori (OpI.ofFields (unpackFields OpI.widths w)))
  | 0x11 => some (.shl (OpR.ofFields (unpackFields OpR.widths w)))
  | 0x12 => some (.shr (OpR.ofFields (unpackFields OpR.widths w)))
  | 0x13 => some (.sha (OpR.ofFields (unpackFields OpR.widths w)))
  | 0x14 => some (.shli (OpI.ofFields (unpackFields OpI.widths w)))
  | 0x15 => some (.shri (OpI.ofFields (unpackFields OpI.widths w)))
  | 0x16 => some (.shai (OpI.ofFields (unpackFields OpI.widths w)))
  | 0x17 => some (.roti (OpI.ofFields (unpackFields OpI.widths w)))
  | 0x18 => some (.min (OpR.ofFields (unpackFields OpR.widths w)))
  | 0x19 => some (.max (OpR.ofFields (unpackFields OpR.widths w)))
  | 0x1A => some (.minn (OpR.ofFields (unpackFields OpR.widths w)))
  | 0x1B => some (.maxn (OpR.ofFields (unpackFields OpR.widths w)))
  | 0x1C => some (.clz (OpR.ofFields (unpackFields OpR.widths w)))
  | 0x1D => some (.popc (OpR.ofFields (unpackFields OpR.widths w)))
  | 0x1E => some (.movi (OpI.ofFields (unpackFields OpI.widths w)))
  | 0x1F => some (.movhi (OpI.ofFields (unpackFields OpI.widths w)))
  | 0x20 => some (.cmp (OpC.ofFields (unpackFields OpC.widths w)))
  | 0x21 => some (.cmpi (OpC.ofFields (unpackFields OpC.widths w)))
  | 0x22 => some (.sel (OpR.ofFields (unpackFields OpR.widths w)))
  | 0x23 => some (.bfx (OpI.ofFields (unpackFields OpI.widths w)))
  | 0x24 => some (.bfi (OpI.ofFields (unpackFields OpI.widths w)))
  | 0x25 => some (.fadd (OpR.ofFields (unpackFields OpR.widths w)))
  | 0x26 => some (.fmul (OpR.ofFields (unpackFields OpR.widths w)))
  | 0x27 => some (.ffma (OpR.ofFields (unpackFields OpR.widths w)))
  | 0x28 => some (.fcmp (OpC.ofFields (unpackFields OpC.widths w)))
  | 0x29 => some (.fcvt (OpR.ofFields (unpackFields OpR.widths w)))
  | 0x2A => some (.kmov (OpR.ofFields (unpackFields OpR.widths w)))
  | 0x2B => some (.kget (OpR.ofFields (unpackFields OpR.widths w)))
  | 0x2C => some (.kpopc (OpR.ofFields (unpackFields OpR.widths w)))
  | 0x2D => some (.setshape (OpI.ofFields (unpackFields OpI.widths w)))
  | 0x2E => some (.widf (OpI.ofFields (unpackFields OpI.widths w)))
  | 0x30 => some (.br (OpR.ofFields (unpackFields OpR.widths w)))
  | 0x31 => some (.bri (OpB.ofFields (unpackFields OpB.widths w)))
  | 0x32 => some (.call (OpB.ofFields (unpackFields OpB.widths w)))
  | 0x33 => some (.ret (OpR.ofFields (unpackFields OpR.widths w)))
  | 0x34 => some (.loop (OpI.ofFields (unpackFields OpI.widths w)))
  | 0x36 => some (.timer (OpR.ofFields (unpackFields OpR.widths w)))
  | 0x3C => some (.sysrd (OpI.ofFields (unpackFields OpI.widths w)))
  | 0x3D => some (.syswr (OpI.ofFields (unpackFields OpI.widths w)))
  | _ => none

/-- The opcode map of slot VA or VB (R71); none for an unassigned opcode. -/
def decodeV (u : Bool) (w : Nat) : Option Instr :=
  match w / 2 ^ 54 % 64 with
  | 0x00 => some (.nop (if u then .vb else .va))
  | 0x01 => some (.vadd (OpV.ofFields u (unpackFields OpV.widths w)))
  | 0x02 => some (.vsub (OpV.ofFields u (unpackFields OpV.widths w)))
  | 0x03 => some (.vmul (OpV.ofFields u (unpackFields OpV.widths w)))
  | 0x04 => some (.vfma (OpV.ofFields u (unpackFields OpV.widths w)))
  | 0x05 => some (.vfms (OpV.ofFields u (unpackFields OpV.widths w)))
  | 0x06 => some (.vfnma (OpV.ofFields u (unpackFields OpV.widths w)))
  | 0x07 => some (.vmin (OpV.ofFields u (unpackFields OpV.widths w)))
  | 0x08 => some (.vmax (OpV.ofFields u (unpackFields OpV.widths w)))
  | 0x09 => some (.vabs (OpV.ofFields u (unpackFields OpV.widths w)))
  | 0x0A => some (.vneg (OpV.ofFields u (unpackFields OpV.widths w)))
  | 0x0B => some (.vcmp (OpV.ofFields u (unpackFields OpV.widths w)))
  | 0x0C => some (.vsel (OpV.ofFields u (unpackFields OpV.widths w)))
  | 0x0D => some (.vand (OpV.ofFields u (unpackFields OpV.widths w)))
  | 0x0E => some (.vor (OpV.ofFields u (unpackFields OpV.widths w)))
  | 0x0F => some (.vxor (OpV.ofFields u (unpackFields OpV.widths w)))
  | 0x10 => some (.vnot (OpV.ofFields u (unpackFields OpV.widths w)))
  | 0x11 => some (.vshl (OpV.ofFields u (unpackFields OpV.widths w)))
  | 0x12 => some (.vshr (OpV.ofFields u (unpackFields OpV.widths w)))
  | 0x13 => some (.vsha (OpV.ofFields u (unpackFields OpV.widths w)))
  | 0x14 => some (.vcvt (OpV.ofFields u (unpackFields OpV.widths w)))
  | 0x15 => some (.vscale (OpV.ofFields u (unpackFields OpV.widths w)))
  | 0x16 => some (.vclass (OpV.ofFields u (unpackFields OpV.widths w)))
  | 0x17 => some (.vbcast (OpV.ofFields u (unpackFields OpV.widths w)))
  | 0x18 => some (.vmov (OpV.ofFields u (unpackFields OpV.widths w)))
  | 0x19 => some (.vmulhi (OpV.ofFields u (unpackFields OpV.widths w)))
  | 0x1A => some (.vsat (OpV.ofFields u (unpackFields OpV.widths w)))
  | 0x1B => some (.vhash (OpV.ofFields u (unpackFields OpV.widths w)))
  | 0x1C => some (.vfinite (OpV.ofFields u (unpackFields OpV.widths w)))
  | 0x1D => some (.viota (OpV.ofFields u (unpackFields OpV.widths w)))
  | 0x1E => some (.vkmov (OpV.ofFields u (unpackFields OpV.widths w)))
  | 0x20 => some (.vdiv (OpV.ofFields u (unpackFields OpV.widths w)))
  | 0x21 => some (.vsqrt (OpV.ofFields u (unpackFields OpV.widths w)))
  | 0x22 => some (.vrsqrt (OpV.ofFields u (unpackFields OpV.widths w)))
  | 0x23 => some (.vrcp (OpV.ofFields u (unpackFields OpV.widths w)))
  | 0x24 => some (.vexp2 (OpV.ofFields u (unpackFields OpV.widths w)))
  | 0x25 => some (.vlog2 (OpV.ofFields u (unpackFields OpV.widths w)))
  | 0x26 => some (.vtanh (OpV.ofFields u (unpackFields OpV.widths w)))
  | 0x27 => some (.vperm (OpV.ofFields u (unpackFields OpV.widths w)))
  | 0x28 => some (.vtrans (OpV.ofFields u (unpackFields OpV.widths w)))
  | 0x29 => some (.vrowred (OpV.ofFields u (unpackFields OpV.widths w)))
  | 0x2A => some (.vcolred (OpV.ofFields u (unpackFields OpV.widths w)))
  | 0x2B => some (.vallred (OpV.ofFields u (unpackFields OpV.widths w)))
  | 0x2C => some (.vrot (OpV.ofFields u (unpackFields OpV.widths w)))
  | 0x2D => some (.vpack (OpV.ofFields u (unpackFields OpV.widths w)))
  | 0x2E => some (.vunpack (OpV.ofFields u (unpackFields OpV.widths w)))
  | 0x2F => some (.vlaneget (OpV.ofFields u (unpackFields OpV.widths w)))
  | _ => none

/-- The opcode map of slot MX (R72); none for an unassigned opcode. -/
def decodeMx (w : Nat) : Option Instr :=
  match w / 2 ^ 54 % 64 with
  | 0x00 => some (.nop .mx)
  | 0x01 => some (.cube (OpCube.ofFields (unpackFields OpCube.widths w)))
  | 0x02 => if w % 2 = 0 then some (.mresume (OpAb.ofFields (unpackFields OpAb.widths w))) else some (.mresumeAbandon (OpAb.ofFields (unpackFields OpAb.widths w)))
  | 0x03 => some (.mpusha (OpPush.ofFields (unpackFields OpPush.widths w)))
  | 0x04 => some (.mpushb (OpPush.ofFields (unpackFields OpPush.widths w)))
  | 0x05 => some (.mstep (OpStep.ofFields (unpackFields OpStep.widths w)))
  | 0x06 => some (.mdrain (OpDrain.ofFields (unpackFields OpDrain.widths w)))
  | 0x07 => some (.mzero (OpZero.ofFields (unpackFields OpZero.widths w)))
  | 0x08 => some (.mouter (OpOuter.ofFields (unpackFields OpOuter.widths w)))
  | 0x09 => some (.mrdacc (OpRdAcc.ofFields (unpackFields OpRdAcc.widths w)))
  | 0x0A => some (.mwracc (OpWrAcc.ofFields (unpackFields OpWrAcc.widths w)))
  | 0x0B => some (.mscacc (OpScAcc.ofFields (unpackFields OpScAcc.widths w)))
  | 0x0C => some (.mrenorm (OpTile.ofFields (unpackFields OpTile.widths w)))
  | 0x0D => if w / 2 ^ 38 % 2 = 0 then some (.mexp (OpExp.ofFields (unpackFields OpExp.widths w))) else some (.mexpW (OpExp.ofFields (unpackFields OpExp.widths w)))
  | 0x0E => some (.mfmt (OpFmt.ofFields (unpackFields OpFmt.widths w)))
  | 0x0F => some (.mprog (OpProg.ofFields (unpackFields OpProg.widths w)))
  | _ => none

/-- The opcode map of slot LD (R73); none for an unassigned opcode. -/
def decodeLd (w : Nat) : Option Instr :=
  match w / 2 ^ 54 % 64 with
  | 0x00 => some (.nop .ld)
  | 0x01 => some (.ldg (OpLd.ofFields (unpackFields OpLd.widths w)))
  | 0x02 => some (.ldgv (OpLd.ofFields (unpackFields OpLd.widths w)))
  | 0x03 => some (.ldgx (OpLdX.ofFields (unpackFields OpLdX.widths w)))
  | 0x04 => some (.ldv (OpLd.ofFields (unpackFields OpLd.widths w)))
  | 0x05 => some (.ldvv (OpLd.ofFields (unpackFields OpLd.widths w)))
  | 0x06 => some (.ldvs (OpLd.ofFields (unpackFields OpLd.widths w)))
  | 0x07 => some (.ldvx (OpLdX.ofFields (unpackFields OpLdX.widths w)))
  | 0x08 => some (.wld (OpLd.ofFields (unpackFields OpLd.widths w)))
  | 0x09 => some (.wldv (OpLd.ofFields (unpackFields OpLd.widths w)))
  | 0x0A => some (.lda (OpLd.ofFields (unpackFields OpLd.widths w)))
  | 0x0B => some (.ldk (OpLd.ofFields (unpackFields OpLd.widths w)))
  | 0x0C => some (.dld (OpD.ofFields (unpackFields OpD.widths w)))
  | _ => none

/-- The opcode map of slot ST (R73); none for an unassigned opcode. -/
def decodeSt (w : Nat) : Option Instr :=
  match w / 2 ^ 54 % 64 with
  | 0x00 => some (.nop .st)
  | 0x01 => some (.stg (OpSt.ofFields (unpackFields OpSt.widths w)))
  | 0x02 => some (.stgv (OpSt.ofFields (unpackFields OpSt.widths w)))
  | 0x03 => some (.stgx (OpStX.ofFields (unpackFields OpStX.widths w)))
  | 0x04 => some (.stv (OpSt.ofFields (unpackFields OpSt.widths w)))
  | 0x05 => some (.stvv (OpSt.ofFields (unpackFields OpSt.widths w)))
  | 0x06 => some (.stvs (OpSt.ofFields (unpackFields OpSt.widths w)))
  | 0x07 => some (.stvx (OpStX.ofFields (unpackFields OpStX.widths w)))
  | 0x08 => some (.stl (OpSt.ofFields (unpackFields OpSt.widths w)))
  | 0x09 => some (.stk (OpSt.ofFields (unpackFields OpSt.widths w)))
  | 0x0A => some (.dst (OpD.ofFields (unpackFields OpD.widths w)))
  | _ => none

/-- The opcode map of slot CE (R74); none for an unassigned opcode. -/
def decodeCe (w : Nat) : Option Instr :=
  match w / 2 ^ 54 % 64 with
  | 0x00 => some (.nop .ce)
  | 0x01 => some (.cebase (OpCeA.ofFields (unpackFields OpCeA.widths w)))
  | 0x02 => some (.celvl (OpCeA.ofFields (unpackFields OpCeA.widths w)))
  | 0x03 => some (.celen (OpCeA.ofFields (unpackFields OpCeA.widths w)))
  | 0x04 => some (.cego (OpCeA.ofFields (unpackFields OpCeA.widths w)))
  | 0x05 => some (.ceidx (OpCeA.ofFields (unpackFields OpCeA.widths w)))
  | 0x06 => some (.ceidxv (OpCeV.ofFields (unpackFields OpCeV.widths w)))
  | 0x07 => some (.ceidxend (OpCeA.ofFields (unpackFields OpCeA.widths w)))
  | 0x08 => some (.cestat (OpCeA.ofFields (unpackFields OpCeA.widths w)))
  | 0x09 => some (.cecancel (OpCeA.ofFields (unpackFields OpCeA.widths w)))
  | 0x0A => some (.ceresume (OpCeA.ofFields (unpackFields OpCeA.widths w)))
  | 0x0B => some (.cefab (OpCeA.ofFields (unpackFields OpCeA.widths w)))
  | _ => none

/-- The opcode map of slot SY (R74); none for an unassigned opcode. -/
def decodeSy (w : Nat) : Option Instr :=
  match w / 2 ^ 54 % 64 with
  | 0x00 => some (.nop .sy)
  | 0x01 => some (.fork (OpSy.ofFields (unpackFields OpSy.widths w)))
  | 0x02 => if w / 2 ^ 31 % 2 = 0 then some (.join (OpSy.ofFields (unpackFields OpSy.widths w))) else some (.joinPark (OpSy.ofFields (unpackFields OpSy.widths w)))
  | 0x03 => some (.exit (OpSy.ofFields (unpackFields OpSy.widths w)))
  | 0x04 => some (.yield (OpSy.ofFields (unpackFields OpSy.widths w)))
  | 0x05 => some (.ckpt (OpSy.ofFields (unpackFields OpSy.widths w)))
  | 0x06 => some (.spawn (OpSy.ofFields (unpackFields OpSy.widths w)))
  | 0x07 => if w % 2 = 0 then some (.kill (OpSy.ofFields (unpackFields OpSy.widths w))) else some (.killL (OpSy.ofFields (unpackFields OpSy.widths w)))
  | 0x10 => some (.binit (OpSyA.ofFields (unpackFields OpSyA.widths w)))
  | 0x11 => some (.barr (OpSyA.ofFields (unpackFields OpSyA.widths w)))
  | 0x12 => some (.bwait (OpSyA.ofFields (unpackFields OpSyA.widths w)))
  | 0x13 => some (.cewait (OpSyC.ofFields (unpackFields OpSyC.widths w)))
  | 0x14 => some (.fence (OpSy.ofFields (unpackFields OpSy.widths w)))
  | 0x15 => some (.gred (OpSy.ofFields (unpackFields OpSy.widths w)))
  | 0x18 => some (.aadd (OpSyA.ofFields (unpackFields OpSyA.widths w)))
  | 0x19 => some (.amin (OpSyA.ofFields (unpackFields OpSyA.widths w)))
  | 0x1A => some (.amax (OpSyA.ofFields (unpackFields OpSyA.widths w)))
  | 0x1B => some (.aand (OpSyA.ofFields (unpackFields OpSyA.widths w)))
  | 0x1C => some (.aor (OpSyA.ofFields (unpackFields OpSyA.widths w)))
  | 0x1D => some (.axor (OpSyA.ofFields (unpackFields OpSyA.widths w)))
  | 0x1E => some (.aswp (OpSyA.ofFields (unpackFields OpSyA.widths w)))
  | 0x1F => some (.acas (OpSyA.ofFields (unpackFields OpSyA.widths w)))
  | 0x20 => some (.vaadd (OpSyV.ofFields (unpackFields OpSyV.widths w)))
  | 0x21 => some (.vaor (OpSyV.ofFields (unpackFields OpSyV.widths w)))
  | 0x24 => some (.dmode (OpSy.ofFields (unpackFields OpSy.widths w)))
  | 0x25 => some (.dreg (OpSy.ofFields (unpackFields OpSy.widths w)))
  | 0x26 => some (.tapemk (OpSy.ofFields (unpackFields OpSy.widths w)))
  | 0x28 => some (.tune (OpSy.ofFields (unpackFields OpSy.widths w)))
  | 0x29 => some (.clkdiv (OpSy.ofFields (unpackFields OpSy.widths w)))
  | 0x2A =>
    match w % 4 with
    | 0 => some (.ballastOff (OpSy.ofFields (unpackFields OpSy.widths w)))
    | 1 => some (.ballastLevel (OpSy.ofFields (unpackFields OpSy.widths w)))
    | 2 => some (.ballastAuto (OpSy.ofFields (unpackFields OpSy.widths w)))
    | _ => none
  | 0x30 => some (.trap (OpSy.ofFields (unpackFields OpSy.widths w)))
  | 0x31 => some (.eret (OpSy.ofFields (unpackFields OpSy.widths w)))
  | 0x32 => some (.statq (OpSy.ofFields (unpackFields OpSy.widths w)))
  | 0x33 => some (.waitt (OpSy.ofFields (unpackFields OpSy.widths w)))
  | 0x34 => some (.event (OpSy.ofFields (unpackFields OpSy.widths w)))
  | 0x35 => if w / 2 ^ 8 % 2 = 0 then some (.steptag (OpSy.ofFields (unpackFields OpSy.widths w))) else some (.steptagW (OpSy.ofFields (unpackFields OpSy.widths w)))
  | _ => none

/-- The instruction that a slot's 60 bits hold, without the checks of `Instr.wf`. -/
def decodeSlot (sl : Slot) (w : Nat) : Option Instr :=
  match sl with
  | .s => decodeS w
  | .va => decodeV false w
  | .vb => decodeV true w
  | .mx => decodeMx w
  | .ld => decodeLd w
  | .st => decodeSt w
  | .ce => decodeCe w
  | .sy => decodeSy w

/-- The slot and the 60 bits of a slot instruction; none for a step that is no slot instruction. -/
def encodeSlot : Instr → Option (Slot × Nat)
  | .nop sl => some (sl, 0)
  | .add o => some (.s, slotBits 0x01 OpR.widths o.fields)
  | .sub o => some (.s, slotBits 0x02 OpR.widths o.fields)
  | .addi o => some (.s, slotBits 0x03 OpI.widths o.fields)
  | .mul o => some (.s, slotBits 0x04 OpR.widths o.fields)
  | .mulh o => some (.s, slotBits 0x05 OpR.widths o.fields)
  | .mulhn o => some (.s, slotBits 0x06 OpR.widths o.fields)
  | .div o => some (.s, slotBits 0x07 OpR.widths o.fields)
  | .divn o => some (.s, slotBits 0x08 OpR.widths o.fields)
  | .rem o => some (.s, slotBits 0x09 OpR.widths o.fields)
  | .remn o => some (.s, slotBits 0x0A OpR.widths o.fields)
  | .and o => some (.s, slotBits 0x0B OpR.widths o.fields)
  | .or o => some (.s, slotBits 0x0C OpR.widths o.fields)
  | .xor o => some (.s, slotBits 0x0D OpR.widths o.fields)
  | .andi o => some (.s, slotBits 0x0E OpI.widths o.fields)
  | .ori o => some (.s, slotBits 0x0F OpI.widths o.fields)
  | .xori o => some (.s, slotBits 0x10 OpI.widths o.fields)
  | .shl o => some (.s, slotBits 0x11 OpR.widths o.fields)
  | .shr o => some (.s, slotBits 0x12 OpR.widths o.fields)
  | .sha o => some (.s, slotBits 0x13 OpR.widths o.fields)
  | .shli o => some (.s, slotBits 0x14 OpI.widths o.fields)
  | .shri o => some (.s, slotBits 0x15 OpI.widths o.fields)
  | .shai o => some (.s, slotBits 0x16 OpI.widths o.fields)
  | .roti o => some (.s, slotBits 0x17 OpI.widths o.fields)
  | .min o => some (.s, slotBits 0x18 OpR.widths o.fields)
  | .max o => some (.s, slotBits 0x19 OpR.widths o.fields)
  | .minn o => some (.s, slotBits 0x1A OpR.widths o.fields)
  | .maxn o => some (.s, slotBits 0x1B OpR.widths o.fields)
  | .clz o => some (.s, slotBits 0x1C OpR.widths o.fields)
  | .popc o => some (.s, slotBits 0x1D OpR.widths o.fields)
  | .movi o => some (.s, slotBits 0x1E OpI.widths o.fields)
  | .movhi o => some (.s, slotBits 0x1F OpI.widths o.fields)
  | .cmp o => some (.s, slotBits 0x20 OpC.widths o.fields)
  | .cmpi o => some (.s, slotBits 0x21 OpC.widths o.fields)
  | .sel o => some (.s, slotBits 0x22 OpR.widths o.fields)
  | .bfx o => some (.s, slotBits 0x23 OpI.widths o.fields)
  | .bfi o => some (.s, slotBits 0x24 OpI.widths o.fields)
  | .fadd o => some (.s, slotBits 0x25 OpR.widths o.fields)
  | .fmul o => some (.s, slotBits 0x26 OpR.widths o.fields)
  | .ffma o => some (.s, slotBits 0x27 OpR.widths o.fields)
  | .fcmp o => some (.s, slotBits 0x28 OpC.widths o.fields)
  | .fcvt o => some (.s, slotBits 0x29 OpR.widths o.fields)
  | .kmov o => some (.s, slotBits 0x2A OpR.widths o.fields)
  | .kget o => some (.s, slotBits 0x2B OpR.widths o.fields)
  | .kpopc o => some (.s, slotBits 0x2C OpR.widths o.fields)
  | .setshape o => some (.s, slotBits 0x2D OpI.widths o.fields)
  | .widf o => some (.s, slotBits 0x2E OpI.widths o.fields)
  | .br o => some (.s, slotBits 0x30 OpR.widths o.fields)
  | .bri o => some (.s, slotBits 0x31 OpB.widths o.fields)
  | .call o => some (.s, slotBits 0x32 OpB.widths o.fields)
  | .ret o => some (.s, slotBits 0x33 OpR.widths o.fields)
  | .loop o => some (.s, slotBits 0x34 OpI.widths o.fields)
  | .timer o => some (.s, slotBits 0x36 OpR.widths o.fields)
  | .sysrd o => some (.s, slotBits 0x3C OpI.widths o.fields)
  | .syswr o => some (.s, slotBits 0x3D OpI.widths o.fields)
  | .vadd o => some ((if o.u then .vb else .va), slotBits 0x01 OpV.widths o.fields)
  | .vsub o => some ((if o.u then .vb else .va), slotBits 0x02 OpV.widths o.fields)
  | .vmul o => some ((if o.u then .vb else .va), slotBits 0x03 OpV.widths o.fields)
  | .vfma o => some ((if o.u then .vb else .va), slotBits 0x04 OpV.widths o.fields)
  | .vfms o => some ((if o.u then .vb else .va), slotBits 0x05 OpV.widths o.fields)
  | .vfnma o => some ((if o.u then .vb else .va), slotBits 0x06 OpV.widths o.fields)
  | .vmin o => some ((if o.u then .vb else .va), slotBits 0x07 OpV.widths o.fields)
  | .vmax o => some ((if o.u then .vb else .va), slotBits 0x08 OpV.widths o.fields)
  | .vabs o => some ((if o.u then .vb else .va), slotBits 0x09 OpV.widths o.fields)
  | .vneg o => some ((if o.u then .vb else .va), slotBits 0x0A OpV.widths o.fields)
  | .vcmp o => some ((if o.u then .vb else .va), slotBits 0x0B OpV.widths o.fields)
  | .vsel o => some ((if o.u then .vb else .va), slotBits 0x0C OpV.widths o.fields)
  | .vand o => some ((if o.u then .vb else .va), slotBits 0x0D OpV.widths o.fields)
  | .vor o => some ((if o.u then .vb else .va), slotBits 0x0E OpV.widths o.fields)
  | .vxor o => some ((if o.u then .vb else .va), slotBits 0x0F OpV.widths o.fields)
  | .vnot o => some ((if o.u then .vb else .va), slotBits 0x10 OpV.widths o.fields)
  | .vshl o => some ((if o.u then .vb else .va), slotBits 0x11 OpV.widths o.fields)
  | .vshr o => some ((if o.u then .vb else .va), slotBits 0x12 OpV.widths o.fields)
  | .vsha o => some ((if o.u then .vb else .va), slotBits 0x13 OpV.widths o.fields)
  | .vcvt o => some ((if o.u then .vb else .va), slotBits 0x14 OpV.widths o.fields)
  | .vscale o => some ((if o.u then .vb else .va), slotBits 0x15 OpV.widths o.fields)
  | .vclass o => some ((if o.u then .vb else .va), slotBits 0x16 OpV.widths o.fields)
  | .vbcast o => some ((if o.u then .vb else .va), slotBits 0x17 OpV.widths o.fields)
  | .vmov o => some ((if o.u then .vb else .va), slotBits 0x18 OpV.widths o.fields)
  | .vmulhi o => some ((if o.u then .vb else .va), slotBits 0x19 OpV.widths o.fields)
  | .vsat o => some ((if o.u then .vb else .va), slotBits 0x1A OpV.widths o.fields)
  | .vhash o => some ((if o.u then .vb else .va), slotBits 0x1B OpV.widths o.fields)
  | .vfinite o => some ((if o.u then .vb else .va), slotBits 0x1C OpV.widths o.fields)
  | .viota o => some ((if o.u then .vb else .va), slotBits 0x1D OpV.widths o.fields)
  | .vkmov o => some ((if o.u then .vb else .va), slotBits 0x1E OpV.widths o.fields)
  | .vdiv o => some ((if o.u then .vb else .va), slotBits 0x20 OpV.widths o.fields)
  | .vsqrt o => some ((if o.u then .vb else .va), slotBits 0x21 OpV.widths o.fields)
  | .vrsqrt o => some ((if o.u then .vb else .va), slotBits 0x22 OpV.widths o.fields)
  | .vrcp o => some ((if o.u then .vb else .va), slotBits 0x23 OpV.widths o.fields)
  | .vexp2 o => some ((if o.u then .vb else .va), slotBits 0x24 OpV.widths o.fields)
  | .vlog2 o => some ((if o.u then .vb else .va), slotBits 0x25 OpV.widths o.fields)
  | .vtanh o => some ((if o.u then .vb else .va), slotBits 0x26 OpV.widths o.fields)
  | .vperm o => some ((if o.u then .vb else .va), slotBits 0x27 OpV.widths o.fields)
  | .vtrans o => some ((if o.u then .vb else .va), slotBits 0x28 OpV.widths o.fields)
  | .vrowred o => some ((if o.u then .vb else .va), slotBits 0x29 OpV.widths o.fields)
  | .vcolred o => some ((if o.u then .vb else .va), slotBits 0x2A OpV.widths o.fields)
  | .vallred o => some ((if o.u then .vb else .va), slotBits 0x2B OpV.widths o.fields)
  | .vrot o => some ((if o.u then .vb else .va), slotBits 0x2C OpV.widths o.fields)
  | .vpack o => some ((if o.u then .vb else .va), slotBits 0x2D OpV.widths o.fields)
  | .vunpack o => some ((if o.u then .vb else .va), slotBits 0x2E OpV.widths o.fields)
  | .vlaneget o => some ((if o.u then .vb else .va), slotBits 0x2F OpV.widths o.fields)
  | .cube o => some (.mx, slotBits 0x01 OpCube.widths o.fields)
  | .mresume o => some (.mx, slotBits 0x02 OpAb.widths o.fields)
  | .mresumeAbandon o => some (.mx, slotBits 0x02 OpAb.widths o.fields)
  | .mpusha o => some (.mx, slotBits 0x03 OpPush.widths o.fields)
  | .mpushb o => some (.mx, slotBits 0x04 OpPush.widths o.fields)
  | .mstep o => some (.mx, slotBits 0x05 OpStep.widths o.fields)
  | .mdrain o => some (.mx, slotBits 0x06 OpDrain.widths o.fields)
  | .mzero o => some (.mx, slotBits 0x07 OpZero.widths o.fields)
  | .mouter o => some (.mx, slotBits 0x08 OpOuter.widths o.fields)
  | .mrdacc o => some (.mx, slotBits 0x09 OpRdAcc.widths o.fields)
  | .mwracc o => some (.mx, slotBits 0x0A OpWrAcc.widths o.fields)
  | .mscacc o => some (.mx, slotBits 0x0B OpScAcc.widths o.fields)
  | .mrenorm o => some (.mx, slotBits 0x0C OpTile.widths o.fields)
  | .mexp o => some (.mx, slotBits 0x0D OpExp.widths o.fields)
  | .mexpW o => some (.mx, slotBits 0x0D OpExp.widths o.fields)
  | .mfmt o => some (.mx, slotBits 0x0E OpFmt.widths o.fields)
  | .mprog o => some (.mx, slotBits 0x0F OpProg.widths o.fields)
  | .ldg o => some (.ld, slotBits 0x01 OpLd.widths o.fields)
  | .ldgv o => some (.ld, slotBits 0x02 OpLd.widths o.fields)
  | .ldgx o => some (.ld, slotBits 0x03 OpLdX.widths o.fields)
  | .ldv o => some (.ld, slotBits 0x04 OpLd.widths o.fields)
  | .ldvv o => some (.ld, slotBits 0x05 OpLd.widths o.fields)
  | .ldvs o => some (.ld, slotBits 0x06 OpLd.widths o.fields)
  | .ldvx o => some (.ld, slotBits 0x07 OpLdX.widths o.fields)
  | .wld o => some (.ld, slotBits 0x08 OpLd.widths o.fields)
  | .wldv o => some (.ld, slotBits 0x09 OpLd.widths o.fields)
  | .lda o => some (.ld, slotBits 0x0A OpLd.widths o.fields)
  | .ldk o => some (.ld, slotBits 0x0B OpLd.widths o.fields)
  | .dld o => some (.ld, slotBits 0x0C OpD.widths o.fields)
  | .stg o => some (.st, slotBits 0x01 OpSt.widths o.fields)
  | .stgv o => some (.st, slotBits 0x02 OpSt.widths o.fields)
  | .stgx o => some (.st, slotBits 0x03 OpStX.widths o.fields)
  | .stv o => some (.st, slotBits 0x04 OpSt.widths o.fields)
  | .stvv o => some (.st, slotBits 0x05 OpSt.widths o.fields)
  | .stvs o => some (.st, slotBits 0x06 OpSt.widths o.fields)
  | .stvx o => some (.st, slotBits 0x07 OpStX.widths o.fields)
  | .stl o => some (.st, slotBits 0x08 OpSt.widths o.fields)
  | .stk o => some (.st, slotBits 0x09 OpSt.widths o.fields)
  | .dst o => some (.st, slotBits 0x0A OpD.widths o.fields)
  | .cebase o => some (.ce, slotBits 0x01 OpCeA.widths o.fields)
  | .celvl o => some (.ce, slotBits 0x02 OpCeA.widths o.fields)
  | .celen o => some (.ce, slotBits 0x03 OpCeA.widths o.fields)
  | .cego o => some (.ce, slotBits 0x04 OpCeA.widths o.fields)
  | .ceidx o => some (.ce, slotBits 0x05 OpCeA.widths o.fields)
  | .ceidxv o => some (.ce, slotBits 0x06 OpCeV.widths o.fields)
  | .ceidxend o => some (.ce, slotBits 0x07 OpCeA.widths o.fields)
  | .cestat o => some (.ce, slotBits 0x08 OpCeA.widths o.fields)
  | .cecancel o => some (.ce, slotBits 0x09 OpCeA.widths o.fields)
  | .ceresume o => some (.ce, slotBits 0x0A OpCeA.widths o.fields)
  | .cefab o => some (.ce, slotBits 0x0B OpCeA.widths o.fields)
  | .fork o => some (.sy, slotBits 0x01 OpSy.widths o.fields)
  | .join o => some (.sy, slotBits 0x02 OpSy.widths o.fields)
  | .joinPark o => some (.sy, slotBits 0x02 OpSy.widths o.fields)
  | .exit o => some (.sy, slotBits 0x03 OpSy.widths o.fields)
  | .yield o => some (.sy, slotBits 0x04 OpSy.widths o.fields)
  | .ckpt o => some (.sy, slotBits 0x05 OpSy.widths o.fields)
  | .spawn o => some (.sy, slotBits 0x06 OpSy.widths o.fields)
  | .kill o => some (.sy, slotBits 0x07 OpSy.widths o.fields)
  | .killL o => some (.sy, slotBits 0x07 OpSy.widths o.fields)
  | .binit o => some (.sy, slotBits 0x10 OpSyA.widths o.fields)
  | .barr o => some (.sy, slotBits 0x11 OpSyA.widths o.fields)
  | .bwait o => some (.sy, slotBits 0x12 OpSyA.widths o.fields)
  | .cewait o => some (.sy, slotBits 0x13 OpSyC.widths o.fields)
  | .fence o => some (.sy, slotBits 0x14 OpSy.widths o.fields)
  | .gred o => some (.sy, slotBits 0x15 OpSy.widths o.fields)
  | .aadd o => some (.sy, slotBits 0x18 OpSyA.widths o.fields)
  | .amin o => some (.sy, slotBits 0x19 OpSyA.widths o.fields)
  | .amax o => some (.sy, slotBits 0x1A OpSyA.widths o.fields)
  | .aand o => some (.sy, slotBits 0x1B OpSyA.widths o.fields)
  | .aor o => some (.sy, slotBits 0x1C OpSyA.widths o.fields)
  | .axor o => some (.sy, slotBits 0x1D OpSyA.widths o.fields)
  | .aswp o => some (.sy, slotBits 0x1E OpSyA.widths o.fields)
  | .acas o => some (.sy, slotBits 0x1F OpSyA.widths o.fields)
  | .vaadd o => some (.sy, slotBits 0x20 OpSyV.widths o.fields)
  | .vaor o => some (.sy, slotBits 0x21 OpSyV.widths o.fields)
  | .dmode o => some (.sy, slotBits 0x24 OpSy.widths o.fields)
  | .dreg o => some (.sy, slotBits 0x25 OpSy.widths o.fields)
  | .tapemk o => some (.sy, slotBits 0x26 OpSy.widths o.fields)
  | .tune o => some (.sy, slotBits 0x28 OpSy.widths o.fields)
  | .clkdiv o => some (.sy, slotBits 0x29 OpSy.widths o.fields)
  | .ballastOff o => some (.sy, slotBits 0x2A OpSy.widths o.fields)
  | .ballastLevel o => some (.sy, slotBits 0x2A OpSy.widths o.fields)
  | .ballastAuto o => some (.sy, slotBits 0x2A OpSy.widths o.fields)
  | .trap o => some (.sy, slotBits 0x30 OpSy.widths o.fields)
  | .eret o => some (.sy, slotBits 0x31 OpSy.widths o.fields)
  | .statq o => some (.sy, slotBits 0x32 OpSy.widths o.fields)
  | .waitt o => some (.sy, slotBits 0x33 OpSy.widths o.fields)
  | .event o => some (.sy, slotBits 0x34 OpSy.widths o.fields)
  | .steptag o => some (.sy, slotBits 0x35 OpSy.widths o.fields)
  | .steptagW o => some (.sy, slotBits 0x35 OpSy.widths o.fields)
  | _ => none

/-- A bundle: its header fields (R49) and the instruction of each slot, in slot order (R48). -/
structure Bundle where
  rep : Nat
  step : Nat
  plogop : BitVec 3
  plogd : BitVec 4
  ploga : BitVec 4
  plogb : BitVec 4
  slots : List (Slot × Instr)
deriving DecidableEq, Repr

/-- The slots in order (R48). -/
def Slot.all : List Slot := [.s, .va, .vb, .mx, .ld, .st, .ce, .sy]

/-- Bits of slot sl in a 512-bit bundle (R48). -/
def slotOfBundle (w : Nat) (sl : Slot) : Nat := w / 2 ^ (32 + 60 * sl.idx) % 2 ^ 60

/-- The slots of a bundle in order, refusing the first that holds an unassigned opcode (R75). -/
def decodeSlots (w : Nat) : List Slot → Except Reject (List (Slot × Instr))
  | [] => .ok []
  | sl :: rest =>
    match decodeSlot sl (slotOfBundle w sl) with
    | none => .error (.illop sl)
    | some i =>
      match decodeSlots w rest with
      | .error e => .error e
      | .ok l => .ok ((sl, i) :: l)

/-- A bundle of 512 bits (R47 to R50): ILLB for reserved header bits, ILLOP for an unassigned opcode. -/
def decodeBundle (w : Nat) : Except Reject Bundle :=
  if w / 2 ^ 29 % 8 ≠ 0 then .error .illb
  else
    match decodeSlots w Slot.all with
    | .error e => .error e
    | .ok l =>
      .ok { rep := w % 64, step := w / 2 ^ 6 % 256, plogop := BitVec.ofNat 3 (w / 2 ^ 14),
            plogd := BitVec.ofNat 4 (w / 2 ^ 17), ploga := BitVec.ofNat 4 (w / 2 ^ 21),
            plogb := BitVec.ofNat 4 (w / 2 ^ 25), slots := l }

/-- The header bits of a bundle (R49). -/
def Bundle.header (b : Bundle) : Nat :=
  b.rep % 64 + (b.step % 256) * 2 ^ 6 + b.plogop.toNat * 2 ^ 14 + b.plogd.toNat * 2 ^ 17 + b.ploga.toNat * 2 ^ 21
    + b.plogb.toNat * 2 ^ 25

/-- The 512 bits of a bundle; a slot that holds no slot instruction encodes as NOP. -/
def encodeBundle (b : Bundle) : Nat :=
  b.slots.foldl (fun acc p =>
    match encodeSlot p.2 with
    | some (_, bits) => acc + bits * 2 ^ (32 + 60 * p.1.idx)
    | none => acc) b.header

/-- A vector-register or landing-slot field after stepping by j (R51, R63). -/
def stepF {w : Nat} (x : BitVec w) (j : Nat) : BitVec w := x + BitVec.ofNat w j

/-- The va field after stepping: a vector register, or a landing slot whose FREE bit stays (R63). -/
def stepVa (o : OpV) (j : Nat) : BitVec 11 :=
  match o.cls.toNat with
  | 0 => stepF o.va j
  | 1 => BitVec.ofNat 11 ((o.va.toNat / 32) * 32 + (o.va.toNat + j) % 32)
  | _ => o.va

/-- Stepping of a vector operation by which of vd, vb and vc name vector registers. -/
def stepV (d b c : Bool) (o : OpV) (j : Nat) : OpV :=
  { o with
    vd := if d then stepF o.vd j else o.vd
    va := stepVa o j
    vb := if b then stepF o.vb j else o.vb
    vc := if c then stepF o.vc j else o.vc }

/-- The instruction at issue j of a repeat group, when its slot's STEP bit is set (R63). -/
def Instr.stepBy (i : Instr) (j : Nat) : Instr :=
  match i with
  | .vadd o => .vadd (stepV true true false o j)
  | .vsub o => .vsub (stepV true true false o j)
  | .vmul o => .vmul (stepV true true false o j)
  | .vfma o => .vfma (stepV true true true o j)
  | .vfms o => .vfms (stepV true true true o j)
  | .vfnma o => .vfnma (stepV true true true o j)
  | .vmin o => .vmin (stepV true true false o j)
  | .vmax o => .vmax (stepV true true false o j)
  | .vabs o => .vabs (stepV true false false o j)
  | .vneg o => .vneg (stepV true false false o j)
  | .vcmp o => .vcmp (stepV false true false o j)
  | .vsel o => .vsel (stepV true true false o j)
  | .vand o => .vand (stepV true true false o j)
  | .vor o => .vor (stepV true true false o j)
  | .vxor o => .vxor (stepV true true false o j)
  | .vnot o => .vnot (stepV true false false o j)
  | .vshl o => .vshl (stepV true true false o j)
  | .vshr o => .vshr (stepV true true false o j)
  | .vsha o => .vsha (stepV true true false o j)
  | .vcvt o => .vcvt (stepV true false false o j)
  | .vscale o => .vscale (stepV true true false o j)
  | .vclass o => .vclass (stepV true false false o j)
  | .vbcast o => .vbcast (stepV true false false o j)
  | .vmov o => .vmov (stepV true false false o j)
  | .vmulhi o => .vmulhi (stepV true true false o j)
  | .vsat o => .vsat (stepV true false false o j)
  | .vhash o => .vhash (stepV true true false o j)
  | .vfinite o => .vfinite (stepV false false false o j)
  | .viota o => .viota (stepV true false false o j)
  | .vkmov o => .vkmov (stepV false false false o j)
  | .vdiv o => .vdiv (stepV true true false o j)
  | .vsqrt o => .vsqrt (stepV true false false o j)
  | .vrsqrt o => .vrsqrt (stepV true false false o j)
  | .vrcp o => .vrcp (stepV true false false o j)
  | .vexp2 o => .vexp2 (stepV true false false o j)
  | .vlog2 o => .vlog2 (stepV true false false o j)
  | .vtanh o => .vtanh (stepV true false false o j)
  | .vperm o => .vperm (stepV true true false o j)
  | .vtrans o => .vtrans (stepV true false false o j)
  | .vrowred o => .vrowred (stepV true false false o j)
  | .vcolred o => .vcolred (stepV true false false o j)
  | .vallred o => .vallred (stepV true false false o j)
  | .vrot o => .vrot (stepV true false false o j)
  | .vpack o => .vpack (stepV true true false o j)
  | .vunpack o => .vunpack (stepV true false false o j)
  | .vlaneget o => .vlaneget (stepV false false false o j)
  | .ldg o => .ldg { o with la := stepF o.la j }
  | .ldgv o => .ldgv { o with la := stepF o.la j }
  | .ldv o => .ldv { o with la := stepF o.la j }
  | .ldvv o => .ldvv { o with la := stepF o.la j }
  | .ldvs o => .ldvs { o with la := stepF o.la j }
  | .wld o => .wld { o with la := stepF o.la j }
  | .wldv o => .wldv { o with la := stepF o.la j }
  | .lda o => .lda { o with la := stepF o.la j }
  | .ldgx o => .ldgx { o with la := stepF o.la j, xv := stepF o.xv j }
  | .ldvx o => .ldvx { o with la := stepF o.la j, xv := stepF o.xv j }
  | .dld o => .dld { o with v := stepF o.v j }
  | .dst o => .dst { o with v := stepF o.v j }
  | .stgv o => .stgv { o with src := stepF o.src j }
  | .stvv o => .stvv { o with src := stepF o.src j }
  | .stvs o => .stvs { o with src := stepF o.src j }
  | .stgx o => .stgx { o with src := stepF o.src j, xv := stepF o.xv j }
  | .stvx o => .stvx { o with src := stepF o.src j, xv := stepF o.xv j }
  | .cube o => .cube { o with tile := stepF o.tile j }
  | .mpusha o => .mpusha { o with vs := stepF o.vs j }
  | .mpushb o => .mpushb { o with vs := stepF o.vs j }
  | .mstep o => .mstep { o with tile := stepF o.tile j }
  | .mdrain o => .mdrain { o with vd := stepF o.vd j, tile := stepF o.tile j }
  | .mzero o => .mzero { o with tile := stepF o.tile j }
  | .mouter o => .mouter { o with va := stepF o.va j, vb := stepF o.vb j, tile := stepF o.tile j }
  | .mrdacc o => .mrdacc { o with vd := stepF o.vd j, tile := stepF o.tile j }
  | .mwracc o => .mwracc { o with vs := stepF o.vs j, tile := stepF o.tile j }
  | .mscacc o => .mscacc { o with va := stepF o.va j, vb := stepF o.vb j, tile := stepF o.tile j }
  | .mrenorm o => .mrenorm { o with tile := stepF o.tile j }
  | .mexp o => .mexp { o with tile := stepF o.tile j }
  | .mexpW o => .mexpW { o with tile := stepF o.tile j }
  | .ceidxv o => .ceidxv { o with xv := stepF o.xv j }
  | .vaadd o => .vaadd { o with vo := stepF o.vo j, vs := stepF o.vs j }
  | .vaor o => .vaor { o with vo := stepF o.vo j, vs := stepF o.vs j }
  | .cewait o => .cewait { o with mask := if o.all = 0 then stepF o.mask j else o.mask }
  | other => other

/-- The slot instructions of a bundle at issue j: each stepped when its STEP bit is set (R63). -/
def Bundle.slotsAt (b : Bundle) (j : Nat) : List (Slot × Instr) :=
  b.slots.map fun p => (p.1, if b.step / 2 ^ p.1.idx % 2 = 1 then p.2.stepBy j else p.2)

/-- The first slot whose encoding is no instruction at issue j (R64, R75, R253), or none. -/
def Bundle.badSlot (b : Bundle) (j : Nat) : Option Slot :=
  ((b.slotsAt j).find? fun p =>
    !p.2.wf || (b.rep ≠ 0 && p.2.noRepeat) || (b.step / 2 ^ p.1.idx % 2 = 1 && p.2.namesAccS)).map (·.1)

/-- Whether an instruction is NOP (R50). -/
def Instr.isNop : Instr → Bool
  | .nop _ => true
  | _ => false

/-- Decoding of a whole bundle with every encoding check of its first issue (R75). -/
def decode (w : Nat) : Except Reject Bundle :=
  match decodeBundle w with
  | .error e => .error e
  | .ok b =>
    match b.badSlot 0 with
    | some sl => .error (.illop sl)
    | none => .ok b

/-- The bundle that holds one slot instruction and nothing else. -/
def Bundle.single (sl : Slot) (i : Instr) : Bundle :=
  { rep := 0, step := 0, plogop := 0, plogd := 0, ploga := 0, plogb := 0,
    slots := Slot.all.map fun t => (t, if t = sl then i else .nop t) }

/-- The instruction that the decoder reads from a bundle of `nbits` bits `w` (upper bits zero): the one non-NOP slot,
NOP for an all-NOP bundle, PLOG for a bundle of that alone, and the issue of a bundle that holds several. -/
def decodeTableWord (nbits w : Nat) : Option Instr :=
  match decode (w % 2 ^ nbits % 2 ^ 512) with
  | .error _ => none
  | .ok b =>
    match b.slots.filter fun p => !p.2.isNop with
    | [] => if b.plogop = 0 then some (.nop .s) else some (.plog b.plogop b.plogd b.ploga b.plogb)
    | [p] => if b.plogop = 0 then some p.2 else some (.bundleIssue 0 0)
    | _ => some (.bundleIssue 0 0)

end Sys2Proof
end

