-- ==== Sys2Proof/Machine/Map.lean ====
section
/-! DEFINITION. Finite maps from numbers as lists of pairs, and memory as such a list in one canonical form. A map lists
its keys in rising order as they were set; an unlisted key reads as the default that the reader names. -/

namespace Sys2Proof.Machine

/-- A finite map from numbers. -/
abbrev NMap (α : Type) := List (Nat × α)

/-- The value at key k, or d when k is not listed. -/
def mget {α : Type} (d : α) : NMap α → Nat → α
  | [], _ => d
  | (a, v) :: t, k => if a = k then v else mget d t k

/-- The map with the value v at key k. -/
def mset {α : Type} (k : Nat) (v : α) : NMap α → NMap α
  | [] => [(k, v)]
  | (a, w) :: t => if a = k then (k, v) :: t else if k < a then (k, v) :: (a, w) :: t else (a, w) :: mset k v t

/-- The map without key k. -/
def mdel {α : Type} (k : Nat) (m : NMap α) : NMap α := m.filter fun p => p.1 != k

/-- Memory: the bytes that do not read as the unlisted byte, by physical address, in rising order. -/
abbrev Memory := List Host.Cell

/-- What an unlisted address reads as: 0x00 (log 2). -/
def Memory.unlisted : Byte := 0

/-- The byte at a physical address. -/
def Memory.read (m : Memory) (a : Nat) : Byte := mget Memory.unlisted m a

/-- The memory with byte b at address a. -/
def Memory.write (m : Memory) (a : Nat) (b : Byte) : Memory :=
  if b = Memory.unlisted then mdel a m else mset a b (mdel a m)

/-- The canonical form: addresses strictly rising, and no entry equal to the unlisted byte. -/
def Memory.wf : Memory → Bool
  | [] => true
  | [(_, b)] => b != Memory.unlisted
  | (a, b) :: (a', b') :: t => b != Memory.unlisted && decide (a < a') && Memory.wf ((a', b') :: t)

/-- n bytes from address a, as one little-endian number (R9). -/
def Memory.readLE (m : Memory) (a : Nat) : Nat → Nat
  | 0 => 0
  | n + 1 => (m.read a).toNat + 256 * Memory.readLE m (a + 1) n

/-- The memory with the n low bytes of v at address a, little-endian (R9). -/
def Memory.writeLE (m : Memory) (a : Nat) : Nat → Nat → Memory
  | 0, _ => m
  | n + 1, v => Memory.writeLE (m.write a (BitVec.ofNat 8 v)) (a + 1) n (v / 256)

end Sys2Proof.Machine
end

