-- ==== Sys2Proof/Machine/State.lean ====
section
/-! DEFINITION. The state of the part as plain data: contexts (R133), cores (R134), clusters (R328), stacks (R380), the
package (R385 to R410) and the fabric (R411 to R443), memory, the messages in flight, and what the outside world has yet
to do. A map field reads as the reset value of its entry where no entry is listed. -/

namespace Sys2Proof.Machine

/-- The form of the part (R1). -/
inductive Form
  | s | p | m
deriving DecidableEq, Repr

/-- Why a context is frozen (R138), in the order of R139. -/
inductive Frz
  | sync | heat | scor | land | reg
deriving DecidableEq, Repr

/-- A trap to take: code (R149), slot, address. -/
structure TrapReq where
  code : Nat
  slot : Nat
  addr : BitVec 64
deriving DecidableEq, Repr

/-- A mark on data that traps at consumption (R145): code 0x10 POISON or 0x0B RACE, and the source address. -/
structure Mark where
  code : Nat
  addr : BitVec 64
deriving DecidableEq, Repr

/-- A register destination of a result. -/
inductive Dst
  | s (r : Nat)
  | v (r : Nat)
  | k (r : Nat)
deriving DecidableEq, Repr

/-- When a pending result lands (R69): once the context cycle or the core cycle is reached, or when a reply arrives. -/
inductive Due
  | cycle (cyc tick : Nat)
  | reply (id : Nat)
deriving DecidableEq, Repr

/-- A pending result (R69). -/
structure Pend where
  dst : Dst
  val : BitVec 2048
  due : Due
  mark : Option Mark
deriving DecidableEq, Repr

/-- Status of a landing slot (R141). -/
inductive LaSt
  | free | pending | full
deriving DecidableEq, Repr

/-- A landing slot (R141): arrival cycle A, data, the number of the read that holds it, the parts of that read still to
arrive, the context cycle and core cycle at which local data land, and its mark. -/
structure La where
  st : LaSt := .free
  arr : Nat := 0
  data : BitVec 2048 := 0
  rid : Nat := 0
  need : Nat := 0
  due : Option (Nat × Nat) := none
  mark : Option Mark := none
deriving DecidableEq, Repr

/-- A region descriptor of the D-region cache (R213). -/
structure DRegion where
  valid : Bool := false
  space : Bool := false
  ty : Nat := 0
  len : Nat := 0
  primal : BitVec 64 := 0
  shadow : BitVec 64 := 0
deriving DecidableEq, Repr

/-- MX.PROG (R271). -/
structure MxProg where
  phase : Nat := 0
  sd : Nat := 0
  tile : Nat := 0
  af : Nat := 0
  bf : Nat := 0
  mode : Nat := 0
  mask : Nat := 0
  step : Nat := 0
deriving DecidableEq, Repr

/-- A resident strand (R92, R96): its record, work identifier, launch, header address, parent join word and own join
word. -/
structure Strand where
  slot : Nat
  wid : BitVec 64
  launch : Nat
  hdr : BitVec 64
  pjoin : Nat
  out : Nat
  fault : Nat
  kill : Nat
  tags : List (Nat × Nat) := []
deriving DecidableEq, Repr

/-- Why a strand is being saved (R94): CKPT or pre-emption, YIELD, JOIN with park, a parked page fault, a role swap. -/
inductive SaveKind
  | ckpt | yield | join | fault | swap
deriving DecidableEq, Repr

/-- A save in progress (R108): its kind, its live-range entry (none for the full image of R122), and the trap word that the
record is to hold. -/
structure Save where
  kind : SaveKind
  entry : Option Nat
  info : Nat
deriving DecidableEq, Repr

/-- The request that a frozen slot instruction has made and its answer. -/
structure WaitRec where
  id : Nat
  done : Bool := false
  val : BitVec 2048 := 0
  mark : Option Mark := none
  aux : Nat := 0
  slack : Bool := false
deriving DecidableEq, Repr

/-- A translation held by a TLB (R329): page base and size, physical base, and permissions. -/
structure TlbEnt where
  asid : Nat
  va : Nat
  size : Nat
  pa : Nat
  w : Bool
  u : Bool
  x : Bool
deriving DecidableEq, Repr

/-- A context (R133); `cubeId` numbers the CUBE that MX.PROG describes, `gred` is its contribution to a GRED round (R307), and
`xl` the translations that have come for the bundle it waits to issue (R194, log 102). -/
structure Ctx where
  strand : Option Strand := none
  pc : BitVec 64 := 0
  rep : Nat := 0
  s : NMap (BitVec 64) := []
  v : NMap (BitVec 2048) := []
  k : NMap (BitVec 64) := []
  la : NMap La := []
  shape : Nat := 0
  f : NMap (BitVec 32) := []
  rnd : Nat := 0
  srseed : BitVec 64 := 0
  nfs : BitVec 5 := 0
  stat : BitVec 5 := 0
  trapm : Bool := false
  priv : Bool := false
  loopCnt : BitVec 64 := 0
  loopEnd : BitVec 64 := 0
  rev : Bool := false
  tapeBase : BitVec 64 := 0
  tapeSize : BitVec 27 := 0
  tapeFloor : BitVec 32 := 0
  tapeTop : BitVec 32 := 0
  dreg : NMap DRegion := []
  mx : MxProg := {}
  cubeId : Nat := 0
  trapPc : BitVec 64 := 0
  trapInfo : BitVec 64 := 0
  trapAddr : BitVec 64 := 0
  scr : NMap (BitVec 64) := []
  ckpt : Nat := 0
  cyc : Nat := 0
  frzLand : Nat := 0
  frzReg : Nat := 0
  frzScor : Nat := 0
  frzHeat : Nat := 0
  frzSync : Nat := 0
  pend : List Pend := []
  maskAt : NMap Nat := []
  marks : NMap Mark := []
  bubble : Nat := 0
  target : Option (BitVec 64) := none
  leaveTrap : Bool := false
  preempt : Option Nat := none
  save : Option Save := none
  restore : Option Nat := none
  wait : NMap WaitRec := []
  trapNext : Option TrapReq := none
  frozen : Option Frz := none
  restart : Bool := false
  issued : Bool := false
  syncRun : Nat := 0
  slackWait : Bool := false
  gred : Option WaitRec := none
  xl : List TlbEnt := []
deriving DecidableEq, Repr

/-- An accumulator element (R37): CLASS 0 to 3 and SIG. -/
structure Elem where
  cls : Nat := 0
  sig : Int := 0
deriving DecidableEq, Repr

/-- The parsed descriptor of a CUBE (R258) with the format register values it read, its context, the bundle that started it,
the spill slot of its strand, and the number of its start. -/
structure CubeDesc where
  x : Nat := 0
  pc : BitVec 64 := 0
  tile : Nat := 0
  mask : Nat := 0
  af : Nat := 0
  bf : Nat := 0
  mode : Nat := 0
  m : Nat := 0
  n : Nat := 0
  k : Nat := 0
  aptr : BitVec 64 := 0
  akstr : Nat := 0
  apitch : Nat := 0
  bptr : BitVec 64 := 0
  bkstr : Nat := 0
  bpitch : Nat := 0
  e0 : Int := 0
  fa : BitVec 32 := 0
  fb : BitVec 32 := 0
  ta : Bool := false
  tb : Bool := false
  slot : Nat := 0
  id : Nat := 0
deriving DecidableEq, Repr

/-- The cube sequencer (R262 to R268): its descriptor, the step at which it started, beats emitted, the loaded blocks, the
fetched steps with the beat of each and its face vectors, whether its next beat clears the tile, and when its bundle
retired. -/
structure Seq where
  d : CubeDesc
  start : Nat
  beat : Nat
  buf : NMap (BitVec 512)
  ready : List (Nat × Nat × List (BitVec 2048) × List (BitVec 2048))
  clear : Bool
  born : Nat
deriving DecidableEq, Repr

/-- What a beat does in the matrix domain (R252). -/
inductive BeatOp
  | push (north : Bool) (l : Nat) (v : BitVec 2048)
  | step (tile mask af bf : Nat) (fa fb : BitVec 32)
  | cubeStep (d : CubeDesc) (s : Nat) (a b : List (BitVec 2048))
  | cubeOther (d : CubeDesc) (clear : Bool)
  | drain (tile row col ty : Nat) (fmt : BitVec 32) (sat : Bool) (mode : Nat) (shape : Nat) (seed : BitVec 64)
      (id : Nat)
  | zero (tile : Nat) (e : Int)
  | outer (tile ty : Nat) (ha hb : Bool) (a b : BitVec 2048)
  | rdacc (tile row col : Nat) (clr : Bool) (shape id : Nat)
  | wracc (tile row col ty : Nat) (add : Bool) (shape : Nat) (v : BitVec 2048)
  | scacc (tile : Nat) (ha hb : Bool) (a b : BitVec 2048)
  | renorm (tile : Nat)
  | expRead (tile id : Nat)
  | expWrite (tile : Nat) (e : Int)
deriving DecidableEq, Repr

/-- A beat in the beat FIFO (R152) with its context, issuing bundle, and the time and core cycle of its issue. -/
structure Beat where
  x : Nat
  pc : BitVec 64
  time : Nat
  tick : Nat
  op : BeatOp
deriving DecidableEq, Repr

/-- A message of a copy channel not yet acknowledged (R242, R417): its id, the window offsets of its bytes, the indices of its
iteration and the id of that iteration's first message; and how it has failed, as code, side and address (R247). -/
structure ChanMsg where
  id : Nat
  lo : Nat
  hi : Nat
  idx : NMap Nat
  first : Nat
  acked : Bool := false
  bad : Option (Nat × Nat × BitVec 64) := none
deriving DecidableEq, Repr

/-- A copy channel (R227 to R248): its registers, bitmap, FADDR, strand mark, index queue (none is an end marker) and µTLB,
its trim retries, whether every iteration has been performed, the bundle that started it, the answers to the reads of its
iteration that travel as messages (place, value, code of a mark), whether its arrival is under way, the fabric message id it uses next
(none for the channel's counter), the messages not yet acknowledged, the hull of its last start, whether its buffer
holds uncorrectable data (R377), whether writes of its iteration are on their way as messages, the failure of such a message as
code, side and address, the index entry of its last performed iteration, and the translations that have come for its present
one (log 102). -/
structure Chan where
  srcb : BitVec 64 := 0
  dstb : BitVec 64 := 0
  cntm1 : NMap Nat := []
  sstr : NMap Int := []
  dstr : NMap Int := []
  idx : NMap Nat := []
  steptag : Nat := 0
  cfgerr : Bool := false
  rop : Nat := 0
  owner : Nat := 0
  state : Nat := 0
  fcode : Nat := 0
  rev : Bool := false
  arrive : Bool := false
  gather : Bool := false
  dflag : Bool := false
  dsp : Nat := 0
  ssp : Nat := 0
  lenm1 : Nat := 0
  fside : Nat := 0
  rwin : Nat := 0
  rank : Nat := 0
  barp : Nat := 0
  bitmap : BitVec 512 := 0
  bufBad : Bool := false
  faddr : BitVec 64 := 0
  mark : Option Nat := none
  queue : List (Option (BitVec 64)) := []
  utlb : List TlbEnt := []
  trims : Nat := 0
  spent : Bool := false
  pc : BitVec 64 := 0
  asked : Bool := false
  got : List (Nat × Nat × Nat) := []
  arriving : Bool := false
  msgid : Option Nat := none
  msgs : List ChanMsg := []
  hull : Nat × Nat := (0, 0)
  sent : Bool := false
  lost : Option (Nat × Nat × BitVec 64) := none
  last : Option (BitVec 64) := none
  xl : List TlbEnt := []
deriving DecidableEq, Repr

/-- Who owns a scoreboard entry (R200). -/
inductive ScOwner
  | chan (ch : Nat)
  | cubeA
  | cubeB
deriving DecidableEq, Repr

/-- A range-scoreboard entry (R200, R234): the space, first chunk, live bits, and the tail beyond 512 chunks. -/
structure ScoreEnt where
  owner : ScOwner
  vault : Bool
  key : Nat
  base : Nat
  live : Nat
  tailLo : Nat
  tailHi : Nat
  tail : Bool
deriving DecidableEq, Repr

/-- A statistics record (R287). -/
structure StatRec where
  count : Nat
  obj : Nat
  src : Nat
  event : Nat
  addr : Nat
  ctx : Nat
deriving DecidableEq, Repr

/-- A core (R134). Marks stand by element of a tile, and by 8 bytes of a face slice (R377); `arrayUntil` says until when a
context's last beat is in the array. `holdUntil` and `holdCyc` are the end of a crossing's hold and the core cycles that
it has yet to take (R371). -/
structure Core where
  lead : Nat := 0
  swapReq : Bool := false
  swap : Nat := 0
  statLost : Bool := false
  cpy : Nat := 2
  mat : Nat := 4
  vec : Nat := 4
  cor : Nat := 4
  holdUntil : Nat := 0
  holdCyc : Nat := 0
  copyHold : Nat := 0
  nextCore : Nat := 0
  nextBeat : Nat := 0
  nextCopy : Nat := 0
  tick : Nat := 0
  ilim : Nat := 0x1000
  win : List Nat := []
  iwinMax : Nat := 0
  frzCur : Nat := 0
  frzClk : Nat := 0
  frzGov : Nat := 0
  dstarve : Nat := 0
  dstarveThr : Nat := 0
  dstarveAt : Nat := 0
  xing : Nat := 0
  outFull : Bool := false
  ring : NMap (BitVec 64 × BitVec 64) := []
  srPtr : Nat := 15
  iss : Nat := 0
  mst : Nat := 0
  tileE : NMap Int := []
  elems : NMap Elem := []
  tileMarks : NMap Mark := []
  west : NMap (BitVec 2048) := []
  north : NMap (BitVec 2048) := []
  faceMarks : NMap Mark := []
  seq : Option Seq := none
  seqUse : List Nat := []
  fifo : List Beat := []
  arrayUntil : NMap Nat := []
  chans : NMap Chan := []
  score : List ScoreEnt := []
  heat : Nat := 0x100000
  statq : List StatRec := []
  deque : List Nat := []
  utlb : List TlbEnt := []
  rgCur : Nat := 0
  rgPass : Nat := 0
  seen : NMap Nat := []
  nrace : Nat := 0
  atomNack : Nat := 0
  balMode : Nat := 0
  balF : Nat := 0
  dslew : Nat := 0
  balCnt : Nat := 0
  balSum : Nat := 0
  balCyc : Nat := 0
  balA : Nat := 0
deriving DecidableEq, Repr

/-- A µTLB miss (R329): which µTLB of which core (0 the core's, 1 to 4 a channel's), the access's context and address, whether
it writes or fetches, whether it walks, the outcome of a walk that faulted (R330), the root of its walk (R410), and whether its walk has started
before (R331, R357). -/
structure Miss where
  core : Nat
  unit : Nat
  x : Nat
  asid : Nat
  vpn : Nat
  write : Bool
  exec : Bool
  walking : Bool
  fail : Option Nat
  root : BitVec 64
  again : Bool
deriving DecidableEq, Repr

/-- A range of roots held by a dispatcher (R334): launch, next index and end. -/
structure Range where
  launch : Nat
  next : Nat
  last : Nat
  gang : Bool
deriving DecidableEq, Repr

/-- A contribution to a GRED round (R307): its context, index within the gang, value, op, signedness and release tag. -/
structure GPart where
  core : Nat
  x : Nat
  idx : Nat
  val : BitVec 64
  op : Nat
  uns : Bool
  tags : List (Nat × Nat)
deriving DecidableEq, Repr

/-- A GRED round in progress (R307): launch, level, group key, and the contributions so far. -/
structure Round where
  launch : Nat
  level : Nat
  group : Nat
  parts : List GPart
deriving DecidableEq, Repr

/-- A cluster (R328, R309, R337, R440); `divPend` says that a move's divisors change at the end of this reference cycle (R338),
`divAt` when they last did. -/
structure Cluster where
  vnow : Nat := 50
  vtgt : Nat := 50
  mstate : Nat := 0
  last : Nat := 0
  nrepl : Nat := 0
  move : Nat := 0
  mbox : Option Nat := none
  userTune : Bool := false
  exclude : Bool := false
  failed : Bool := false
  cause : Nat := 0
  tlberr : Nat := 0
  tlb : List TlbEnt := []
  misses : List Miss := []
  tlbMiss : Nat := 0
  tlbWalk : Nat := 0
  refBase : Nat := 0
  railAt : Nat := 0
  divPend : Bool := false
  divAt : Nat := 0
  ranges : List Range := []
  rounds : List Round := []
  slackCyc : Nat := 0
  heldCyc : Nat := 0
  slkF : Nat := 0
  slkA : Nat := 0
  slkS : Nat := 0
  slkPlow : Nat := 0
  slkChg : Bool := false
  vadv : Nat := 50
deriving DecidableEq, Repr

/-- The fused values of a cluster and the part (R328), which nothing writes. -/
structure Fuse where
  rank : Nat
  ceil : Nat
  floor : Nat
  th4 : Nat
  th5 : Nat
  cth2 : Nat
  cth3 : Nat
deriving DecidableEq, Repr

/-- A stack (R380): `tested` says that the self-test has run since the last reset, `softLanes` are the lanes that the soft-repair
registers steer, and `laneRun` counts the retries of the flit on a lane (R366, R367). -/
structure Stack where
  govStep : Nat := 0
  tstep : Nat := 0
  nchg : Nat := 0
  ttrip : Nat := 0x1A4
  hyst : Nat := 8
  govW : Nat := 0x10
  t0 : Nat := 0x154
  govMin : Nat := 0
  tmax : Nat := 0
  tmaxCol : Nat := 0
  tmaxLayer : Nat := 0
  colTemp : NMap (Nat × Nat) := []
  pause : Nat := 0
  kind : Nat := 0
  vaultKeep : Bool := false
  repaired : Bool := false
  selftest : Bool := false
  released : Bool := false
  failed : Bool := false
  cause : Nat := 0
  ce : Nat := 0
  ue : Nat := 0
  ueAddr : BitVec 64 := 0
  retry : Nat := 0
  pending : Bool := false
  laneRetries : NMap (List Nat) := []
  spares : Nat := 0
  layerMap : NMap (BitVec 32) := []
  badMap : NMap Nat := []
  rtFail : Nat := 0
  nlayers : Nat := 0
  resume : List Nat := []
  scrubP : NMap Nat := []
  seq : Nat := 0
  releasedAt : Nat := 0
  ranges : List Range := []
  rounds : List Round := []
  trip : Bool := false
  tested : Bool := false
  softLanes : List Nat := []
  laneRun : NMap Nat := []
deriving DecidableEq, Repr

/-- A launch header (R83, R84). -/
structure Header where
  entry : BitVec 64 := 0
  traph : BitVec 64 := 0
  lcfg : BitVec 64 := 0
  extm1 : BitVec 64 := 0
  spill : BitVec 64 := 0
  live : BitVec 64 := 0
  dtab : BitVec 64 := 0
  ckpti : Nat := 0
  step0 : Nat := 0
  spillsz : Nat := 0
  win : NMap (BitVec 64) := []
deriving DecidableEq, Repr

/-- A launch-table entry (R396) with the header the device read (R395), the physical base of its pool (R87), and the contexts in
which its strands have ended, whose accesses its completion follows (R114). -/
structure Launch where
  state : Nat := 0
  hdrPa : Nat := 0
  arg : BitVec 64 := 0
  tag : BitVec 64 := 0
  nleft : Nat := 0
  nhand : Nat := 0
  faulted : Bool := false
  killed : Bool := false
  spawned : Bool := false
  supv : Bool := false
  asid : Nat := 0
  queue : Nat := 0
  hdr : Header := {}
  poolPa : Nat := 0
  used : NMap Bool := []
  order : Nat := 0
  hdrVa : BitVec 64 := 0
  ended : List (Nat × Nat) := []
deriving DecidableEq, Repr

/-- A launch queue (R393). -/
structure Queue where
  base : BitVec 64 := 0
  en : Bool := false
  supv : Bool := false
  asid : Nat := 0
  log2 : Nat := 0
  prod : Nat := 0
  cons : Nat := 0
deriving DecidableEq, Repr

/-- An event record (R399). -/
structure Event where
  code : Nat
  sub : Nat
  core : Nat
  flags : Nat
  a : BitVec 64
  b : BitVec 64
  c : BitVec 64
  launch : Option Nat := none
deriving DecidableEq, Repr

/-- A ring in memory that the device writes (R398, R404). -/
structure Ring where
  base : BitVec 64 := 0
  en : Bool := false
  vec : Nat := 0
  log2 : Nat := 0
  prod : Nat := 0
  cons : Nat := 0
deriving DecidableEq, Repr

/-- What a request message asks its unit to do (R332, R445). A capture reads an 8-byte word for the tape and writes bytes in
it, as one access (R219); the message after it takes the word to the tape. -/
inductive MsgOp
  | read (n : Nat)
  | write (bytes : List (BitVec 8)) (bad : Bool)
  | atomic (op w : Nat) (sb cmp : BitVec 64) (post : Bool)
  | vatom (op ty : Nat) (v : BitVec 64)
  | accum (v : BitVec 32)
  | exch
  | binit (expect lvl : Nat) (bad post : Bool)
  | barr (post : Bool)
  | bwait (parity : Nat)
  | arrive (ch : Nat)
  | gred (op level : Nat) (unsigned : Bool) (v : BitVec 64)
  | event (e : Event)
  | raceReport (addr : BitVec 64)
  | phaseReport (parity : Nat) (slack : Bool)
  | joinWord (fault kill : Bool) (tags : List (Nat × Nat))
  | tapeTop
  | capture (off : Nat) (bytes : List (BitVec 8))
deriving DecidableEq, Repr

/-- Where the answer to a message goes: a landing slot's read at a byte offset, a pending register result (bytes at an
offset; with kind 1 to 3, F32, BF16 or F16 elements widened; with kind 4, an F32 sum into an element; with kind 5 and 6, a
64-bit value or one sign-extended from 32 bits), the waiting instruction of a slot, a copy channel's iteration. -/
inductive Dest
  | none
  | la (slot rid off : Nat)
  | reg (id off kind : Nat)
  | wait (slot off : Nat)
  | copy (ch off : Nat)
deriving DecidableEq, Repr

/-- How far a message is (R292, R293, R445): sent; refused, to be retried at a time; accepted by its unit and waiting for
its bundle to retire; live; answered. -/
inductive MsgSt
  | asked
  | nacked (retry : Nat)
  | accepted
  | live
  | replied (val : BitVec 2048) (mark : Option Mark)
deriving DecidableEq, Repr

/-- A message in flight: its number, sender, physical address, pointer or virtual address as the program named it, the
operation, the answer's place and its progress; `region` is the sender's CUR at issue (R349), `tape` marks tape traffic,
`seq` numbers its acceptance, then its answer (R292, R362); its context issues nothing before a message that `hold`
marks is performed (R306), it follows the earlier accesses of the contexts `after` (R114), and `rot` says that its
operand is uncorrectable (R377). -/
structure Msg where
  id : Nat
  core : Nat
  x : Nat
  pa : Nat
  va : BitVec 64
  op : MsgOp
  dest : Dest
  st : MsgSt
  region : Nat := 0
  tape : Bool := false
  rel : Bool := false
  acq : Bool := false
  tags : List (Nat × Nat) := []
  seq : Nat := 0
  hold : Bool := false
  after : List (Nat × Nat) := []
  rot : Bool := false
deriving DecidableEq, Repr

/-- An atomic unit (R292, R293): its order queue of requesters and its reservations with their expiry. -/
structure AtomUnit where
  order : List Nat := []
  resv : List (Nat × Nat) := []
deriving DecidableEq, Repr

/-- The tags that a barrier's unit keeps (R351): of the phase in progress and of the last completed phase. -/
structure BarTags where
  cur : List (Nat × Nat) := []
  last : List (Nat × Nat) := []
deriving DecidableEq, Repr

/-- An edge group (R412, R436): its registers, the size of the memory of a CXL device on it (log 45), the personality and
mode that a switch in progress goes to, the end of its drain, and whether the group was open when the switch began. -/
structure Group where
  ctlMode : Nat := 0
  ctlPers : Nat := 0
  nsw : Nat := 0
  trimx : Bool := false
  state : Nat := 0
  mode : Nat := 0
  pers : Nat := 0
  limit : Nat := 0
  hdm : Nat := 2 ^ 44
  newPers : Nat := 0
  newMode : Nat := 0
  deadline : Nat := 0
  wasUp : Bool := false
deriving DecidableEq, Repr

/-- A receive window (R425). -/
structure RWin where
  bound : Bool := false
  base : BitVec 64 := 0
  en : Bool := false
  autotag : Bool := false
  tagchk : Bool := false
  asid : Nat := 0
  size : Nat := 0
  caddr : BitVec 64 := 0
  steptag : BitVec 16 := 0
  incomplete : Bool := false
  refused : Bool := false
  wlate : Nat := 0
  cbmp : BitVec 256 := 0
deriving DecidableEq, Repr

/-- A loaded rank entry (R432). -/
structure Rank where
  ncontrib : Nat := 0
  v : Bool := false
  fenced : Bool := false
  kind : Nat := 0
  group : Nat := 0
  port : Nat := 0
  peer : Nat := 0
deriving DecidableEq, Repr

/-- A fabric message that the package has sent and that is not yet acknowledged (R417, R423): the source bytes are read
again for a retransmission, from vault pointers or virtual addresses. `req` names the context's load or store, and `via` is the rank entry it was sent under (R433). -/
structure SentMsg where
  chan : Nat
  rank : Nat
  msgid : Nat
  opc : Nat
  rop : Nat
  rwin : Nat
  steptag : Nat
  offset : Nat
  len : Nat
  untagged : Bool
  data : List (BitVec 8)
  src : Option (BitVec 64)
  vault : Bool
  sentAt : Nat
  tries : Nat
  psn : Nat := 0
  req : Option Nat
  via : Rank := {}
deriving DecidableEq, Repr

/-- A hole (R419): source, channel, message, window, tag, offset and length of the message, creation time, REREQs sent, and
the time of the next one (none while the retransmission is awaited), the PSN of the trimmed packet, and whether that was a READRESP. -/
structure Hole where
  src : Nat
  chan : Nat
  msgid : Nat
  rwin : Nat
  steptag : Nat
  offset : Nat
  len : Nat
  born : Nat
  rereqs : Nat
  due : Option Nat
  psn : Nat
  resp : Bool := false
deriving DecidableEq, Repr

/-- A message placed, dropped as late or refused and not yet completed (R421), with the bytes it placed and how: an earlier message
that comes later goes beneath them (R420). -/
structure Placed where
  src : Nat
  chan : Nat
  msgid : Nat
  rwin : Nat
  len : Nat
  placed : Bool
  flags : Nat
  reason : Nat
  offset : Nat := 0
  rop : Nat := 0
  data : List (BitVec 8) := []
deriving DecidableEq, Repr

/-- A machine-check log entry (R406): the MCHECK event fields (R399) with the time. -/
structure McRec where
  time : Nat
  stack : Nat
  core : Nat
  flags : Nat
  a : BitVec 64
  cause : Nat
  seq : Nat
deriving DecidableEq, Repr

/-- The package (R385 to R410) and the fabric (R411 to R443); `cmds` are the commands in progress of PKG.TLBINV, RANK.UPD and
RW.CMD by register index, oldest first (R390, R426, R433). -/
structure Pkg where
  revision : Nat := 0
  ready : Bool := false
  boot : Nat := 0
  brgTrim : Nat := 0
  brgRx : Nat := 0
  brgTx : Nat := 0
  brgRetx : Nat := 0
  brgHole : Nat := 0
  brgHoles : List (Nat × Nat) := []
  queues : NMap Queue := []
  nextQueue : Nat := 0
  ltBase : BitVec 64 := 0
  launches : NMap Launch := []
  admitted : Nat := 0
  ev : Ring := {}
  evSw : Nat := 0
  evHw : Nat := 0
  evLost : Bool := false
  evBuf : List Event := []
  msix : List Nat := []
  featSup : NMap (BitVec 64) := []
  featEn : NMap (BitVec 64) := []
  featChanged : Bool := false
  featRefused : Bool := false
  rampUp : Nat := 0
  rampDown : Nat := 0
  ptime : Nat := 0
  ptimeFrac : Nat := 0
  ptimeSlew : Nat := 0
  ptimeCfg : Nat := 0
  ptimeAdj : Int := 0
  ptimeRate : Int := 0
  ptimeFree : Bool := false
  tel : Ring := {}
  telLost : Nat := 0
  telSeq : Nat := 0
  telCur : Int := 0
  telHeat : Int := 0
  telLimited : Bool := false
  telBallast : Bool := false
  m : NMap (BitVec 512) := []
  bxcStat : Nat := 0
  bxcReq : Option Nat := none
  forkTags : List (Nat × List (Nat × Nat)) := []
  mclog : List McRec := []
  mcSeq : Nat := 0
  rstCfg : Nat := 2
  roots : NMap (BitVec 64) := []
  groups : NMap Group := []
  fabId : BitVec 64 := 0
  retries : Nat := 15
  rto : Nat := 100
  trimRx : Nat := 0
  rereqTx : Nat := 0
  rereqRx : Nat := 0
  retx : Nat := 0
  holeMax : Nat := 0
  late : Nat := 0
  lateAck : Nat := 0
  sdrop : Nat := 0
  fenceDrop : Nat := 0
  rankBase : BitVec 64 := 0
  rankTab : NMap Rank := []
  rwBase : BitVec 64 := 0
  wins : NMap RWin := []
  sent : List SentMsg := []
  nextIds : NMap Nat := []
  holes : List Hole := []
  waiting : List Packet := []
  placed : List Placed := []
  complete : List (Nat × Nat × Nat) := []
  due : NMap Nat := []
  anew : List Nat := []
  rereqAt : NMap Nat := []
  psn : NMap Nat := []
  out : List Packet := []
  slkEn : Bool := false
  slkVnom : Nat := 50
  slkDv : Nat := 2
  slkPer : Nat := 64
  slkDb : Nat := 16
  slkLo : Nat := 64
  slkHi : Nat := 192
  slkLast : Nat := 0
  slkCur : Nat := 0
  cmds : List (Nat × BitVec 64) := []
deriving DecidableEq, Repr

/-- What a command of PKG.TLBINV, RANK.UPD or RW.CMD does when it ends (R390, R426, R433). -/
inductive CmdStep
  | tlbAll
  | tlbAsid (asid : Nat)
  | tlbPage (asid vpn : Nat)
  | rankAll
  | rankOne (r : Nat)
  | bind (w : Nat)
  | unbind (w : Nat)
  | snapshot (w : Nat)
deriving DecidableEq, Repr

/-- How an access of the host completed (R368, R387, R392). -/
inductive HostStat
  | good | poisoned | unsupported | aborted
deriving DecidableEq, Repr

/-- A completion for the host: address, length, whether of a write, the value read, and its status. -/
structure HostDone where
  pa : Nat
  n : Nat
  write : Bool
  val : BitVec 2048
  stat : HostStat
deriving DecidableEq, Repr

/-- The whole machine. `now` counts reference cycles of the 4 GHz clock since reset; `cur` is the context whose issue a slot
instruction's meaning runs; `agenda` is what happens before time goes on; `inputs` is what the outside world does, with its
time; `net` holds the messages in flight, oldest first; `home` names, by its spill slot, the core where each strand that has
run or been forked last stood; `latent` holds the words with an error that nothing has read yet, true where it cannot be
corrected (R377, R378); `fusedLanes` and `flashLanes` are each stack's lane-repair maps (R366, R367); `hostDone` is what the
host has been answered; `free` counts the free values taken. -/
structure State where
  form : Form := .p
  fuses : NMap Fuse := []
  badLayers : NMap Nat := []
  fusedLanes : NMap (List Nat) := []
  flashLanes : NMap (List Nat) := []
  now : Nat := 0
  cur : Nat × Nat := (0, 0)
  agenda : List Instr := []
  inputs : List (Nat × Instr) := []
  free : Nat := 0
  nextId : Nat := 1
  mem : Memory := []
  poison : NMap Bool := []
  latent : NMap Bool := []
  stamps : NMap (Nat × Nat) := []
  ctxs : NMap Ctx := []
  cores : NMap Core := []
  clusters : NMap Cluster := []
  stks : NMap Stack := []
  pkg : Pkg := {}
  net : List Msg := []
  units : NMap AtomUnit := []
  barTags : NMap BarTags := []
  home : NMap Nat := []
  hostDone : List HostDone := []
deriving DecidableEq, Repr

/-- Why the model stops: never an outcome that the manual gives to an instruction. -/
inductive Fault
  /-- A step names a core, context, cluster, stack, queue, window, group or rank that the part does not have. Raised by the
  meanings of steps; safe, since no hardware step names one. -/
  | noUnit
deriving DecidableEq, Repr

/-- An instruction without a meaning. -/
inductive Refusal
  /-- The instruction has no meaning yet. Raised by the dispatch table alone; safe. -/
  | notModelled (mnemonic : String)
deriving DecidableEq, Repr

/-- The machine right after a cold reset (R11, R407), before the bring-up of R408. -/
def State.reset : State := {}

end Sys2Proof.Machine
end

