-- ==== Sys2Proof/Machine/Ops.lean ====
section
/-! DEFINITION. The named operations over registers, memory, messages and strands, the taking of a trap (R121, R122,
R146), the return from one (R148), and the issue of a bundle (R58 to R69, R76, R144) over the meanings of its slots. -/

namespace Sys2Proof.Machine

/-! Units of the part. -/

/-- A context of a core (R126). -/
def State.ctx (s : State) (c x : Nat) : Ctx := mget {} s.ctxs (2 * c + x)

def State.setCtx (s : State) (c x : Nat) (k : Ctx) : State := { s with ctxs := mset (2 * c + x) k s.ctxs }

def State.modCtx (s : State) (c x : Nat) (f : Ctx → Ctx) : State := s.setCtx c x (f (s.ctx c x))

/-- A core (R134). -/
def State.core (s : State) (c : Nat) : Core := mget {} s.cores c

def State.setCore (s : State) (c : Nat) (k : Core) : State := { s with cores := mset c k s.cores }

def State.modCore (s : State) (c : Nat) (f : Core → Core) : State := s.setCore c (f (s.core c))

/-- A cluster (R328), by its package-wide number. -/
def State.cluster (s : State) (q : Nat) : Cluster := mget {} s.clusters q

def State.modCluster (s : State) (q : Nat) (f : Cluster → Cluster) : State :=
  { s with clusters := mset q (f (s.cluster q)) s.clusters }

/-- Copy channel ch of core c (R227). -/
def State.chan (s : State) (c ch : Nat) : Chan := mget {} (s.core c).chans ch

def State.setChan (s : State) (c ch : Nat) (h : Chan) : State := s.modCore c fun k => { k with chans := mset ch h k.chans }

/-- A stack (R380). -/
def State.stk (s : State) (t : Nat) : Stack := mget {} s.stks t

def State.modStk (s : State) (t : Nat) (f : Stack → Stack) : State := { s with stks := mset t (f (s.stk t)) s.stks }

def State.modPkg (s : State) (f : Pkg → Pkg) : State := { s with pkg := f s.pkg }

/-- Cluster and stack of a core (R187). -/
def clusterOf (c : Nat) : Nat := c / 4
def stackOf (c : Nat) : Nat := c / 24

/-- Whether the part has core c (R1). -/
def State.hasCore (s : State) (c : Nat) : Bool :=
  match s.form with
  | .p => c < 96
  | .s => c < 24
  | .m => c < 96

/-- Reference cycles of one core cycle, vector cycle and copy cycle (R150). -/
def Core.div (k : Core) : Nat := k.cor

/-- Whether context x of a core is its drone (R126). -/
def State.isDrone (s : State) (c x : Nat) : Bool := (s.core c).lead != x

/-- A fresh number. -/
def State.fresh (s : State) : Nat × State := (s.nextId, { s with nextId := s.nextId + 1 })

/-- A free value of 64 bits (log 8) and the state that has taken it. -/
def State.freeVal (s : State) : BitVec 64 × State := (Config.freeWord s.free, { s with free := s.free + 1 })

/-- A free choice among n (log 4), 0 to n − 1, and the state that has taken it. -/
def State.pick (s : State) (n : Nat) : Nat × State := (Config.choice s.free % n, { s with free := s.free + 1 })

/-! Registers of a context (R51). -/

/-- A register that R59 and R69 watch: scalar, vector, mask, landing slot, tile (16 is accS). -/
inductive RegName
  | s (n : Nat)
  | v (n : Nat)
  | k (n : Nat)
  | la (n : Nat)
  | t (n : Nat)
deriving DecidableEq, Repr

/-- s0 reads zero (R51). -/
def Ctx.rs (k : Ctx) (r : BitVec 6) : BitVec 64 := if r = 0 then 0 else mget 0 k.s r.toNat

/-- A write to s0 is discarded (R51). -/
def Ctx.ws (k : Ctx) (r : BitVec 6) (v : BitVec 64) : Ctx := if r = 0 then k else { k with s := mset r.toNat v k.s }

/-- k0 reads all ones (R51). -/
def Ctx.rk (k : Ctx) (r : BitVec 4) : BitVec 64 := if r = 0 then BitVec.allOnes 64 else mget 0 k.k r.toNat

/-- A write to k0 is discarded (R51). -/
def Ctx.wk (k : Ctx) (r : BitVec 4) (v : BitVec 64) : Ctx := if r = 0 then k else { k with k := mset r.toNat v k.k }

def Ctx.rv (k : Ctx) (r : BitVec 11) : BitVec 2048 := mget 0 k.v r.toNat

def Ctx.wv (k : Ctx) (r : BitVec 11) (v : BitVec 2048) : Ctx := { k with v := mset r.toNat v k.v }

/-- A format register; the reset value of R133 where nothing has written it. -/
def Ctx.rf (k : Ctx) (r : Nat) : BitVec 32 := mget 0x00050748 k.f r

/-- Landing slot i (R141). -/
def Ctx.slot (k : Ctx) (i : Nat) : La := mget {} k.la i

/-- The register name of a destination, and its key among the marks of R145. -/
def Dst.reg : Dst → RegName
  | .s r => .s r
  | .v r => .v r
  | .k r => .k r

def RegName.key : RegName → Nat
  | .s n => n
  | .v n => 64 + n
  | .k n => 2112 + n
  | .la n => 2128 + n
  | .t n => 2160 + n

/-- s0 and k0 are no registers to watch (R59). -/
def RegName.real : RegName → Bool
  | .s n => n != 0
  | .k n => n != 0
  | _ => true

/-- A result written at once: visible to the next issue. A mask notes the cycle of its write (R66). -/
def Ctx.put (k : Ctx) (d : Dst) (v : BitVec 2048) (m : Option Mark) : Ctx :=
  let k1 : Ctx :=
    match d with
    | .s r => k.ws (BitVec.ofNat 6 r) (v.setWidth 64)
    | .v r => k.wv (BitVec.ofNat 11 r) v
    | .k r => { k.wk (BitVec.ofNat 4 r) (v.setWidth 64) with maskAt := mset r k.cyc k.maskAt }
  { k1 with marks := match m with
      | some a => if d.reg.real then mset d.reg.key a k1.marks else k1.marks
      | none => mdel d.reg.key k1.marks }

/-- A result that lands later (R69). -/
def Ctx.pending (k : Ctx) (d : Dst) (v : BitVec 2048) (due : Due) (m : Option Mark) : Ctx :=
  { k with pend := k.pend ++ [⟨d, v, due, m⟩] }

/-- A result of latency lat, counted in core cycles: latency 1 is visible to the next issue (R58, R69). A freeze of its
context does not hold it back, and a change of divisor does not move it (R140, R383). -/
def State.result (s : State) (c x : Nat) (d : Dst) (v : BitVec 2048) (lat : Nat) : State :=
  s.modCtx c x fun k =>
    if lat ≤ 1 then k.put d v none else k.pending d v (.cycle (k.cyc + lat) ((s.core c).tick + lat)) none

/-- A scalar result of slot S after lat core cycles. -/
def State.resS (s : State) (c x : Nat) (r : BitVec 6) (v : BitVec 64) (lat : Nat) : State :=
  s.result c x (.s r.toNat) (v.setWidth 2048) lat

/-- A mask result visible to the next issue (R58). -/
def State.resK (s : State) (c x : Nat) (r : BitVec 4) (v : BitVec 64) : State :=
  s.result c x (.k r.toNat) (v.setWidth 2048) 1

/-- A flag set at retirement (R156). -/
def State.setFlags (s : State) (c x : Nat) (f : BitVec 5) : State :=
  s.modCtx c x fun k => { k with stat := k.stat ||| f }

/-- A bit of NFS (R32). -/
def State.setNfs (s : State) (c x : Nat) (f : BitVec 5) : State :=
  s.modCtx c x fun k => { k with nfs := k.nfs ||| f }

/-- Whether a pending result is due. -/
def Due.reached (d : Due) (cyc tick : Nat) : Bool :=
  match d with
  | .cycle a t => a ≤ cyc || t ≤ tick
  | .reply _ => false

/-- A statistics record appended (R288, R289): merged into the newest one, or discarded when the queue is full. -/
def State.stat (s : State) (c x : Nat) (src obj event count : Nat) (pc : BitVec 64) : State :=
  let r : StatRec := { count := count, obj := obj, src := src, event := event, addr := pc.toNat / 64 * 64, ctx := x }
  s.modCore c fun k =>
    match k.statq.getLast? with
    | some l =>
      if l.addr == r.addr && l.ctx == x && l.event == event && l.src == src && l.obj == obj then
        { k with statq := k.statq.dropLast ++ [{ l with count := min (2 ^ 32 - 1) (l.count + count) }] }
      else if k.statq.length < 32 then { k with statq := k.statq ++ [r] }
      else { k with statLost := true }
    | none => { k with statq := [r] }

/-- NFS.VEC set by a vector instruction, with its record (R172, R288). -/
def State.noteVec (s : State) (c x obj : Nat) : State :=
  (s.setNfs c x 2).stat c x 1 obj 1 1 (s.ctx c x).pc

/-- A landing slot whose local data are due is full (R141). -/
def La.landDue (l : La) (cyc tick : Nat) : La :=
  match l.due with
  | some (a, t) => if a ≤ cyc || t ≤ tick then { l with st := .full, due := none } else l
  | none => l

/-- Results whose latency has elapsed land (R69), and local data reach their landing slots (R141). -/
def settle (s : State) (c x : Nat) : State :=
  let tick := (s.core c).tick
  s.modCtx c x fun k =>
    let due := k.pend.filter fun p => p.due.reached k.cyc tick
    let k1 := due.foldl (fun a p => a.put p.dst p.val p.mark) k
    { k1 with
      pend := k.pend.filter fun p => !p.due.reached k.cyc tick
      la := k1.la.map fun p => (p.1, p.2.landDue k.cyc tick) }

/-- Whether register r has a result pending (R69). -/
def Ctx.hasPend (k : Ctx) (r : RegName) : Bool := k.pend.any fun p => p.dst.reg == r

/-! Physical memory. -/

/-- The bytes of HBM under their linear name (R388), every other address as it is. -/
def canonPa (a : Nat) : Nat :=
  if a < 0x8000000000 then
    0x8000000000 + (a / 2 ^ 12 % 8) * 2 ^ 36 + (a / 2 ^ 15) * 4096 + a % 4096
  else a

/-- Vault v's byte at linear address o, as its vault window names it (R387). -/
def vaultPa (v o : Nat) : Nat := 0x10000000000 + v * 2 ^ 26 + o % 2 ^ 26

/-- Whether an address lies in a vault window, and its vault (R387). -/
def vaultOf (pa : Nat) : Option Nat :=
  if 0x10000000000 ≤ pa ∧ pa < 0x10000000000 + 96 * 2 ^ 26 then some ((pa - 0x10000000000) / 2 ^ 26) else none

def isHbm (pa : Nat) : Bool := pa < 0x10000000000
def isReg (pa : Nat) : Bool := 0x11000000000 ≤ pa && pa < 0x11000211000
def isHost (pa : Nat) : Bool := 2 ^ 51 ≤ pa && pa < 0xC000000000000
def isCxl (pa : Nat) : Bool := 0xC000000000000 ≤ pa && pa < 0xD000000000000
def isFabric (pa : Nat) : Bool := 0xD000000000000 ≤ pa && pa < 0xE000000000000

/-- Whether the physical map names the address: the package's (R387), or that of the SH-4896-S form, in which every address
but the other stacks' vault windows leads somewhere (R447). -/
def State.mapped (s : State) (pa : Nat) : Bool :=
  match vaultOf pa with
  | some v => s.hasCore v
  | none => isHbm pa || isReg pa || isHost pa || isCxl pa || isFabric pa || (s.form == .s && pa < 2 ^ 52)

/-- Whether the SH-4896-S form sends an access out to the customer's package (R447). -/
def State.customer (s : State) (pa : Nat) : Bool :=
  s.form == .s && (match vaultOf pa with
    | some _ => false
    | none => !isHbm pa || 2 ≤ (canonPa pa - 0x8000000000) / 2 ^ 36)

/-- An edge group (R412) and a loaded rank entry (R432). -/
def State.group (s : State) (g : Nat) : Group := mget {} s.pkg.groups g
def State.rank (s : State) (r : Nat) : Rank := mget {} s.pkg.rankTab r

/-- Whether a group carries fabric traffic. -/
def Group.fabricUp (g : Group) : Bool := g.state == 1 && (g.pers == 1 || g.pers == 2)

/-- The group of a CXL window and the offset in it (R414). -/
def cxlGroup (pa : Nat) : Nat := (pa - 0xC000000000000) / 2 ^ 44
def cxlOff (pa : Nat) : Nat := (pa - 0xC000000000000) % 2 ^ 44

/-- Rank, window and offset of an address in a fabric window (R414). -/
def fabRank (pa : Nat) : Nat := (pa - 0xD000000000000) / 2 ^ 38
def fabWin (pa : Nat) : Nat := (pa - 0xD000000000000) / 2 ^ 32 % 64
def fabOff (pa : Nat) : Nat := (pa - 0xD000000000000) % 2 ^ 32

/-- Whether the window that an address lies in is open, and the address below the size of a CXL device's range; other addresses
are (R414), and all of the customer's. -/
def State.windowOpen (s : State) (pa : Nat) : Bool :=
  if s.form = .s then true
  else if isCxl pa then
    let g := s.group (cxlGroup pa)
    g.pers == 3 && g.state == 1 && cxlOff pa < g.hdm
  else if isFabric pa then
    let r := s.rank (fabRank pa)
    r.v && !r.fenced && r.kind == 0 && (s.group r.group).fabricUp
  else true

/-- Whether a write of n bytes to a CXL window passes its limit (R415, R437). -/
def State.cxlFull (s : State) (pa n : Nat) : Bool := s.form != .s && isCxl pa && (s.group (cxlGroup pa)).limit < cxlOff pa + n

/-- n bytes at a physical address, little-endian (R9). -/
def State.rd (s : State) (pa n : Nat) : Nat :=
  match n with
  | 0 => 0
  | n + 1 => (s.mem.read (canonPa pa)).toNat + 256 * State.rd s (pa + 1) n

/-- Bytes stored from address pa. -/
def writeBytes (m : Memory) (pa : Nat) : List (BitVec 8) → Memory
  | [] => m
  | b :: t => writeBytes (m.write (canonPa pa) b) (pa + 1) t

/-- n bytes of a number, little-endian. -/
def toBytes (v : Nat) : Nat → List (BitVec 8)
  | 0 => []
  | n + 1 => BitVec.ofNat 8 v :: toBytes (v / 256) n

/-- A number from its bytes. -/
def ofBytes : List (BitVec 8) → Nat
  | [] => 0
  | b :: t => b.toNat + 256 * ofBytes t

/-- The 8-byte words whose every byte lies in [pa, pa + n). -/
def fullWords (pa n : Nat) : List Nat :=
  let lo := (pa + 7) / 8
  (List.range ((pa + n) / 8 - lo)).map fun i => lo + i

/-- Whether memory at the address belongs to a stack that has failed (R379). -/
def State.down (s : State) (pa : Nat) : Bool :=
  match vaultOf pa with
  | some v => (s.stk (stackOf v)).failed
  | none => isHbm pa && (s.stk ((canonPa pa - 0x8000000000) / 2 ^ 37)).failed

/-- Whether memory at the address is shut: a vault of a stack whose lane-repair map is not yet loaded (R368), or a vault
or HBM stack of a stack that has failed (R379). -/
def State.shut (s : State) (pa : Nat) : Bool :=
  s.down pa || (match vaultOf pa with
    | some v => !(s.stk (stackOf v)).repaired
    | none => false)

/-- The words that a store of bytes writes whole, out of a list of marked ones. -/
def goodWords (pa n : Nat) (l : NMap Bool) : NMap Bool :=
  if l.isEmpty then l else (fullWords pa n).foldl (fun p w => mdel (canonPa (8 * w) / 8) p) l

/-- Bytes stored from address pa; a store of all 8 bytes of a word clears its poison (R377). Memory that is
shut takes no write. -/
def State.wrBytes (s : State) (pa : Nat) (bs : List (BitVec 8)) : State :=
  if s.shut pa then s
  else
    { s with
      mem := writeBytes s.mem pa bs
      poison := goodWords pa bs.length s.poison
      latent := goodWords pa bs.length s.latent }

/-- The n low bytes of a number stored at a physical address. -/
def State.wr (s : State) (pa n v : Nat) : State := s.wrBytes pa (toBytes v n)

/-- The words that bytes [pa, pa + n) lie in, under their linear names. -/
def wordsAt (pa n : Nat) : List Nat := (List.range ((pa + n + 7) / 8 - pa / 8)).map fun i => canonPa (8 * (pa / 8 + i)) / 8

/-- Whether any byte of [pa, pa + n) is poisoned, or would be found uncorrectable (R377); memory that is shut reads poisoned
(R368, R379). -/
def State.poisoned (s : State) (pa n : Nat) : Bool :=
  s.shut pa || (wordsAt pa n).any fun w => mget false s.poison w || mget false s.latent w

/-- Poison marked on the words of [pa, pa + n). -/
def State.setPoison (s : State) (pa n : Nat) : State :=
  { s with poison := (wordsAt pa n).foldl (fun p w => mset w true p) s.poison }

/-! Messages and events. -/

/-- A message sent on the mesh, behind every earlier one (R445). -/
def State.send (s : State) (m : Msg) : State :=
  { s with net := s.net ++ [{ m with id := s.nextId }], nextId := s.nextId + 1 }

/-- A message by its number. -/
def State.msg (s : State) (m : Nat) : Option Msg := s.net.find? fun a => a.id == m

/-- Whether a message still has to be performed. -/
def MsgSt.waiting : MsgSt → Bool
  | .live => true
  | .asked => true
  | .nacked _ => true
  | .accepted => true
  | .replied _ _ => false

/-- A message leaves. -/
def State.dropMsg (s : State) (m : Nat) : State := { s with net := s.net.filter fun a => a.id != m }

/-- A message changed. -/
def State.modMsg (s : State) (m : Nat) (f : Msg → Msg) : State :=
  { s with net := s.net.map fun a => if a.id == m then f a else a }

/-- The misses of a context's slots and fetches, or of a channel, are forgotten with the outcomes of their walks (R330). -/
def State.dropMisses (s : State) (c unit x : Nat) : State :=
  let mine (m : Miss) : Bool := m.core == c && m.unit == unit && (unit != 0 || m.x == x)
  if (s.cluster (clusterOf c)).misses.any mine then
    s.modCluster (clusterOf c) fun q => { q with misses := q.misses.filter fun m => !mine m }
  else s

/-- Whether a message is a request that its slot may still take back: an atomic or barrier request whose bundle has not
retired, or a read. -/
def Msg.open (m : Msg) : Bool :=
  (match m.dest with
    | .wait _ _ => true
    | _ => false)
  && (match m.st, m.op with
    | .asked, _ => true
    | .nacked _, _ => true
    | .accepted, _ => true
    | .live, .read _ => true
    | .live, .bwait _ => true
    | .live, .phaseReport _ _ => true
    | .live, .tapeTop => true
    | _, _ => false)

/-- The bank, controller or port that owns an address: requests from one core to one of them keep their order (R332). -/
def ownerOf (pa : Nat) : Nat :=
  match vaultOf pa with
  | some _ => 16 + (pa - 0x10000000000) / 2 ^ 26 * 128 + pa / 64 % 128
  | none =>
    if isHbm pa then (canonPa pa - 0x8000000000) / 2 ^ 36
    else if isReg pa then 12
    else if isHost pa then 8
    else if isCxl pa then 9
    else if isFabric pa then 10
    else 11

/-- The requests that a unit's buffer takes. -/
def MsgOp.atUnit (op : MsgOp) : Bool :=
  match op with
  | .atomic _ _ _ _ _ => true
  | .vatom _ _ _ => true
  | .binit _ _ _ _ => true
  | .barr _ => true
  | .bwait _ => true
  | .arrive _ => true
  | _ => false

/-- Entries of the request buffer of the unit that owns pa in use: accepted requests not yet performed. -/
def State.unitUsed (s : State) (u : Nat) : Nat :=
  (s.net.filter fun a =>
    ownerOf a.pa == u && a.op.atUnit
      && (a.st == .accepted || (a.st == .live && (match a.op with | .bwait _ => false | _ => true)))).length

/-- Request buffer and retry interval of a unit (R292), in reference cycles. -/
def unitCap (u : Nat) : Nat := if u < 8 then 128 else 8
def unitRetry (u : Nat) : Nat := if u < 8 then 1024 else 256

def State.unit (s : State) (u : Nat) : AtomUnit := mget {} s.units u

def State.setUnit (s : State) (u : Nat) (a : AtomUnit) : State := { s with units := mset u a s.units }

/-- An entry that fell free is reserved for the requester at the head of the order queue, for 2 µs. -/
def State.reserve (s : State) (u : Nat) : State :=
  let a := s.unit u
  if s.unitUsed u + a.resv.length < unitCap u then
    match a.order.find? fun r => !a.resv.any fun p => p.1 == r with
    | some r => s.setUnit u { a with resv := a.resv ++ [(r, s.now + 8000)] }
    | none => s
  else s

/-- The entries that have fallen free at every unit are reserved (R293). -/
def State.reserveAll (s : State) : State :=
  s.units.foldl (fun t (u : Nat × AtomUnit) => u.2.order.foldl (fun a _ => a.reserve u.1) t) s

/-- The contribution of a context to the round in progress is taken back, on its way or counted: its GRED does not retire. One
whose round has ended stays, and the GRED that issues again takes its result (R270, R307). -/
def State.takeBackGred (s : State) (c x : Nat) : State :=
  match (s.ctx c x).gred with
  | none => s
  | some w =>
    if w.done then s
    else
      let out (rs : List Round) : List Round :=
        (rs.map fun r => { r with parts := r.parts.filter fun p => !(p.core == c && p.x == x) }).filter fun r => !r.parts.isEmpty
      let s1 : State := { s with
        net := s.net.filter fun m => m.id != w.id
        clusters := s.clusters.map fun p => (p.1, { p.2 with rounds := out p.2.rounds })
        stks := s.stks.map fun p => (p.1, { p.2 with rounds := out p.2.rounds }) }
      s1.modCtx c x fun k => { k with gred := none }

/-- The open requests of a context are taken back with their places and reservations, which the units give to those who
wait (R293), and its misses forgotten: its bundle does not retire (R140, R144). -/
def State.withdraw (s : State) (c x : Nat) : State :=
  let mine (m : Msg) : Bool := m.core == c && m.x == x && m.open
  let s1 := (s.takeBackGred c x).dropMisses c 0 x
  let s2 := s1.modCtx c x fun k => { k with wait := [], xl := [], trapNext := none, frozen := none, syncRun := 0 }
  if s.net.any mine then
    let s3 : State := { s2 with
      net := s2.net.filter fun m => !mine m
      units := s2.units.map fun u =>
        (u.1, { order := u.2.order.filter (· != 2 * c + x), resv := u.2.resv.filter fun r => r.1 != 2 * c + x }) }
    s3.reserveAll
  else s2

/-- A hardware event on its way to the event unit (R398). -/
def State.post (s : State) (e : Event) : State :=
  s.send { id := 0, core := e.core, x := 0, pa := 0, va := 0, op := .event e, dest := .none, st := .live }

/-- The FLAGS bits that name a context and its role (R399). -/
def State.ctxFlags (s : State) (c x : Nat) : Nat := x + 2 * (if s.isDrone c x then 1 else 0)

/-- A machine check: an event of code 0x04 and an entry in the BXC's log of 4,096 entries (R123, R399, R406). -/
def State.mcheck (s : State) (t core flags : Nat) (a : BitVec 64) (cause : Nat) : State :=
  let s1 := s.modPkg fun p =>
    { p with mcSeq := p.mcSeq + 1, mclog := (p.mclog ++ [(⟨p.ptime, t, core, flags, a, cause, p.mcSeq⟩ : McRec)]).drop (p.mclog.length - 4095) }
  s1.post ⟨4, t, core, flags, a, BitVec.ofNat 64 cause, BitVec.ofNat 64 s.pkg.mcSeq, none⟩

/-- A machine check whose cause code and address the manual does not state (log 8). -/
def State.mcheckOpen (s : State) (t core : Nat) : State :=
  let (a, s1) := s.freeVal
  let (b, s2) := s1.freeVal
  s2.mcheck t core 0 a b.toNat

/-- An uncorrectable error counted, with its location (R377). -/
def State.countUe (s : State) (t : Nat) (a : BitVec 64) : State :=
  s.modStk t fun k => { k with ue := k.ue + 1, ueAddr := a }

/-- The ECC.UEADDR form of a physical address: SPACE 0 a vault, SPACE 3 other memory (R380, R399). -/
def ueMem (pa : Nat) : BitVec 64 :=
  match vaultOf pa with
  | some v => BitVec.ofNat 64 (v * 2 ^ 26 + pa % 2 ^ 26)
  | none => BitVec.ofNat 64 (3 * 2 ^ 62 + pa)

/-- A corrected error (R377). -/
def State.countCe (s : State) (t : Nat) : State := s.modStk t fun k => { k with ce := k.ce + 1 }

/-- The stack at which an address lives; 4 is I/O die 0. -/
def homeStack (pa : Nat) : Nat :=
  match vaultOf pa with
  | some v => stackOf v
  | none => if isHbm pa then (canonPa pa - 0x8000000000) / 2 ^ 37 else 4

/-- An uncorrectable word: poisoned, counted and located (R377). -/
def State.loseWord (s : State) (t pa : Nat) : State := (s.setPoison pa 8).countUe t (ueMem pa)

/-- A read of [pa, pa + n) meets the errors of its words: each is corrected and counted, or marks its word poisoned (R377). -/
def State.meet (s : State) (pa n : Nat) : State :=
  if s.latent.isEmpty then s
  else (wordsAt pa n).foldl (fun t w =>
    match t.latent.find? fun p => p.1 == w with
    | some (_, ue) =>
      let u : State := { t with latent := mdel w t.latent }
      if ue then u.loseWord (homeStack (8 * w)) (8 * w) else u.countCe (homeStack (8 * w))
    | none => t) s

/-- A read of the n bytes from an address meets the errors of its words: the same for a long range. -/
def State.meetRange (s : State) (r : Nat × Nat) : State :=
  let lo := canonPa r.1
  (s.latent.filter fun p => lo < 8 * p.1 + 8 && 8 * p.1 < lo + r.2).foldl (fun t p => t.meet (8 * p.1) 8) s

/-- Reads of several ranges, an address and a length each, meet the errors of their words (R377). -/
def State.meetAll (s : State) (rs : List (Nat × Nat)) : State :=
  if s.latent.isEmpty then s else rs.foldl State.meetRange s

/-! Releases and acquires of the race detector (R350, R351). -/

/-- x newer than y (R349). -/
def newer (a b : Nat) : Bool := let d := (a + 256 - b % 256) % 256; 1 ≤ d && d ≤ 127

/-- Whether a release by the core would bring CUR more than 64 ahead of PASS (R350). -/
def State.relHeld (s : State) (c : Nat) : Bool :=
  let k := s.core c
  64 < (k.rgCur + 1 + 256 - k.rgPass) % 256

/-- The tag of a release, before CUR moves on (R350). -/
def State.relTag (s : State) (c : Nat) : Nat × Nat := (c, (s.core c).rgCur)

/-- A release: CUR := CUR + 1 mod 256; every seen entry of the stack for this core stays within 64 (R350). -/
def State.release (s : State) (c : Nat) : State :=
  let cur := ((s.core c).rgCur + 1) % 256
  let s1 := s.modCore c fun k => { k with rgCur := cur }
  let b := c % 24
  let base := 24 * stackOf c
  (List.range 24).foldl (fun a i =>
    let v := mget 0 (a.core (base + i)).seen b
    if 64 < (cur + 256 - v) % 256 then a.modCore (base + i) fun k => { k with seen := mset b ((cur + 192) % 256) k.seen }
    else a) s1

/-- An acquire without a tag raises every seen entry to the writers' present regions (R351). -/
def State.acquireAll (s : State) (c : Nat) : State :=
  let base := 24 * stackOf c
  s.modCore c fun k =>
    { k with seen := (List.range 24).foldl (fun m i =>
        if newer (s.core (base + i)).rgCur (mget 0 m i) then mset i (s.core (base + i)).rgCur m else m) k.seen }

/-- An acquire of one tagged release (R351); of another stack's, as without a tag. -/
def State.acquireTag (s : State) (c : Nat) (t : Nat × Nat) : State :=
  if stackOf t.1 = stackOf c then
    let b := t.1 % 24
    s.modCore c fun k =>
      let m := if newer t.2 (mget 0 k.seen b) then mset b t.2 k.seen else k.seen
      { k with seen := (List.range 24).foldl (fun a i =>
          let v := mget 0 (s.core t.1).seen i
          if newer v (mget 0 a i) then mset i v a else a) m }
  else s.acquireAll c

def State.acquireTags (s : State) (c : Nat) (ts : List (Nat × Nat)) : State := ts.foldl (fun a t => a.acquireTag c t) s

/-- A race found (R353). -/
def State.countRace (s : State) (c : Nat) : State := s.modCore c fun k => { k with nrace := k.nrace + 1 }

/-! Deques (R111): 32 entries in hardware, the rest in row 8,191 of the own vault, 8 bytes each (log 16). -/

/-- Entries that a deque holds in hardware. -/
def dequeHw : Nat := 32

/-- The place of entry i of a deque beyond those. -/
def dequePa (c i : Nat) : Nat := vaultPa c (8191 * 8192 + 8 * (i - dequeHw))

/-- The entries of a core's deque, from its head. -/
def State.deque (s : State) (c : Nat) : List Nat :=
  (s.core c).deque.zipIdx.map fun p => if p.2 < dequeHw then p.1 else s.rd (dequePa c p.2) 8

/-- A core's deque changed; what the row holds is written without a stamp (R349). -/
def State.setDeque (s : State) (c : Nat) (l : List Nat) : State :=
  (l.zipIdx.drop dequeHw).foldl (fun t p => t.wr (dequePa c p.2) 8 p.1) (s.modCore c fun k => { k with deque := l })

/-! Launches and strands. -/

def State.launch (s : State) (l : Nat) : Launch := mget {} s.pkg.launches l

/-- A launch-table entry changed, with its image at LT.BASE (R396). -/
def State.setLaunch (s : State) (l : Nat) (v : Launch) : State :=
  let s1 := s.modPkg fun p => { p with launches := mset l v p.launches }
  let a := s.pkg.ltBase.toNat + 64 * l
  let fl := (if v.faulted then 1 else 0) + (if v.killed then 2 else 0) + (if v.spawned then 4 else 0)
    + (if v.supv then 8 else 0)
  (((((((s1.wr a 8 v.hdrPa).wr (a + 8) 8 v.arg.toNat).wr (a + 16) 8 v.tag.toNat).wr (a + 24) 8 v.nleft).wr (a + 32) 8
    v.nhand).wr (a + 40) 4 (v.state + 256 * fl + 65536 * v.asid + 16777216 * v.queue))).wr (a + 44) 20 0

def State.modLaunch (s : State) (l : Nat) (f : Launch → Launch) : State := s.setLaunch l (f (s.launch l))

/-- Fields of LCFG (R84). -/
def Header.nslot (h : Header) : Nat := bitsOf h.lcfg 63 48
def Header.cube (h : Header) : Bool := bitsOf h.lcfg 45 45 == 1
def Header.filler (h : Header) : Bool := bitsOf h.lcfg 44 44 == 1
def Header.prio (h : Header) : Nat := bitsOf h.lcfg 43 42
def Header.clev (h : Header) : Nat := bitsOf h.lcfg 41 39
def Header.glev (h : Header) : Nat := bitsOf h.lcfg 38 36
def Header.width (h : Header) (i : Nat) : Nat := bitsOf h.lcfg (6 * i + 5) (6 * i)

/-- Bit position of work-identifier field i (R89). -/
def Header.pos (h : Header) (i : Nat) : Nat := ((List.range i).map h.width).sum

/-- Field i of a work identifier, and its extent (R89). -/
def Header.field (h : Header) (wid : Nat) (i : Nat) : Nat := wid / 2 ^ h.pos i % 2 ^ h.width i
def Header.ext (h : Header) (i : Nat) : Nat := h.field h.extm1.toNat i + 1

/-- Number of strands of a group at level L (R90), and of the whole launch (R89). -/
def Header.groupSize (h : Header) (L : Nat) : Nat := ((List.range L).map h.ext).prod
def Header.total (h : Header) : Nat := h.groupSize 6

/-- Gang size (R102). -/
def Header.gang (h : Header) : Nat := h.groupSize h.glev

/-- Index of a strand among its group at level L (R89, R112). -/
def Header.index (h : Header) (wid L : Nat) : Nat :=
  ((List.range L).map fun i => h.field wid i * h.groupSize i).sum

/-- The key of the group of a strand at level L: its fields from L up (R90). -/
def Header.groupKey (h : Header) (wid L : Nat) : Nat := wid / 2 ^ h.pos L

/-- The work identifier of enumeration index n (R89). -/
def Header.widOf (h : Header) (n : Nat) : Nat :=
  ((List.range 6).map fun i => (n / h.groupSize i % h.ext i) * 2 ^ h.pos i).sum

/-- The header of the launch that a strand belongs to. -/
def State.hdrOf (s : State) (st : Strand) : Header := (s.launch st.launch).hdr

/-- Size of one spill slot in bytes (R83). -/
def Header.slotBytes (h : Header) : Nat := h.spillsz * 4096

/-- Physical address of spill slot n (R87). -/
def Launch.slotPa (l : Launch) (n : Nat) : Nat := l.poolPa + n * l.hdr.slotBytes

/-- End of the full save image (R106). -/
def fullImage (h : Header) : Nat := if h.cube then 0x2A4000 else 0x84000

/-- The state code of the record at a physical address (R93). -/
def State.recState (s : State) (pa : Nat) : Nat := s.rd pa 8 % 64

/-- One atomic update of bytes 0 to 7 of a record (R95). -/
def State.setRec (s : State) (pa : Nat) (pc : BitVec 64) (st : Nat) : State :=
  s.wr pa 8 (pc.toNat / 64 * 64 + st % 64)

/-- TRAPINFO (R92, R147). -/
def trapWord (code slot rep : Nat) (rev drone : Bool) : Nat :=
  code % 65536 + slot % 8 * 2 ^ 16 + (if rev then 2 ^ 19 else 0) + (if drone then 2 ^ 20 else 0) + rep % 64 * 2 ^ 21

/-- Whether a state of R93 is final. -/
def finalState (n : Nat) : Bool := n == 4 || n == 5 || n == 6

/-- The context in which a strand is resident, by its slot's address. -/
def State.resident (s : State) (pa : Nat) : Option (Nat × Nat) :=
  (s.ctxs.find? fun p => match p.2.strand with | some st => st.slot == pa | none => false).map fun p => (p.1 / 2, p.1 % 2)

/-- Outstanding children of the strand whose slot is at pa: its context's copy while resident (R96). -/
def State.outstanding (s : State) (pa : Nat) : Nat :=
  match s.resident pa with
  | some (c, x) => match (s.ctx c x).strand with | some st => st.out | none => 0
  | none => s.rd (pa + 56) 4

/-- A spill slot returns to its pool once its strand is in a final state without children (R101), and the tag of a FORK whose
child never ran goes with it (R113). -/
def State.freeSlot (s : State) (l pa : Nat) : State :=
  if finalState (s.recState pa) && s.outstanding pa == 0 && (s.resident pa).isNone then
    let v := s.launch l
    let w : Launch := { v with used := mdel ((pa - v.poolPa) / v.hdr.slotBytes) v.used }
    { s.modPkg fun p => { p with launches := mset l w p.launches, forkTags := p.forkTags.filter fun t => t.1 != pa } with
      home := mdel pa s.home }
  else s

/-- The contexts whose accesses a launch has made: those in which its strands have ended, and those in which they stand. -/
def State.ranIn (s : State) (l : Nat) : List (Nat × Nat) :=
  (s.launch l).ended ++ (s.ctxs.filter fun p => match p.2.strand with
    | some st => st.launch == l
    | none => false).map fun p => (p.1 / 2, p.1 % 2)

/-- The completion of a launch (R99, R396): its report follows every access that its strands have made (R114). -/
def State.launchDone (s : State) (l : Nat) : State :=
  let v := s.launch l
  let s1 := s.setLaunch l { v with state := if v.state = 3 then 3 else 2 }
  if v.spawned then
    s1.send { id := 0, core := 0xFF, x := 0, pa := v.tag.toNat, va := BitVec.ofNat 64 (l + 1),
              op := .joinWord v.faulted v.killed [], dest := .none, st := .live, after := s.ranIn l }
  else
    s1.post ⟨1, v.queue, 0xFF, 0, v.tag,
      BitVec.ofNat 64 ((if v.faulted then 1 else 0) + (if v.killed then 2 else 0)), BitVec.ofNat 64 l, some l⟩

/-- A root strand of a launch reached a final state (R99, R396). -/
def State.rootEnd (s : State) (l : Nat) (final : Nat) : State :=
  let v := s.launch l
  let s1 := s.setLaunch l
    { v with nleft := v.nleft - 1, faulted := v.faulted || final == 5, killed := v.killed || final == 6 }
  if v.nleft ≤ 1 ∧ v.nleft ≠ 0 then s1.launchDone l else s1

/-- A strand of a launch that is no root faulted or was killed (R99). -/
def State.noteEnd (s : State) (l final : Nat) : State :=
  let v := s.launch l
  if v.state = 1 ∧ (final = 5 ∨ final = 6) then
    s.setLaunch l { v with faulted := v.faulted || final == 5, killed := v.killed || final == 6 }
  else s

/-- The parent's or the launch's side of a strand's end in context x of a core (R99, R100): the update of a join word is a
message, behind the accesses of the strand (R114). -/
def State.tellEnd (s : State) (l pjoin final core x : Nat) (rel : Bool) (tags : List (Nat × Nat)) : State :=
  if pjoin = 0 then s.rootEnd l final
  else (s.noteEnd l final).send
    { id := 0, core := core, x := x, pa := pjoin, va := 0, op := .joinWord (final == 5) (final == 6) tags, dest := .none,
      st := .live, rel := rel }

/-- Face slices of the layers of a mask cleared (R256). -/
def Core.clearFaces (k : Core) (mask : Nat) : Core :=
  { k with
    west := k.west.filter fun p => mask / 2 ^ p.1 % 2 == 0
    north := k.north.filter fun p => mask / 2 ^ p.1 % 2 == 0
    faceMarks := k.faceMarks.filter fun p => mask / 2 ^ (p.1 / 64) % 2 == 0 }

/-- The cube's claims released (R264, R272). -/
def Core.dropCubeClaims (k : Core) : Core :=
  { k with score := k.score.filter fun e => e.owner != .cubeA && e.owner != .cubeB }

/-- A running sequencer stops (R272), with the phase that follows. -/
def State.stopCube (s : State) (c x phase : Nat) : State :=
  match (s.core c).seq with
  | none => s
  | some q =>
    if q.d.x = x then
      (s.modCore c fun k => { (k.dropCubeClaims).clearFaces q.d.mask with seq := none }).modCtx c x fun k =>
        { k with mx := { k.mx with phase := phase } }
    else s

/-- The messages and misses of a copy channel that are discarded when it stops (R236, R247): its arrival, its reads and
writes through a fabric window, and its fabric messages. -/
def State.dropChanMsgs (s0 : State) (c ch : Nat) : State :=
  let s := s0.dropMisses c (1 + ch) 0
  { s with
    net := s.net.filter fun m =>
      !(m.core == c && (match m.op with
        | .arrive h => h == ch
        | _ => match m.dest with
          | .copy h _ => h == ch
          | _ => false))
    pkg := { s.pkg with sent := s.pkg.sent.filter fun m => m.chan != 4 * c + ch } }

/-- A channel between iterations: nothing asked for, nothing on its way. -/
def Chan.fresh (h : Chan) : Chan := { h with asked := false, got := [], sent := false, lost := none, xl := [] }

/-- A channel left Idle by CECANCEL (R236, R247), its claim retired. -/
def State.idleChan (s : State) (c ch : Nat) : State :=
  (s.dropChanMsgs c ch).modCore c fun k =>
    { k with
      chans := mset ch { (mget {} k.chans ch).fresh with state := 0, queue := [], mark := none, msgs := [], arriving := false }
        k.chans
      score := k.score.filter fun e => e.owner != .chan ch }

/-- The channels that a strand started (R227). -/
def State.chansOf (s : State) (c pa : Nat) : List Nat :=
  (List.range 4).filter fun ch => (mget {} (s.core c).chans ch).mark == some pa

/-- The context is idle: it keeps the registers its strand left, its landing slots and its mode among them (R137), and holds
none of its requests. -/
def Ctx.vacate (k : Ctx) : Ctx :=
  { k with strand := none, rep := 0, pend := [], bubble := 0, target := none, leaveTrap := false,
           preempt := none, save := none, restore := none, wait := [], trapNext := none, frozen := none,
           restart := false, syncRun := 0, slackWait := false, cubeId := 0, gred := none, xl := [] }

/-- The strand marks of a strand's channels are cleared when it leaves its context (R227). -/
def State.unmarkChans (s : State) (c pa : Nat) : State :=
  s.modCore c fun k =>
    { k with chans := k.chans.map fun p => if p.2.mark == some pa then (p.1, { p.2 with mark := none }) else p }

/-- The contributions of a strand that ends are taken out of the rounds in progress (R307). -/
def State.leaveRounds (s : State) (c x : Nat) : State :=
  let out (rs : List Round) : List Round := rs.filter fun r => !r.parts.any fun p => p.core == c && p.x == x
  let mine (m : Msg) : Bool := m.core == c && m.x == x && (match m.op with
    | .gred _ _ _ _ => true
    | _ => false)
  if s.net.any mine || s.clusters.any (fun p => !p.2.rounds.isEmpty) || s.stks.any (fun p => !p.2.rounds.isEmpty) then
    { s with
      net := s.net.filter fun m => !mine m
      clusters := s.clusters.map fun p => (p.1, { p.2 with rounds := out p.2.rounds })
      stks := s.stks.map fun p => (p.1, { p.2 with rounds := out p.2.rounds }) }
  else s

/-- A launch notes a context in which a strand of it ends. -/
def State.noteContext (s : State) (l c x : Nat) : State :=
  s.modPkg fun p =>
    let v := s.launch l
    { p with launches := if v.ended.contains (c, x) then p.launches else mset l { v with ended := v.ended ++ [(c, x)] } p.launches }

/-- A resident strand reaches a final state (R94, R100), its gang apart: at EXIT its channels that are complete stay so (R248),
at a fault or kill they are cancelled and its landing slots freed. DESIGN CHOICE: a strand ended by KILL, to which the spec
gives no trap code, records code and slot 0 (log 90). -/
def State.endResident (s : State) (c x final code slot rep : Nat) : State :=
  let k := s.ctx c x
  match k.strand with
  | none => s
  | some st =>
    let s1 := if final = 4 then s.unmarkChans c st.slot else (s.chansOf c st.slot).foldl (fun a ch => a.idleChan c ch) s
    let s2 := s1.stopCube c x 0
    let s3 := (s2.setRec st.slot k.pc final).wr (st.slot + 40) 4 (trapWord code slot rep k.rev (s.isDrone c x))
    let s4 := s3.wr (st.slot + 56) 8 (st.out + 2 ^ 32 * st.fault + 2 ^ 48 * st.kill)
    let s5 := ((s4.withdraw c x).modCtx c x Ctx.vacate).noteContext st.launch c x
    let s6 := if final = 4 then s5 else (s5.leaveRounds c x).modCtx c x fun k => { k with mx := {}, la := [] }
    (s6.tellEnd st.launch st.pjoin final c x true [s.relTag c]).freeSlot st.launch st.slot

/-- A strand that is not resident is killed (R94, R120). DESIGN CHOICE: its record keeps the trap word it held (log 90). -/
def State.endParked (s : State) (l pa : Nat) : State :=
  let s1 := s.setRec pa (BitVec.ofNat 64 (s.rd pa 8)) 6
  let ks := s1.stks.map fun p => (p.1, ({ p.2 with resume := p.2.resume.filter fun r => r != pa } : Stack))
  let s2 := (s1.cores.map (·.1)).foldl (fun (a : State) c => a.setDeque c ((a.deque c).filter fun r => r != pa))
    { s1 with stks := ks }
  (s2.tellEnd l (s.rd (pa + 32) 8) 6 0xFF 0 false []).freeSlot l pa

/-- A strand of launch l whose record is at pa goes to state 6, resident or not; a final one stays (R94, R95). -/
def State.killOne (s : State) (l pa : Nat) : State :=
  match s.resident pa with
  | some (c, x) => s.endResident c x 6 0 0 (s.ctx c x).rep
  | none => if finalState (s.recState pa) then s else s.endParked l pa

/-- The other members of a strand's gang that are not in a final state (R103): roots of its group at level GLEV. -/
def State.gangOf (s : State) (l : Nat) (wid : Nat) (self : Nat) : List Nat :=
  let v := s.launch l
  if v.hdr.glev = 0 then []
  else (v.used.map fun p => v.slotPa p.1).filter fun pa =>
    pa != self && s.rd (pa + 32) 8 == 0 && !finalState (s.recState pa)
      && v.hdr.groupKey (s.rd (pa + 8) 8) v.hdr.glev == v.hdr.groupKey wid v.hdr.glev

/-- A resident strand ends in state 5 or 6 and its gang with it (R100, R103); in state 4 alone. -/
def State.endStrand (s : State) (c x final code slot rep : Nat) : State :=
  match (s.ctx c x).strand with
  | none => s
  | some st =>
    let gang := if finalState final && final != 4 && st.pjoin == 0 then s.gangOf st.launch st.wid.toNat st.slot else []
    gang.foldl (fun a pa => a.killOne st.launch pa) (s.endResident c x final code slot rep)

/-- A strand killed by KILL, with its gang (R103, R120). -/
def State.killStrand (s : State) (l pa : Nat) : State :=
  match s.resident pa with
  | some (c, x) => s.endStrand c x 6 0 0 (s.ctx c x).rep
  | none =>
    if finalState (s.recState pa) then s
    else
      let gang := if s.rd (pa + 32) 8 == 0 then s.gangOf l (s.rd (pa + 8) 8) pa else []
      gang.foldl (fun a p => a.killOne l p) (s.endParked l pa)

/-- A launch killed (R120, R397): every strand of it ends, roots not yet instantiated count as killed, and it completes. -/
def State.killLaunch (s : State) (l : Nat) : State :=
  let v := s.launch l
  if v.state ≠ 1 then s
  else
    let s0 := s.setLaunch l { v with state := 3, killed := true }
    let s1 := (v.used.map fun p => v.slotPa p.1).foldl (fun a pa => a.killOne l pa) s0
    let w := s1.launch l
    let cs := s1.clusters.map fun p => (p.1, ({ p.2 with ranges := p.2.ranges.filter fun r => r.launch != l } : Cluster))
    let ks := s1.stks.map fun p => (p.1, ({ p.2 with ranges := p.2.ranges.filter fun r => r.launch != l } : Stack))
    let s2 : State := { s1 with clusters := cs, stks := ks }
    if w.nleft = 0 then s2 else (s2.setLaunch l { w with nleft := 0, killed := true }).launchDone l

/-! Taking a trap and returning from one. -/

/-- The strand's trap handler (R83); 0 is none. -/
def State.traph (s : State) (c x : Nat) : BitVec 64 :=
  match (s.ctx c x).strand with
  | some st => (s.hdrOf st).traph
  | none => 0

/-- Whether a PAGEFAULT parks the strand (R122): on an LD or ST slot or a bundle fetch, outside trap mode, with room for
the full image. -/
def State.parks (s : State) (c x code slot : Nat) : Bool :=
  match (s.ctx c x).strand with
  | some st => code == 8 && (slot == 4 || slot == 5 || slot == 0) && !(s.ctx c x).trapm
      && fullImage (s.hdrOf st) ≤ (s.hdrOf st).slotBytes
  | none => false

/-- Entry to trap mode (R146): the saved registers, the mode, and the pc at TRAPH; the first bundle of the handler issues
two cycles after the trapping one. A running sequencer stops (R272). -/
def State.enterTrap (s : State) (c x : Nat) (t : TrapReq) : State :=
  let drone := s.isDrone c x
  let h := s.traph c x
  ((s.stopCube c x 2).withdraw c x).modCtx c x fun k =>
    { k with
      trapPc := k.pc
      trapInfo := BitVec.ofNat 64 (trapWord t.code t.slot k.rep k.rev drone)
      trapAddr := t.addr
      trapm := true
      pc := h
      rep := 0
      cyc := k.cyc + 1
      bubble := 1
      restart := false
      issued := true }

/-- The save of a page fault's parking begins (R122), with the event to the host. -/
def State.parkFault (s : State) (c x : Nat) (t : TrapReq) : State :=
  match (s.ctx c x).strand with
  | none => s
  | some st =>
    let drone := s.isDrone c x
    (((s.stopCube c x 2).withdraw c x).modCtx c x fun k =>
      { k with save := some ⟨.fault, none, trapWord t.code t.slot k.rep k.rev drone⟩ }).post
      ⟨3, 0, c, s.ctxFlags c x, t.addr, BitVec.ofNat 64 st.slot, BitVec.ofNat 64 t.code, none⟩

/-- A trap taken (R121, R122, R146): parked, ended in state 5, or delivered to the handler. A
TAPEOVF leaves its record (R288). -/
def takeTrap (s0 : State) (c x : Nat) (t : TrapReq) : State :=
  let s := if t.code = 0x0C then s0.stat c x 3 0 5 1 (s0.ctx c x).pc else s0
  if s.parks c x t.code t.slot then s.parkFault c x t
  else if s.traph c x = 0 ∨ (s.ctx c x).trapm then s.endStrand c x 5 t.code t.slot (s.ctx c x).rep
  else s.enterTrap c x t

/-- The return from a trap (R148): trap mode ends and the bundle at TRAP.PC is next, at issue REPIDX; a stopped CUBE
restarts with it (R273). -/
def State.leaveTrap (s : State) (c x : Nat) : State :=
  s.modCtx c x fun k =>
    { k with trapm := false, leaveTrap := true, restart := k.mx.phase == 2 }

/-! The issue of a bundle. -/

/-- What a slot does at one issue, its operands read from the state before the issue (R58): the registers it reads, those
of them that its traps and freezes wait for (R76, R140: all, unless the instruction says otherwise), those it writes, the
landing slots it reads as operands and frees, traps known without operands and with them (code and address),
the local vault units it touches with their pointers (R192), whether it accesses the local vault (R154), a freeze that asks for something that can be withdrawn, a
freeze whose request cannot, a trap known only when a translation or data return, and its effect. -/
structure Sem where
  reads : List RegName := []
  gate : List RegName := reads
  las : List Nat := []
  frees : List Nat := []
  writes : List RegName := []
  trap0 : Option (Nat × BitVec 64) := none
  trap : Option (Nat × BitVec 64) := none
  units : List (Nat × BitVec 64) := []
  near : Bool := !units.isEmpty
  raced : Bool := false
  wait : Option (Frz × (State → State)) := none
  final : Option (Frz × (State → State)) := none
  late : Option (Nat × BitVec 64) := none
  eff : State → State := id

/-- Rank of a freeze cause (R139). -/
def Frz.rank : Frz → Nat
  | .sync => 0
  | .heat => 1
  | .scor => 2
  | .land => 3
  | .reg => 4

/-- The cause that counts among several (R139). -/
def Frz.first (a b : Option Frz) : Option Frz :=
  match a, b with
  | some p, some q => if p.rank ≤ q.rank then some p else some q
  | some p, none => some p
  | none, b => b

/-- A cycle counted in a context's freeze counter (R139). -/
def Ctx.countFrz (k : Ctx) (f : Frz) : Ctx :=
  match f with
  | .sync => { k with frzSync := k.frzSync + 1, frozen := some f, syncRun := k.syncRun + 1 }
  | .heat => { k with frzHeat := k.frzHeat + 1, frozen := some f }
  | .scor => { k with frzScor := k.frzScor + 1, frozen := some f }
  | .land => { k with frzLand := k.frzLand + 1, frozen := some f }
  | .reg => { k with frzReg := k.frzReg + 1, frozen := some f }

/-- A slot of an issue: its place, whether its guard is true, and what it does. -/
structure Part where
  sl : Slot
  on : Bool
  g : BitVec 4
  sem : Sem

/-- The mask number of the guard of a slot instruction; NOP has none (R50). -/
def guardOn (sl : Slot) (m : BitVec 64) : Bool :=
  match sl with
  | .va | .vb => m != 0
  | _ => m.getLsbD 0

/-- n requests enter a core's crossing into the vault die, of 12 entries (R370). -/
def State.cross (s : State) (c n : Nat) : State :=
  if n = 0 then s else s.modCore c fun k => { k with xing := min 12 (k.xing + n) }

/-- Whether none of the registers has a result pending (R69). -/
def Ctx.landed (k : Ctx) (rs : List RegName) : Bool := !rs.any fun r => r.real && k.hasPend r

/-- Whether operand registers of a slot have results pending. -/
def Sem.waitsReg (m : Sem) (k : Ctx) : Bool := !k.landed (m.reads ++ m.writes)

/-- A landing slot read too early, or while free (R142). -/
def laEarly (k : Ctx) (i : Nat) : Bool :=
  let l := k.slot i
  l.st == .free || k.cyc < l.arr

/-- The issue-time trap of one slot (R76, R142): its own traps and LANDEARLY. -/
def Part.issueTrap (p : Part) (k : Ctx) : Option TrapReq :=
  match p.sem.trap0 with
  | some (code, a) => some ⟨code, p.sl.idx, a⟩
  | none =>
    if p.sem.las.any (laEarly k) then some ⟨4, p.sl.idx, 0⟩
    else if !k.landed p.sem.gate then none
    else p.sem.trap.map fun t => ⟨t.1, p.sl.idx, t.2⟩

/-- Two writers of one register (R59): recorded against the higher slot, or SY for PLOG. DESIGN CHOICE: of several pairs
the spec names none; the lowest slot that collides with a lower one is recorded (log 88). -/
def twoWriters (ps : List (Nat × List RegName)) : Option Nat :=
  let pairs := ps.flatMap fun p => (p.2.filter RegName.real).map fun r => (p.1, r)
  (pairs.find? fun q => pairs.any fun r => r.1 < q.1 && r.2 == q.2).map (·.1)

/-- The units of one context in a cycle, in slot order, with the slot of each (R192). -/
def partUnits (ps : List Part) : List (Nat × Nat × BitVec 64) :=
  ps.flatMap fun p => p.sem.units.map fun u => (p.sl.idx, u.1, u.2)

/-- The first pair of accesses to one bank (R192): slot and address are the later access's. -/
def bankConf (own : List (Nat × Nat × BitVec 64)) (seqUnits : List Nat) : Option TrapReq :=
  let go := own.zipIdx.find? fun (a, i) =>
    seqUnits.any (fun u => u % 128 == a.2.1 % 128) || (own.take i).any fun b => b.2.1 % 128 == a.2.1 % 128
  go.map fun (a, _) => ⟨3, a.1, a.2.2⟩

/-- The first of two traps by slot (R76). -/
def lowerSlot (a b : Option TrapReq) : Option TrapReq :=
  match a, b with
  | some p, some q => if q.slot < p.slot then some q else some p
  | some p, none => some p
  | none, b => b

/-- The mark of the first marked register of a list (R145). -/
def Ctx.markOf (k : Ctx) (rs : List RegName) : Option Mark :=
  rs.findSome? fun r => (k.marks.find? fun q => q.1 == r.key).map (·.2)

/-- The trap that a mark raises at a slot (R145). -/
def Mark.trapAt (m : Mark) (slot : Nat) : TrapReq := ⟨m.code, slot, m.addr⟩

/-- A mark of the guard, the registers and the landing slots a slot consumes (R145, R197): a slot that does nothing reads its
guard alone (R60). -/
def Part.markTrap (p : Part) (k : Ctx) : Option TrapReq :=
  let gm := k.markOf [.k p.g.toNat]
  let rm := if p.on then k.markOf p.sem.reads else none
  let lm := if p.on then p.sem.las.findSome? fun i => (k.slot i).mark else none
  match gm, lm, rm with
  | some m, _, _ => some (m.trapAt p.sl.idx)
  | none, some m, _ => some (m.trapAt p.sl.idx)
  | none, none, some m => some (m.trapAt p.sl.idx)
  | none, none, none => if p.on then p.sem.late.map fun t => ⟨t.1, p.sl.idx, t.2⟩ else none

/-- What an attempt to issue comes to. -/
inductive Verdict
  | trap (t : TrapReq)
  | freeze (f : Frz)
  | final (f : Frz)
  | go
deriving DecidableEq, Repr

/-- The freeze of one slot that can be undone. -/
def Part.freeze (p : Part) (k : Ctx) : Option Frz :=
  let reg := if p.sem.waitsReg k then some Frz.reg else none
  let land := if p.sem.las.any fun i => (k.slot i).st == .pending then some Frz.land else none
  let w := if k.landed p.sem.gate then p.sem.wait.map (·.1) else none
  Frz.first w (Frz.first land reg)

/-- The verdict on an issue whose guards are known (R76, R139, R145). A freeze whose request is not yet made counts beside
the others (R139). A mark on a mask that PLOG reads is recorded against slot SY, as R59 records PLOG (log 88). -/
def verdict (k : Ctx) (ps : List Part) (plogW : List RegName) (plogR : List RegName) (seqUnits : List Nat) : Verdict :=
  let on := ps.filter (·.on)
  match twoWriters ((on.map fun p => (p.sl.idx, p.sem.writes)) ++ [(8, plogW)]) with
  | some w => .trap ⟨1, min w 7, 0⟩
  | none =>
    let t1 := on.foldl (fun a p => lowerSlot a (p.issueTrap k)) none
    let known := on.filter fun p => k.landed p.sem.gate
    match lowerSlot t1 (bankConf (partUnits known) seqUnits) with
    | some t => .trap t
    | none =>
      let f0 := on.foldl (fun a p => Frz.first a (p.freeze k)) none
      let f := Frz.first f0 (if k.landed (plogW ++ plogR) then none else some .reg)
      let fin := on.findSome? fun p => p.sem.final.map (·.1)
      match k.trapNext, f, fin with
      | some t, none, _ => .trap t
      | some t, some .sync, _ => .trap t
      | some t, some .scor, _ => .trap t
      | _, some a, _ => .freeze ((Frz.first fin (some a)).getD a)
      | none, none, _ =>
        match lowerSlot (ps.foldl (fun a p => lowerSlot a (p.markTrap k)) none) ((k.markOf plogR).map (·.trapAt 7)) with
        | some t => .trap t
        | none => match fin with
          | some a => .final a
          | none => .go

/-- The PLOG operation (R49, R61). -/
def plogVal (op : BitVec 3) (a b : BitVec 64) : BitVec 64 :=
  match op.toNat with
  | 1 => a &&& b
  | 2 => a ||| b
  | 3 => a ^^^ b
  | 4 => a &&& ~~~b
  | 5 => a ||| ~~~b
  | 6 => ~~~(a &&& b)
  | _ => ~~~a

/-- Whether the hardware loop acts at the context's bundle (R146, R166, R168). -/
def Ctx.loopActs (k : Ctx) : Bool :=
  bitsOf k.loopCnt 39 0 != 0 && bitsOf k.loopCnt 63 40 != 0 && k.pc == (k.loopEnd >>> 6) <<< 6 && !k.trapm

/-- After the last issue of a group (R168): the loop's back-edge, or the following bundle. -/
def Ctx.groupEnd (k : Ctx) : Ctx :=
  if k.loopActs then
    let n := bitsOf k.loopCnt 39 0 - 1
    let len := bitsOf k.loopCnt 63 40
    { k with
      loopCnt := BitVec.ofNat 64 (len * 2 ^ 40 + n)
      pc := if n ≠ 0 then k.pc - BitVec.ofNat 64 (64 * (len - 1)) else k.pc + 64
      rep := 0 }
  else { k with pc := k.pc + 64, rep := 0 }

/-- Where the context goes on after an issue (R62, R68, R148, R168). -/
def Ctx.advance (k : Ctx) (repeatN : Nat) : Ctx :=
  let k1 : Ctx :=
    { k with cyc := k.cyc + 1, target := none, leaveTrap := false, wait := [], xl := [], frozen := none, issued := true
             syncRun := 0, slackWait := k.slackWait && k.syncRun == 0 }
  if k.leaveTrap then
    { k1 with pc := (k.trapPc >>> 6) <<< 6, rep := bitsOf k.trapInfo 26 21, bubble := 1 }
  else
    match k.target with
    | some t => { k1 with pc := (t >>> 6) <<< 6, rep := 0, bubble := 1 }
    | none => if k.rep < repeatN then { k1 with rep := k.rep + 1 } else k1.groupEnd

/-- An empty issue (R67): one cycle, and the group ends. -/
def Ctx.emptyIssue (k : Ctx) : Ctx := { (k.groupEnd) with cyc := k.cyc + 1, frozen := none, issued := true }

/-- Whether the guard masks were written long enough ago (R66, condition 5). -/
def Ctx.masksOld (k : Ctx) (gs : List (BitVec 4)) : Bool :=
  gs.all fun g => g == 0 || mget 0 (k.maskAt.map fun p => (p.1, p.2 + 2)) g.toNat ≤ k.cyc

/-- The effects of an issue that retires (R58, R141, R142, R144): freed slots, then the slots in order, then PLOG, then
the context's advance. DESIGN CHOICE: a SYSWR of slot S takes effect before what the other slots of its bundle do to the
register it writes, which the spec does not order: a sticky bit of STAT or NFS that it clears and another slot sets stays set,
and SRSEED ends one above its old value when another slot advances it (log 99). -/
def retire (s : State) (c x : Nat) (b : Bundle) (on : List Part) : State :=
  let k := s.ctx c x
  let s1 := s.modCtx c x fun k =>
    { k with la := on.foldl (fun l p => p.sem.frees.foldl (fun a i => mdel i a) l) k.la }
  let s2 := (on.foldl (fun a p => p.sem.eff a) s1).cross c (on.filter fun p => p.sem.near).length
  let s3 := if b.plogop = 0 then s2
    else s2.resK c x b.plogd (plogVal b.plogop (k.rk b.ploga) (k.rk b.plogb))
  s3.modCtx c x fun k => k.advance b.rep

/-- The registers PLOG writes and reads (R61). -/
def plogWrites (b : Bundle) : List RegName := if b.plogop = 0 then [] else [.k b.plogd.toNat]
def plogReads (b : Bundle) : List RegName :=
  if b.plogop = 0 then [] else if b.plogop = 7 then [.k b.ploga.toNat] else [.k b.ploga.toNat, .k b.plogb.toNat]

/-- An attempt of context x to issue bundle b with the slots `ps` (none a NOP), its encoding checked: it freezes, traps,
is nullified or issues; an empty issue takes a trap that waits for the context's next issue as any other does (R67, R270). -/
def attempt (s : State) (c x : Nat) (b : Bundle) (ps : List Part) (seqUnits : List Nat) : State :=
  let k := s.ctx c x
  if ps.any fun p => p.g != 0 && k.hasPend (.k p.g.toNat) then s.modCtx c x fun k => k.countFrz .reg
  else if !ps.isEmpty && ps.all (fun p => !p.on) && b.plogop == 0 && (k.markOf (ps.map fun p => .k p.g.toNat)).isNone then
    if k.masksOld (ps.map (·.g)) && !k.loopActs then
      s.modCtx c x fun k => { k with pc := k.pc + 64, rep := 0, frozen := none }
    else match k.trapNext with
      | some t => takeTrap s c x t
      | none => s.modCtx c x Ctx.emptyIssue
  else
    let on := ps.filter (·.on)
    match verdict k ps (plogWrites b) (plogReads b) seqUnits with
    | .trap t =>
      takeTrap (if t.code = 0x0B ∧ on.any (fun p => p.sl.idx == t.slot && p.sem.raced) then s.countRace c else s) c x t
    | .freeze f =>
      (on.foldl (fun a p =>
        match p.sem.wait with
        | some (_, w) => if k.landed p.sem.gate then w a else a
        | none => a) s).modCtx c x fun k => k.countFrz f
    | .final f =>
      (match on.findSome? (fun (p : Part) => p.sem.final) with
       | some (_, w) => w s
       | none => s).modCtx c x fun k => k.countFrz f
    | .go => retire s c x b on

/-- Whether feature n is enabled (R400). DESIGN CHOICE: in the SH-4896-S form too, whose package registers are the customer's, the
package's FEAT.EN says so (log 100). -/
def State.featOn (s : State) (n : Nat) : Bool := (mget 0 s.pkg.featEn (n / 64)).getLsbD (n % 64)

/-- Feature bits of vector control words: NFA (5) and, in a conversion, rounding code 4 (4) (R400). -/
def featV (conv : Bool) (o : OpV) (second : Bool) : List Nat :=
  (if o.ty = 11 ∨ (second ∧ bitsOf o.vc 7 4 = 11) then [5] else [])
    ++ (if conv ∧ bitsOf o.vc 2 0 = 4 then [4] else [])

/-- Layer L7 (R249, R400). -/
def featMask (m : BitVec 8) : List Nat := if m.toNat / 128 % 2 = 1 then [1] else []

/-- Format codes 2 and 3 read format registers (R400). -/
def featFmt (a b : BitVec 3) : List Nat := if a = 2 ∨ a = 3 ∨ b = 2 ∨ b = 3 then [5] else []

/-- The features of a slot instruction: its encoding traps FEATOFF while one of them is disabled (R400). -/
def featsOf (i : Instr) : List Nat :=
  match i with
  | .cube o => 0 :: featMask o.mask ++ featFmt o.af o.bf
  | .mstep o => 0 :: featMask o.mask ++ featFmt o.af o.bf
  | .mpusha o => if o.l = 7 then [0, 1] else [0]
  | .mpushb o => if o.l = 7 then [0, 1] else [0]
  | .mdrain o => 0 :: (if o.ty = 11 then [5] else []) ++ (if o.mode = 4 then [4] else [])
  | .mfmt _ => [0, 5]
  | .mresume _ | .mresumeAbandon _ | .mzero _ | .mouter _ | .mrdacc _ | .mwracc _ | .mscacc _ | .mrenorm _ | .mexp _
  | .mexpW _ | .mprog _ => [0]
  | .dld _ | .dst _ | .dmode _ | .dreg _ | .tapemk _ => [2]
  | .cego o => if bitsOf o.imm 0 0 = 1 then [2] else []
  | .cefab _ | .steptag _ | .steptagW _ => [3]
  | .cebase o => if bitsOf o.imm 2 1 = 2 then [3] else []
  | .vcmp o => featV false o false
  | .vclass o => featV false o false
  | .vfinite o => featV false o false
  | .vsat o => featV false o true
  | .vcvt o => featV true o true
  | .vpack o => featV false o true
  | .vunpack o => featV false o true
  | .tune _ | .clkdiv _ | .ballastOff _ | .ballastLevel _ | .ballastAuto _ => [6]
  | _ => []

/-- Encodings that trap in the SH-4896-S form: package and fabric registers (R322), and the package time counter and
receive windows (R319, R321). -/
def formTrap (f : Form) (i : Instr) : Option Nat :=
  if f = .s then
    match i with
    | .sysrd o => if 0x400 ≤ o.imm.toNat then some 1 else none
    | .syswr o => if 0x400 ≤ o.imm.toNat then some 1 else none
    | .waitt o => if o.imm = 2 then some 0x14 else none
    | .steptag _ => some 0x14
    | .steptagW _ => some 0x14
    | _ => none
  else none

/-- The lowest slot of a bundle at issue j whose encoding is ILLOP (R75, R76). -/
def illSlot (b : Bundle) (f : Form) (j : Nat) : Option Slot :=
  let form := ((b.slotsAt j).find? fun p => formTrap f p.2 == some 1).map (·.1)
  match b.badSlot j, form with
  | some p, some q => if q.idx < p.idx then some q else some p
  | some p, none => some p
  | none, q => q

/-- Whether a slot instruction is of a feature that is not there: disabled (R400), of a form without it (R319), or of layer
L7 in a core of a stack that booted with seven layers (R249, R364). -/
def State.featOff (s : State) (c : Nat) (i : Instr) : Bool :=
  (formTrap s.form i).isSome
    || (featsOf i).any fun f => !s.featOn f || (f == 1 && (s.stk (stackOf c)).nlayers == 7)

/-- The encoding trap of a bundle at issue j (R75, R76): ILLOP before FEATOFF, each at its lowest slot. -/
def encTrap (s : State) (c : Nat) (b : Bundle) (j : Nat) : Option TrapReq :=
  match illSlot b s.form j with
  | some sl => some ⟨1, sl.idx, 0⟩
  | none => ((b.slotsAt j).find? fun p => s.featOff c p.2).map fun p => ⟨0x14, p.1.idx, 0⟩

/-- The bank uses that the context's cube sequencer publishes for this cycle (R192, R262). -/
def seqUses (s : State) (c x : Nat) : List Nat :=
  match (s.core c).seq with
  | some q => if q.d.x = x then (s.core c).seqUse else []
  | none => []

/-- Whether the governor holds a core's column paused (R374). -/
def State.paused (s : State) (c : Nat) : Bool := (s.stk (stackOf c)).pause / 2 ^ (c % 24) % 2 == 1

/-- Why a beat cannot enter the beat FIFO, as the core freeze that follows (R152): counted in FRZ.GOV or FRZ.CLK. -/
def State.beatStop (s : State) (c : Nat) : Option (Core → Core) :=
  if s.paused c then some fun k => { k with frzGov := k.frzGov + 1 }
  else if 16 ≤ (s.core c).fifo.length then some fun k => { k with frzClk := k.frzClk + 1 }
  else none

/-- Whether the fence of the bundle before waits for an access of that bundle itself (R306). -/
def State.fenced (s : State) (c x : Nat) : Bool := s.net.any fun a => a.hold && a.core == c && a.x == x && a.st.waiting

/-- The issue of a decoded bundle by a context: results due land, the encoding is checked, and the slots are attempted. The
meanings of the slots come with their guards. An issue whose beat cannot enter the beat FIFO is a core freeze (R152). -/
def issueBundle (s : State) (c x : Nat) (b : Bundle) (parts : State → List Part) : State :=
  let s1 := settle s c x
  if s1.fenced c x then s1.modCtx c x fun k => k.countFrz .sync
  else match encTrap s1 c b (s1.ctx c x).rep with
  | some t => takeTrap s1 c x t
  | none =>
    let r := attempt s1 c x b (parts s1) (seqUses s1 c x)
    if (s1.core c).fifo.length < (r.core c).fifo.length then
      match s1.beatStop c with
      | some f => s.modCore c f
      | none => r
    else r

/-- A slot of an issue with its meaning: the guard is read before the issue (R58, R60). -/
def part (s : State) (c x : Nat) (sl : Slot) (g : BitVec 4) (sem : State → Nat → Nat → Sem) : Part :=
  { sl := sl, on := guardOn sl ((s.ctx c x).rk g), g := g, sem := sem s c x }

/-- The issue, by the context in turn, of a bundle that holds one slot instruction and nothing else: what a slot
instruction does alone. -/
def issueOne (sl : Slot) (i : Instr) (g : BitVec 4) (sem : State → Nat → Nat → Sem) (s : State) :
    Host.Outcome State Fault Refusal :=
  let c := s.cur.1
  let x := s.cur.2
  .next (issueBundle s c x (Bundle.single sl i) (fun s1 => [part s1 c x sl g sem]))

end Sys2Proof.Machine
end

