-- ==== Sys2Proof/Machine/Flags.lean ====
section
/-! DEFINITION. The computations that set flags, masks and sticky bits: integer division (R16), scalar and element
comparisons (R160, R176), and the bits of NFS (R32). -/

namespace Sys2Proof.Machine

/-- Bits of NFS (R32). -/
def Nfs.cube : BitVec 5 := 1
def Nfs.vec : BitVec 5 := 2
def Nfs.drain : BitVec 5 := 4
def Nfs.scacc : BitVec 5 := 8
def Nfs.crev : BitVec 5 := 16

/-- The signed value of the low w bits of n (R15). -/
def sgn (w n : Nat) : Int := if n % 2 ^ w < 2 ^ (w - 1) then (n % 2 ^ w : Nat) else (n % 2 ^ w : Nat) - 2 ^ w

/-- The low w bits of an integer (R15). -/
def wrap (w : Nat) (i : Int) : Nat := (i % 2 ^ w).toNat

/-- The value of the low w bits of n as a signed or unsigned integer (R15). -/
def ival (signed : Bool) (w n : Nat) : Int := if signed then sgn w n else (n % 2 ^ w : Nat)

/-- Quotient and remainder of w-bit integers with DIVZ (R16). -/
def idiv (signed : Bool) (w a b : Nat) : Nat × Nat × Flags :=
  let x := ival signed w a
  let y := ival signed w b
  if y = 0 then (if signed then wrap w (if x < 0 then -1 else 0) else 2 ^ w - 1, wrap w x, Flags.divz)
  else (wrap w (x.tdiv y), wrap w (x.tmod y), 0)

/-- The conditions of CMP and CMPI (R160). -/
def scalarCond (cond : Nat) (a b : BitVec 64) : Bool :=
  match cond with
  | 0 => a == b
  | 1 => a != b
  | 2 => decide (a.toInt < b.toInt)
  | 3 => decide (a.toInt ≤ b.toInt)
  | 4 => decide (b.toInt < a.toInt)
  | 5 => decide (b.toInt ≤ a.toInt)
  | 6 => decide (a.toNat < b.toNat)
  | 7 => decide (a.toNat ≤ b.toNat)
  | 8 => decide (b.toNat < a.toNat)
  | _ => decide (b.toNat ≤ a.toNat)

/-- The integer conditions of VCMP (R176). -/
def elemCond (cond : Nat) (a b : Int) : Bool :=
  match cond with
  | 0 => a == b
  | 1 => a != b
  | 2 => decide (a < b)
  | 3 => decide (a ≤ b)
  | 4 => decide (b < a)
  | _ => decide (b ≤ a)

/-- All ones or all zeros (R160). -/
def maskOf (b : Bool) : BitVec 64 := if b then BitVec.allOnes 64 else 0

/-- The number of leading zero bits (R157). -/
def clz64 (a : BitVec 64) : Nat := 64 - bitLen a.toNat

/-- The number of one bits (R157). -/
def popc64 (a : BitVec 64) : Nat := ((List.range 64).filter fun i => a.getLsbD i).length

end Sys2Proof.Machine
end

