-- ==== Sys2Proof/Machine/Transcend.lean ====
section
/-! DEFINITION. The correctly rounded base-2 exponential, base-2 logarithm and hyperbolic tangent (R33, R182), and the
irrational constants of the constant table (R171). Each function is enclosed between two fixed-point numbers; when both
ends round to one encoding, that is the result, and otherwise the enclosure is narrowed. -/

namespace Sys2Proof.Machine

/-- An enclosure lo ≤ x × 2^p ≤ hi of a real x with p fraction bits. -/
structure Encl where
  lo : Nat
  hi : Nat
deriving DecidableEq, Repr

/-- Terms t, t·r, t·r², … each divided by its odd index: the sum of the arctanh series from index k. -/
def atanhGo (p r2 : Nat) : Nat → Nat → Nat → Nat → Nat
  | 0, _, _, acc => acc
  | n + 1, k, t, acc => atanhGo p r2 n (k + 2) (t * r2 / 2 ^ p) (acc + t / k)

/-- 2·atanh(num/den) for num/den ≤ 1/3, enclosed with p fraction bits. -/
def atanh2 (p num den : Nat) : Encl :=
  let r := num * 2 ^ p / den
  let s := atanhGo p (r * r / 2 ^ p) (p / 3 + 4) 1 r 0
  ⟨2 * s, 2 * s + 8 * p + 64⟩

/-- ln 2. -/
def ln2 (p : Nat) : Encl := atanh2 p 1 3

/-- Taylor terms of e^y. -/
def expGo (p y : Nat) : Nat → Nat → Nat → Nat → Nat
  | 0, _, _, acc => acc
  | n + 1, k, t, acc => expGo p y n (k + 1) (t * y / 2 ^ p / k) (acc + t)

/-- e^y for 0 ≤ y ≤ 1, enclosed. -/
def expE (p : Nat) (y : Encl) : Encl :=
  let s := expGo p y.lo (p / 3 + 12) 1 (2 ^ p) 0
  ⟨s, s + 4 * (y.hi - y.lo) + 2 * p + 64⟩

/-- The product of two enclosures. -/
def Encl.mul (p : Nat) (a b : Encl) : Encl := ⟨a.lo * b.lo / 2 ^ p, a.hi * b.hi / 2 ^ p + 1⟩

/-- The quotient of two enclosures. -/
def Encl.div (p : Nat) (a b : Encl) : Encl := ⟨a.lo * 2 ^ p / b.hi, a.hi * 2 ^ p / b.lo + 1⟩

/-- An enclosure squared n times. -/
def Encl.pow2 (p : Nat) : Nat → Encl → Encl
  | 0, a => a
  | n + 1, a => Encl.pow2 p n (a.mul p a)

/-- Rounding of an enclosed magnitude under RNE, with a scale 2^sh: the result when both ends agree. -/
def roundEncl (f : Fmt) (p : Nat) (neg : Bool) (sh : Int) (x : Encl) : Option FRes :=
  let a := f.round 0 false 0 neg x.lo (sh - p) true
  let b := f.round 0 false 0 neg x.hi (sh - p) true
  if a = b then some a else none

/-- The first of three precisions whose enclosure rounds to one value; the last one's lower end otherwise. -/
def ziv (f : Fmt) (neg : Bool) (enc : Nat → Int × Encl) : FRes :=
  let go (p : Nat) : Option FRes := roundEncl f p neg (enc p).1 (enc p).2
  match go 96 with
  | some r => r
  | none =>
    match go 192 with
    | some r => r
    | none =>
      match go 384 with
      | some r => r
      | none => f.round 0 false 0 neg (enc 384).2.lo ((enc 384).1 - 384) true

/-- 2^a (R34, R182). -/
def fExp2 (f : Fmt) (a : FVal) : FRes :=
  match a with
  | .nan s => ⟨f.canon, if s then Flags.finv else 0⟩
  | .inf n => if n then ⟨0, 0⟩ else ⟨f.infBits false, 0⟩
  | .fin neg m e =>
    let d : Int := if neg then -(m : Int) else m
    if m = 0 then f.round 0 false 0 false 1 0 false
    else if 0 ≤ e ∧ 10 < e + bitLen m then
      if neg then f.round 0 false 0 false (2 ^ 64) (-1000 - 64) true else f.overflow 0 false false
    else if e + bitLen m < -40 then
      -- 1 + x ln 2 with |x| below 2^-40
      f.round 0 false 0 false (if neg then 2 ^ 64 - 1 else 2 ^ 64) (-64) true
    else if 0 ≤ e then f.round 0 false 0 false 1 (d * 2 ^ e.toNat) false
    else
      let k := (-e).toNat
      let n := d / 2 ^ k
      let fr := (d - n * 2 ^ k).toNat
      if fr = 0 then f.round 0 false 0 false 1 n false
      else if 1100 < n then f.overflow 0 false false
      else if n < -1100 then f.round 0 false 0 false (2 ^ 64) (-1000 - 64) true
      else
        ziv f false fun p =>
          let l := ln2 p
          (n, expE p ⟨fr * l.lo / 2 ^ k, fr * l.hi / 2 ^ k + 1⟩)

/-- log2 a (R34, R182). -/
def fLog2 (f : Fmt) (a : FVal) : FRes :=
  match a with
  | .nan s => ⟨f.canon, if s then Flags.finv else 0⟩
  | .inf n => if n then f.invalid else ⟨f.infBits false, 0⟩
  | .fin neg m e =>
    if m = 0 then ⟨f.infBits true, Flags.fdz⟩
    else if neg then f.invalid
    else
      let b := bitLen m - 1
      let ex : Int := e + b
      if m = 2 ^ b then f.round 0 false 0 (decide (ex < 0)) ex.natAbs 0 false
      else
        -- log2 = ex + log2 (m / 2^b)
        let frac (p : Nat) : Encl := (atanh2 p (m - 2 ^ b) (m + 2 ^ b)).div p (ln2 p)
        if 0 ≤ ex then
          ziv f false fun p => (0, ⟨ex.toNat * 2 ^ p + (frac p).lo, ex.toNat * 2 ^ p + (frac p).hi⟩)
        else
          ziv f true fun p => (0, ⟨(-ex).toNat * 2 ^ p - (frac p).hi, (-ex).toNat * 2 ^ p - (frac p).lo⟩)

/-- tanh a (R34, R182). -/
def fTanh (f : Fmt) (a : FVal) : FRes :=
  match a with
  | .nan s => ⟨f.canon, if s then Flags.finv else 0⟩
  | .inf n => f.round 0 false 0 n 1 0 false
  | .fin neg m e =>
    if m = 0 then ⟨f.signBit neg, 0⟩
    else if 4 < e + bitLen m then f.round 0 false 0 neg (2 ^ 64 - 1) (-64) true
    else if e + bitLen m < -13 then f.round 0 false 0 neg m e false
    else
      ziv f neg fun p =>
        -- z = 2|a| / 64, then e^(2|a|) by six squarings
        let sh := e - 5 + p
        let z := if 0 ≤ sh then m * 2 ^ sh.toNat else m / 2 ^ (-sh).toNat
        let x := Encl.pow2 p 6 (expE p ⟨z, z + 1⟩)
        (0, ⟨(x.lo - 2 ^ p) * 2 ^ p / (x.lo + 2 ^ p), (x.hi - 2 ^ p) * 2 ^ p / (x.hi + 2 ^ p) + 1⟩)

/-- arctan(1/n) by its series, as signed fixed point. -/
def atanInvGo (n2 : Nat) : Nat → Nat → Int → Nat → Int → Int
  | 0, _, _, _, acc => acc
  | c + 1, k, sgn, t, acc => atanInvGo n2 c (k + 2) (-sgn) (t / n2) (acc + sgn * (t / k : Nat))

/-- π × 2^p, within 2^12, by Machin's formula. -/
def piFix (p : Nat) : Nat :=
  (16 * atanInvGo 25 (p / 4 + 4) 1 1 (2 ^ p / 5) 0 - 4 * atanInvGo (239 * 239) (p / 15 + 4) 1 1 (2 ^ p / 239) 0).toNat

/-- ln 2, log2 e and π rounded to a format under RNE (ct9, ct10, ct11). -/
def ctIrr (f : Fmt) (i : Nat) : Nat :=
  if i = 9 then (f.round 0 false 0 false (ln2 128).lo (-128) true).bits
  else if i = 10 then (f.round 0 false 0 false (2 ^ 256 / (ln2 128).lo) (-128) true).bits
  else (f.round 0 false 0 false (piFix 128) (-128) true).bits

end Sys2Proof.Machine
end

