-- ==== Sys2Proof/Machine/Operands.lean ====
section
/-! DEFINITION. The operand forms: vector elements, lanes and guards (R169), the source classes of va (R170, R171),
conversions between element types (R36, R162, R179), vault pointers (R187 to R191), and global and indexed addresses
(R193, R208). -/

namespace Sys2Proof.Machine

/-! Vector elements. -/

/-- An element type as an instruction reads it: storage width (R169), its float format if it is one, and signedness. -/
structure ETy where
  w : Nat
  flt : Option Fmt
  signed : Bool
deriving DecidableEq, Repr

/-- The element type of a code (R53); 11 is NFA through the format `nf`. -/
def eTy (t : Nat) (nf : Fmt) : ETy :=
  match t with
  | 0 => ⟨32, some .f32, true⟩
  | 1 => ⟨16, some .f16, true⟩
  | 2 => ⟨16, some .bf16, true⟩
  | 3 => ⟨32, none, true⟩
  | 4 => ⟨16, none, true⟩
  | 5 => ⟨8, none, true⟩
  | 6 => ⟨32, none, false⟩
  | 7 => ⟨16, none, false⟩
  | 8 => ⟨8, none, false⟩
  | 9 => ⟨64, none, true⟩
  | 10 => ⟨64, none, false⟩
  | _ => ⟨if nf.w = 4 then 4 else 8, some nf, true⟩

/-- Number of elements of a register (R169). -/
def ETy.count (t : ETy) : Nat := 2048 / t.w

/-- Element i of a register. -/
def elem (w i : Nat) (v : BitVec 2048) : Nat := v.toNat / 2 ^ (w * i) % 2 ^ w

/-- The register of the elements of a list. -/
def joinElems (w : Nat) (l : List Nat) : BitVec 2048 := BitVec.ofNat 2048 (l.foldr (fun e a => e % 2 ^ w + 2 ^ w * a) 0)

/-- The value of a float element; the upper bits of a narrow element are ignored (R24). -/
def ETy.val (t : ETy) (e : Nat) : FVal :=
  match t.flt with
  | some f => f.dec (e % 2 ^ f.w)
  | none => .fin (t.signed && sgn t.w e < 0) (ival t.signed t.w e).natAbs 0

/-- Whether an element is a non-finite value of a floating type (R172). -/
def ETy.nonFinite (t : ETy) (e : Nat) : Bool :=
  match t.flt with
  | some _ => !(t.val e).isFinite
  | none => false

/-- Whether the guard admits element i: the bit of its lane, the even lane for 64-bit types (R60, R169). -/
def admits (g : BitVec 64) (w i : Nat) : Bool := g.getLsbD (w * i / 32)

/-- Element i of a register replaced. -/
def setElem (w i e : Nat) (v : BitVec 2048) : BitVec 2048 :=
  BitVec.ofNat 2048 (v.toNat - elem w i v * 2 ^ (w * i) + e % 2 ^ w * 2 ^ (w * i))

/-- A value broadcast to every element (R170). -/
def broadcast (w : Nat) (e : Nat) : BitVec 2048 := joinElems w (List.replicate (2048 / w) (e % 2 ^ w))

/-- The constant table (R171). -/
def constElem (t : ETy) (i : Nat) : Nat :=
  match t.flt with
  | some f =>
    match i with
    | 0 => 0
    | 1 => (f.round 0 false 0 false 1 0 false).bits
    | 2 => (f.round 0 false 0 false 2 0 false).bits
    | 3 => (f.round 0 false 0 true 1 0 false).bits
    | 4 => (f.round 0 false 0 false 1 (-1) false).bits
    | 5 => f.maxBits
    | 6 => f.signBit true + f.maxBits
    | 7 => if f.spec = 0 then f.infBits false else f.maxBits
    | 8 => f.canon
    | 9 => ctIrr f 9
    | 10 => ctIrr f 10
    | 11 => ctIrr f 11
    | 12 => 2 ^ f.m
    | 13 => if f.subn then 1 else 2 ^ f.m
    | 14 => f.signBit true
    | _ => 2 ^ f.w - 1
  | none =>
    match i with
    | 1 => 1
    | 2 => 2
    | 3 => 2 ^ t.w - 1
    | 5 => wrap t.w (intMax t.signed t.w)
    | 6 => wrap t.w (intMin t.signed t.w)
    | 7 => wrap t.w (intMax t.signed t.w)
    | 12 => 1
    | 13 => 1
    | 15 => 2 ^ t.w - 1
    | _ => 0

/-- The format register that vc bits 10:8 name (R53). -/
def Ctx.nfOf (k : Ctx) (o : OpV) : Fmt := Fmt.ofReg (k.rf (bitsOf o.vc 10 8))

/-- The value of the va operand read as type t (R170). -/
def Ctx.vaVal (k : Ctx) (o : OpV) (t : ETy) : BitVec 2048 :=
  match o.cls.toNat with
  | 0 => k.rv o.va
  | 1 => (k.slot (o.va.toNat % 32)).data
  | 2 => broadcast t.w (k.rs (o.va.setWidth 6)).toNat
  | _ => broadcast t.w (constElem t (o.va.toNat % 64))

/-- The registers va reads, the landing slot it reads, and whether it frees it (R53, R142). -/
def vaReads (o : OpV) : List RegName :=
  match o.cls.toNat with
  | 0 => [.v o.va.toNat]
  | 2 => [.s (o.va.toNat % 64)]
  | _ => []

def vaLas (o : OpV) : List Nat := if o.cls = 1 then [o.va.toNat % 32] else []

def vaFrees (o : OpV) : List Nat := if o.cls = 1 ∧ o.va.getLsbD 10 then [o.va.toNat % 32] else []

/-- A vector result of `lat` vector cycles, held in core cycles by the divisors (R69, R150). -/
def State.resV (s : State) (c x : Nat) (r : Nat) (v : BitVec 2048) (lat : Nat) : State :=
  let k := s.core c
  s.result c x (.v r) v ((lat * k.vec + k.cor - 1) / k.cor)

/-- A mask result of the vector unit. -/
def State.resKV (s : State) (c x : Nat) (r : Nat) (v : BitVec 64) : State :=
  let k := s.core c
  s.result c x (.k r) (v.setWidth 2048) ((k.vec + k.cor - 1) / k.cor)

/-- Elements written to a register, each already admitted by the guard: the register after its latency, and the flags
(R31). -/
def State.emitRaw (s : State) (c x : Nat) (t : ETy) (vd : Nat) (old : BitVec 2048) (new : List (Nat × FRes)) (lat : Nat) :
    State :=
  let s1 := s.resV c x vd (new.foldl (fun v p => setElem t.w p.1 p.2.bits v) old) lat
  s1.setFlags c x (new.foldl (fun fl p => fl ||| p.2.fl) 0)

/-- NFS.VEC and its record when an instruction with destination vd writes a non-finite element of a floating type (R172,
R288). -/
def State.emitNote (s : State) (c x : Nat) (t : ETy) (vd : Nat) (new : List (Nat × FRes)) : State :=
  if new.any fun p => t.nonFinite p.2.bits then s.noteVec c x vd else s

/-- A register written with its flags and its NFS bit. -/
def State.emit (s : State) (c x : Nat) (t : ETy) (vd : Nat) (old : BitVec 2048) (new : List (Nat × FRes)) (lat : Nat) :
    State :=
  (s.emitRaw c x t vd old new lat).emitNote c x t vd new

/-- The element numbers below n that the guard admits (R172). -/
def admitted (g : BitVec 64) (w n : Nat) : List Nat := (List.range n).filter (admits g w)

/-- A vector instruction that reads va, with `rb` vb and with `rc` vc, and writes the elements that `f a b e i` gives for
each element i of vd (R172). -/
def elementWise (s : State) (c x : Nat) (o : OpV) (t : ETy) (out : ETy) (rb rc : Bool) (lat : Nat)
    (f : BitVec 2048 → BitVec 2048 → BitVec 2048 → Nat → FRes) : Sem :=
  let k := s.ctx c x
  let a := k.vaVal o t
  let is := admitted (k.rk o.g) out.w out.count
  { reads := vaReads o ++ (if rb then [.v o.vb.toNat] else []) ++ (if rc then [.v o.vc.toNat] else [])
    las := vaLas o
    frees := vaFrees o
    writes := [.v o.vd.toNat]
    eff := fun s1 => s1.emit c x out o.vd.toNat (k.rv o.vd) (is.map fun i => (i, f a (k.rv o.vb) (k.rv o.vc) i)) lat }

/-- The rounding mode of an instruction that names none (R26). -/
def Ctx.mode (k : Ctx) : RMode := plainMode k.rnd

/-! Conversions. -/

/-- Convert one element from type S to type D (R36). -/
def convElem (src dst : ETy) (mode : RMode) (sat : Bool) (z : Nat) (e : Nat) : FRes :=
  match src.flt, dst.flt with
  | some _, some fd => fd.ofVal mode sat z (src.val e)
  | some _, none => fToInt mode z dst.signed dst.w (src.val e)
  | none, some fd =>
    let i := ival src.signed src.w e
    fd.round mode sat z (decide (i < 0)) i.natAbs 0 false
  | none, none =>
    let i := ival src.signed src.w e
    ⟨wrap dst.w (if sat && dst.w ≤ src.w then clampInt i (intMin dst.signed dst.w) (intMax dst.signed dst.w) else i), 0⟩

/-- SRSEED after a VCVT or MDRAIN (R30): once per issue, however many slots hold one. -/
def State.advanceSeed (s : State) (c x : Nat) (old : BitVec 64) : State :=
  s.modCtx c x fun k => { k with srseed := old + 1 }

/-- The types of a conversion: source from vc bits 7:4, destination from the type field (R179). -/
def Ctx.cvtTypes (k : Ctx) (o : OpV) : ETy × ETy := (eTy (bitsOf o.vc 7 4) (k.nfOf o), eTy o.ty.toNat (k.nfOf o))

/-! Vault pointers. -/

/-- Fields of a vault pointer (R187). -/
def vpVault (p : BitVec 64) : Nat := bitsOf p 32 26
def vpLin (p : BitVec 64) : Nat := bitsOf p 25 0

/-- The vault that a pointer of core c names: 127 is its own (R187). -/
def vaultNum (c : Nat) (p : BitVec 64) : Nat := if vpVault p = 127 then c else vpVault p

/-- Whether a pointer breaks R188: bits 63:33, or a vault that does not exist. -/
def State.badVp (s : State) (c : Nat) (p : BitVec 64) : Bool := bitsOf p 63 33 != 0 || !s.hasCore (vaultNum c p)

/-- A vault pointer from its vault and linear address. -/
def mkVp (v lin : Nat) : BitVec 64 := BitVec.ofNat 64 (v * 2 ^ 26 + lin % 2 ^ 26)

/-- The effective pointer of a vault-form access (R188). -/
def vaultEA (base idx : BitVec 64) (bank row : Nat) : BitVec 64 :=
  mkVp (vpVault base) ((vpLin base + idx.toNat + row * 8192 + bank * 64) % 2 ^ 26)

/-- Bytes of a size code (R54). -/
def sizeBytes (z : Nat) : Nat :=
  match z with
  | 0 => 1
  | 1 => 2
  | 2 => 4
  | 3 => 8
  | 4 => 64
  | 5 => 128
  | _ => 256

/-- A global address: base + index + signed offset, modulo 2^64 (R193). -/
def globalEA (base idx : BitVec 64) (off : BitVec 20) : BitVec 64 := base + idx + off.signExtend 64

end Sys2Proof.Machine
end

