-- ==== Sys2Proof/Machine/Mem.lean ====
section
/-! DEFINITION. Accesses to memory: pieces, scoreboard (R200, R201), translation (R194, R329), the race detector's stamps
(R349, R352), and messages to banks and controllers (R332, R445). -/

namespace Sys2Proof.Machine

/-- A part of an access that lies in one 64-byte unit: its pointer or virtual address, its length, and the offset of its
bytes in the access's data. -/
structure Piece where
  ea : BitVec 64
  n : Nat
  off : Nat
deriving DecidableEq, Repr

/-- An access of n bytes from ea cut at 64-byte units; at most `fuel` parts. -/
def cutPieces (ea : BitVec 64) (off : Nat) : Nat → Nat → List Piece
  | 0, _ => []
  | _ + 1, 0 => []
  | fuel + 1, n + 1 =>
    let room := 64 - ea.toNat % 64
    if n + 1 ≤ room then [⟨ea, n + 1, off⟩]
    else ⟨ea, room, off⟩ :: cutPieces (ea + BitVec.ofNat 64 room) (off + room) fuel (n + 1 - room)

/-- Pieces of an access of up to 256 bytes. -/
def pieces (ea : BitVec 64) (off n : Nat) : List Piece := cutPieces ea off 6 n

/-- The address space and privilege of a context's strand (R88). -/
def State.asid (s : State) (c x : Nat) : Nat :=
  match (s.ctx c x).strand with
  | some st => (s.launch st.launch).asid
  | none => 0

def State.supv (s : State) (c x : Nat) : Bool :=
  match (s.ctx c x).strand with
  | some st => (s.launch st.launch).supv
  | none => false

/-! The range scoreboard. -/

/-- Whether bytes lo to hi of a space overlap a live chunk (R200, R201). -/
def ScoreEnt.hits (e : ScoreEnt) (vault : Bool) (key lo hi : Nat) : Bool :=
  e.vault == vault && e.key == key
    && ((List.range (hi / 512 + 1 - lo / 512)).any (fun i =>
          e.base ≤ lo / 512 + i && e.live / 2 ^ (lo / 512 + i - e.base) % 2 == 1)
        || (e.tail && lo ≤ e.tailHi && e.tailLo ≤ hi))

/-- Whether a vault piece overlaps a live chunk of the core's scoreboard. -/
def State.scoreVault (s : State) (c : Nat) (p : Piece) : Bool :=
  (s.core c).score.any fun e => e.hits true (vaultNum c p.ea) (vpLin p.ea) (vpLin p.ea + p.n - 1)

/-- Whether a global piece does, by virtual address and address space (R200). -/
def State.scoreGlobal (s : State) (c asid : Nat) (p : Piece) : Bool :=
  (s.core c).score.any fun e => e.hits false asid p.ea.toNat (p.ea.toNat + p.n - 1)

/-! Differentiable regions (R224). -/

/-- The first address of a byte range that lies in the primal range of a valid region of a space; an own-vault pointer is
read with the core's number (R213, R218, R224). -/
def State.primalMeet (s : State) (c x : Nat) (vault : Bool) (p : Piece) : Option (BitVec 64) :=
  let k := s.ctx c x
  let a := if vault then (mkVp (vaultNum c p.ea) (vpLin p.ea)).toNat else p.ea.toNat
  let hits := k.dreg.filter fun r =>
    r.2.valid && r.2.space == vault && r.2.primal.toNat < a + p.n && a < r.2.primal.toNat + r.2.len
  match hits.map fun r => max a r.2.primal.toNat - a with
  | [] => none
  | d :: t => some (p.ea + BitVec.ofNat 64 (t.foldl min d))

/-- Such an address in reverse mode. -/
def State.primalHit (s : State) (c x : Nat) (vault : Bool) (p : Piece) : Option (BitVec 64) :=
  if (s.ctx c x).rev then s.primalMeet c x vault p else none

/-! Translation. -/

/-- The translation held for an address, if any (R329). -/
def findTlb (tlb : List TlbEnt) (asid va : Nat) : Option TlbEnt :=
  tlb.find? fun e => e.asid == asid && e.va ≤ va && va < e.va + e.size

/-- What a translation comes to (R193, R194, R330). -/
inductive Xlate
  | ok (pa : Nat)
  | bad (code : Nat)
  | miss
deriving DecidableEq, Repr

/-- Bits 63:57 equal bit 56 (R193). -/
def canonical (va : BitVec 64) : Bool := bitsOf va 63 57 == (if va.getLsbD 56 then 127 else 0)

/-- Whether two misses are of one access to one page. -/
def Miss.same (a b : Miss) : Bool :=
  a.core == b.core && a.unit == b.unit && a.x == b.x && a.asid == b.asid && a.vpn == b.vpn && a.write == b.write
    && a.exec == b.exec

/-- The failed walk recorded for an access, if any (R330). -/
def State.walkFail (s : State) (c unit x asid : Nat) (va : BitVec 64) (write exec : Bool) : Option Nat :=
  ((s.cluster (clusterOf c)).misses.find? fun m =>
    m.same ⟨c, unit, x, asid, bitsOf va 56 12, write, exec, false, none, 0, false⟩ && m.fail.isSome).bind (·.fail)

/-- The permissions of a leaf (R194, R389). -/
def permitted (e : TlbEnt) (supv write exec : Bool) : Bool := (supv || e.u) && (!write || e.w) && (!exec || e.x)

/-- Translation through one µTLB: unit 0 is the core's, 1 to 4 those of the channels (R194, R329). -/
def State.xlate (s : State) (c unit x asid : Nat) (supv : Bool) (tlb : List TlbEnt) (va : BitVec 64)
    (write exec : Bool) : Xlate :=
  if !canonical va then .bad 9
  else
    match findTlb tlb asid (bitsOf va 56 0) with
    | some e =>
      let pa := e.pa + (bitsOf va 56 0 - e.va)
      if !permitted e supv write exec then .bad 9
      else if !s.mapped pa || !s.windowOpen pa then .bad 9
      else if !supv && (vaultOf pa).isSome && 8191 * 8192 ≤ pa % 2 ^ 26 then .bad 9
      else .ok pa
    | none =>
      match s.walkFail c unit x asid va write exec with
      | some code => .bad code
      | none => .miss

/-- Translation for a slot of a context: through the core's µTLB, and what has come for the waiting bundle (R194). DESIGN CHOICE:
a bundle keeps the translations that its accesses have waited for until it issues, so that one of more pages than the µTLB
holds does issue (log 102). -/
def State.xslot (s : State) (c x : Nat) (va : BitVec 64) (write : Bool) : Xlate :=
  s.xlate c 0 x (s.asid c x) (s.supv c x) ((s.core c).utlb ++ (s.ctx c x).xl) va write false

/-- A miss goes to the cluster (R329), once. -/
def State.askTlb (s : State) (c unit x asid : Nat) (va : BitVec 64) (write exec : Bool) : State :=
  let m : Miss := ⟨c, unit, x, asid, bitsOf va 56 12, write, exec, false, none, 0, false⟩
  s.modCluster (clusterOf c) fun q => if q.misses.any m.same then q else { q with misses := q.misses ++ [m] }

/-! Stamps of the race detector. -/

/-- The stamp units of bytes [pa, pa + n) of a vault window. -/
def unitsOf (pa n : Nat) : List Nat :=
  let lo := (pa - 0x10000000000) / 64
  (List.range ((pa + n - 1 - 0x10000000000) / 64 + 1 - lo)).map fun i => lo + i

/-- Whether an access by core c to a vault unit is a race (R352). -/
def State.racy (s : State) (c pa n : Nat) : Bool :=
  match vaultOf pa with
  | none => false
  | some v =>
    stackOf v == stackOf c && (unitsOf pa n).any fun u =>
      match s.stamps.find? fun p => p.1 == u with
      | some (_, b, r) => b != c % 24 && newer r (mget 0 (s.core c).seen b)
      | none => false

/-- The stamps after a plain write by core c, whose region was `region` when it issued (R349); 0xFF is no core. -/
def State.stamp (s : State) (c region pa n : Nat) : State :=
  match vaultOf pa with
  | none => s
  | some v =>
    if c < 96 ∧ stackOf v = stackOf c then
      { s with stamps := (unitsOf pa n).foldl (fun m u => mset u (c % 24, region) m) s.stamps }
    else { s with stamps := (unitsOf pa n).foldl (fun m u => mdel u m) s.stamps }

/-- A plain write of bytes as performed at its owner, stamped (R349); one that shut memory refuses changes nothing (R368). -/
def State.store (s : State) (c region pa : Nat) (bs : List (BitVec 8)) : State :=
  if s.shut pa then s else (s.stamp c region pa bs.length).wrBytes pa bs

/-! Messages. -/

/-- Bytes that a message touches. -/
def MsgOp.len : MsgOp → Nat
  | .read n => n
  | .write bs _ => bs.length
  | .atomic _ w _ _ _ => w
  | .vatom _ ty _ => if ty = 9 ∨ ty = 10 then 8 else 4
  | .accum _ => 4
  | .exch => 4
  | .binit _ _ _ _ => 16
  | .barr _ => 16
  | .bwait _ => 16
  | .arrive _ => 16
  | .tapeTop => 8
  | .capture _ _ => 8
  | _ => 0

/-- Whether a message holds others back at a bank, controller or port: it still has to be performed there. A waiter's read that
its unit has registered, the reports that units send, events and contributions do not (R302, R303). -/
def Msg.pends (a : Msg) : Bool :=
  a.st.waiting && (match a.op with
    | .phaseReport _ _ => false
    | .raceReport _ => false
    | .event _ => false
    | .gred _ _ _ _ => false
    | .bwait _ => a.st != .live
    | _ => true)

/-- Whether a message is a copy channel's, whose accesses are not its context's own (R239, R306). -/
def Msg.ofChan (a : Msg) : Bool :=
  (match a.op with
    | .arrive _ => true
    | _ => false) || (match a.dest with
    | .copy _ _ => true
    | _ => false)

/-- Whether two messages touch the same byte. -/
def Msg.meets (a b : Msg) : Bool := canonPa a.pa < canonPa b.pa + b.op.len && canonPa b.pa < canonPa a.pa + a.op.len

/-- Whether message a leaves the order of its core's requests to one owner (R332) to others: a fabric message that has been
sent, which later ones follow (R417); a request that its unit has accepted, whose turn the unit's own order gives (R292); one
that it has refused, which holds back later requests to the unit alone (R293). -/
def Msg.gone (a b : Msg) : Bool :=
  (a.st == .accepted && isFabric a.pa)
    || (a.op.atUnit && (a.seq != 0 || (b.op.atUnit && b.seq != 0) || (!b.op.atUnit && (match a.st with
      | .nacked _ => true
      | _ => false))))

/-- Whether message a must be performed before b: from one core to one owner (R332), from one context to the same bytes
(R198), before a release of its context (R445), before a tape read. -/
def Msg.before (a b : Msg) : Bool :=
  a.pends && a.core == b.core
    && ((ownerOf a.pa == ownerOf b.pa && !a.gone b)
        || (a.x == b.x && !a.ofChan && !b.ofChan
            && ((!(a.st == .accepted && isFabric a.pa) && a.meets b) || b.rel || (a.tape && b.op == .tapeTop))))

/-- The messages that were sent before message m. -/
def State.earlier (s : State) (m : Nat) : List Msg := s.net.filter fun a => a.id < m

/-- The bridge path and class of a message: its ends, and whether it is a reply; none when it stays in one stack (R385). -/
def Msg.bridge (m : Msg) : Option (Nat × Nat × Bool) :=
  let a := if m.core < 96 then stackOf m.core else 4
  let b := match m.op with
    | .event _ => 4
    | .gred _ _ _ _ => a
    | _ => homeStack m.pa
  let back := match m.st, m.op with
    | .replied _ _, _ => true
    | _, .phaseReport _ _ => true
    | _, .raceReport _ => true
    | _, _ => false
  if a = b then none else some (a, b, back)

/-- Whether a bridge port holds a message behind a trimmed packet: its own or an earlier one's of its class and path
(R386). -/
def State.bridgeHeld (s : State) (m : Msg) : Bool :=
  m.bridge.isSome && s.pkg.brgHoles.any fun h =>
    h.1 == m.id || (h.1 < m.id && (match s.msg h.1 with
      | some a => a.bridge == m.bridge
      | none => false))

/-- A message that has reached its destination. -/
def State.arrived (s : State) (m : Nat) : Option Msg := (s.msg m).filter fun a => !s.bridgeHeld a

/-- Whether a unit has accepted another request before message m and not yet performed it (R292, R300). -/
def State.unitBusy (s : State) (m : Msg) : Bool :=
  m.op.atUnit && s.net.any fun a =>
    a.op.atUnit && ownerOf a.pa == ownerOf m.pa && a.seq != 0 && a.seq < m.seq && a.pends

/-- Whether message a stands at its owner behind an earlier unit request of its context to its bytes (R198): what the core's
other context sends to that owner does not wait for it. -/
def State.parked (s : State) (a : Msg) : Bool :=
  (s.earlier a.id).any fun u => u.op.atUnit && u.pends && u.core == a.core && u.x == a.x && u.meets a

/-- Whether an access of one of the contexts that message m follows has still to be performed (R114). -/
def State.behindAfter (s : State) (m : Msg) : Bool :=
  !m.after.isEmpty && (s.earlier m.id).any fun a => a.pends && !a.ofChan && m.after.contains (a.core, a.x)

/-- Whether message m may be performed now; a release waits for its context's race reports as well (R353). -/
def State.eligible (s : State) (m : Msg) : Bool :=
  (!(s.earlier m.id).any fun a => a.before m && (a.x == m.x || !s.parked a)) && !s.bridgeHeld m && !s.unitBusy m
    && !s.behindAfter m
    && !(m.rel && s.net.any fun a => a.core == m.core && a.x == m.x && (match a.op with
      | .raceReport _ => true
      | _ => false))

/-- The answer to a message is on its way, behind every earlier answer (R362). -/
def State.reply (s : State) (m : Nat) (v : BitVec 2048) (mk : Option Mark) : State :=
  { s.modMsg m fun a => { a with st := .replied v mk, seq := s.nextId } with nextId := s.nextId + 1 }

/-- Whether a message is an answer or a report of a unit to a core: the reply class of R362. -/
def Msg.isReply (a : Msg) : Bool :=
  (match a.op with
    | .phaseReport _ _ => true
    | .raceReport _ => true
    | _ => false) || (match a.st with
    | .replied _ _ => true
    | _ => false)

/-- Whether an earlier answer of the same bank, controller or unit to the same core has not arrived (R362, R385). -/
def State.replyBehind (s : State) (m : Msg) : Bool :=
  s.net.any fun a => a.core == m.core && ownerOf a.pa == ownerOf m.pa && a.isReply && m.isReply && a.seq < m.seq

/-- A word taken for the tape goes on to it (R219). -/
def State.captured (s : State) (m : Nat) (old : Nat) (bad : Bool) : State :=
  (s.dropMsg m).modMsg (m + 1) fun a => { a with op := .write (toBytes old 8) bad, st := .live }

/-- The race report of a write (R353): it names the unit's pointer. -/
def Msg.report (m : Msg) : Msg :=
  { m with op := .raceReport (m.va &&& ~~~63), dest := .none, st := .live, rel := false, tape := false }

/-- A report on its way, behind every earlier answer. -/
def State.sendReport (s : State) (m : Msg) : State := s.send { m.report with seq := s.nextId }

/-- What a race of a write comes to: a report to its context (R353), or a halt of its copy channel (R240). -/
def State.tellRace (s : State) (m : Msg) : State :=
  match m.dest with
  | .copy ch _ => s.setChan m.core ch { s.chan m.core ch with lost := some (0x0B, 1, m.va) }
  | _ => s.sendReport m

/-- A plain write performed at its owner: a race is counted and reported; its bytes are not written unless it is tape traffic
(R352, R353). -/
def State.writeAt (s : State) (m : Msg) (pa : Nat) (bs : List (BitVec 8)) (bad : Bool) : State :=
  let race := s.racy m.core pa bs.length
  let s1 := if race then (s.countRace m.core).tellRace m else s
  if race ∧ !m.tape then s1
  else
    let s2 := s1.store m.core m.region pa bs
    if bad && !s.shut pa then s2.setPoison pa bs.length else s2

/-! The tape (R216, R220). -/

/-- The sizes R216 lists. -/
def tapeLegal (z : Nat) : Bool := z == 0 || (4096 ≤ z && z ≤ 2 ^ 25 && z == 2 ^ z.log2)

/-- Bytes the tape holds (R216). -/
def Ctx.tapeUsed (k : Ctx) : Nat := (k.tapeTop - k.tapeFloor).toNat

/-- TAPE.PTR as a register (R216). -/
def Ctx.tapePtr (k : Ctx) : BitVec 64 := k.tapeFloor ++ k.tapeTop

/-- The address of tape count t in the own vault (R216). -/
def Ctx.tapePa (k : Ctx) (c t : Nat) : Nat :=
  vaultPa c (vpLin k.tapeBase + (if k.tapeSize = 0 then t else t % k.tapeSize.toNat))

/-- The 8-byte words at the top of the tape: markers skipped, payload units and header of the entry, or none when the tape
does not hold a whole entry (R223). -/
def tapeEntry (s : State) (k : Ctx) (c : Nat) : Nat → Nat → Option (Nat × Nat × Nat)
  | 0, _ => none
  | fuel + 1, skipped =>
    if k.tapeUsed < 8 * (skipped + 1) then none
    else
      let h := s.rd (k.tapePa c ((k.tapeTop - BitVec.ofNat 32 (8 * (skipped + 1))).toNat)) 8
      let len := h / 2 ^ 58
      if len = 0 then tapeEntry s k c fuel (skipped + 1)
      else if k.tapeUsed < 8 * (skipped + len + 1) then none
      else some (skipped, len, h)

/-- The entry a reverse DST pops. -/
def Ctx.tapeTopEntry (k : Ctx) (s : State) (c : Nat) : Option (Nat × Nat × Nat) :=
  if tapeLegal k.tapeSize.toNat then tapeEntry s k c (k.tapeUsed / 8) 0 else none

/-- The read of a tape's top entry meets the errors of its words (R223, R377). -/
def State.tapeMeets (s : State) (c x : Nat) : State :=
  if s.latent.isEmpty then s
  else
    let k := s.ctx c x
    let n := match k.tapeTopEntry s c with | some (sk, len, _) => sk + len + 1 | none => 1
    s.meetAll ((List.range n).map fun i => (k.tapePa c ((k.tapeTop - BitVec.ofNat 32 (8 * (i + 1))).toNat), 8))

/-! Reads and writes performed. -/

/-- A read or write of memory performed at its owner (R346, R352, R353, R377). An acquire takes effect before its own read is
judged (R209, R351). The race of a copy channel's read is counted when it halts its channel (R240). -/
def State.performHere (s : State) (m : Msg) : State :=
  match m.op with
  | .read n =>
    let s1 := (if m.acq then s.acquireAll m.core else s).meet m.pa n
    let race := s1.racy m.core m.pa n
    let s2 := if race && !m.ofChan then s1.countRace m.core else s1
    let mk : Option Mark :=
      if s.poisoned m.pa n then some ⟨0x10, m.va⟩ else if race then some ⟨0x0B, m.va⟩ else none
    s2.reply m.id (BitVec.ofNat 2048 (s.rd m.pa n)) mk
  | .tapeTop => (s.tapeMeets m.core m.x).reply m.id 0 none
  | .write bs bad => (s.dropMsg m.id).writeAt m m.pa bs bad
  | .capture off bs =>
    let s1 := s.meet m.pa 8
    (s1.captured m.id (s1.rd m.pa 8) (s1.poisoned m.pa 8)).writeAt m (m.pa + off) bs m.rot
  | _ => s

/-- Whether the customer's package refuses an access, which is free (R447, log 87). -/
def State.refuses (s : State) (pa : Nat) : Bool × State :=
  if s.customer pa then
    let (n, t) := s.pick 2
    (n == 0, t)
  else (false, s)

/-- A read or write that the customer's package serves from its memory or refuses: a refused read completes poisoned, a refused
write is dropped (R447). -/
def State.performCustomer (s : State) (m : Msg) : State :=
  let (no, t) := s.refuses m.pa
  if !no then t.performHere m
  else match m.op with
    | .write _ _ => t.dropMsg m.id
    | .capture _ _ => t.captured m.id 0 true
    | _ => t.reply m.id 0 (some ⟨0x10, m.va⟩)

/-- A read or write of memory; registers and fabric windows have steps of their own. -/
def State.performRw (s : State) (m : Msg) : State :=
  if s.customer m.pa then s.performCustomer m
  else if isReg m.pa || isFabric m.pa then s
  else s.performHere m

/-! CXL windows. -/

/-- The FCODE of a copy channel whose read or write through a window fails: LINK, PERM of a refusal, TIMEOUT, FULL (R246). -/
def copyCode (why : Nat) : Nat := if why = 1 then 0x81 else if why = 2 then 9 else if why = 3 then 0x83 else 0x82

/-- A read or write of a copy channel fails, which halts the channel (R242, R246). -/
def State.loseCopy (s : State) (m : Msg) (ch why : Nat) : State :=
  let side := match m.op with | .write _ _ => 1 | _ => 0
  (s.dropMsg m.id).setChan m.core ch { s.chan m.core ch with lost := some (copyCode why, side, m.va) }

/-- A plain store that is dropped: counted, with its event (R415, R443). -/
def State.dropPosted (s : State) (m : Msg) (why : Nat) : State :=
  let s1 := (s.dropMsg m.id).modPkg fun p => { p with sdrop := p.sdrop + 1 }
  s1.post ⟨0x44, 0, m.core, s.ctxFlags m.core m.x, BitVec.ofNat 64 m.pa,
    BitVec.ofNat 64 (if isCxl m.pa then cxlGroup m.pa else fabRank m.pa), BitVec.ofNat 64 why, none⟩

/-- A write that is dropped: a copy channel's halts its channel. -/
def State.dropStore (s : State) (m : Msg) (why : Nat) : State :=
  match m.dest with
  | .copy ch _ => s.loseCopy m ch why
  | _ => s.dropPosted m why

/-- A read that gets no data: poison, or a halt of its copy channel (R246, R415). -/
def State.loseRead (s : State) (m : Msg) (why : Nat) : State :=
  match m.dest with
  | .copy ch _ => s.loseCopy m ch why
  | _ => s.reply m.id 0 (some ⟨0x10, m.va⟩)

/-- A capture of a word that cannot be reached (R219, R415): the write is dropped, and the word goes to the tape poisoned. -/
def State.loseCapture (s : State) (m : Msg) (why : Nat) : State :=
  (s.dropStore m why).modMsg (m.id + 1) fun a => { a with op := .write (toBytes 0 8) true, st := .live }

/-- Whether a CXL window takes what has been sent to it: open, or its group still drains (R436). -/
def State.cxlTakes (s : State) (pa : Nat) : Bool :=
  let g := s.group (cxlGroup pa)
  s.windowOpen pa || (isCxl pa && g.pers == 3 && (g.state == 2 || g.state == 3) && cxlOff pa < g.hdm)

/-- A load or store through a CXL window (R415): what cannot be delivered is dropped or poisoned, a write at the window's limit
is dropped (R443), others are performed. -/
def State.performCxl (s : State) (m : Msg) : State :=
  let up := s.cxlTakes m.pa
  match m.op with
  | .write bs _ => if !up then s.dropStore m 1 else if s.cxlFull m.pa bs.length then s.dropStore m 4 else s.performRw m
  | .capture off bs =>
    if !up then s.loseCapture m 1
    else if s.cxlFull (m.pa + off) bs.length then s.loseCapture m 4
    else s.performRw m
  | .read _ => if up then s.performRw m else s.reply m.id 0 (some ⟨0x10, m.va⟩)
  | _ => s.performRw m

/-- Whether a message is an access of a context that has not been performed, or a race report on its way (R353). Its copy
channels' messages are not the context's accesses (R306). -/
def Msg.owed (a : Msg) (c x : Nat) : Bool :=
  a.core == c && a.x == x && (match a.op with
    | .raceReport _ => true
    | .event _ => false
    | .joinWord _ _ _ => false
    | _ => a.st.waiting && !a.ofChan)

/-- Whether a context has such a message. -/
def State.unperformed (s : State) (c x : Nat) : Bool := s.net.any fun a => a.owed c x

/-- The context issues nothing before its accesses on their way are performed: what a fence does about those of its own
bundle (R306, R339). -/
def State.holdOwed (s : State) (c x : Nat) : State :=
  { s with net := s.net.map fun a => if a.owed c x then { a with hold := true } else a }

/-- Whether an acquiring access of the context has not yet returned: later accesses wait for it (R345). -/
def State.acquiring (s : State) (c x : Nat) : Bool := s.net.any fun a => a.core == c && a.x == x && a.acq && a.st.waiting

/-! Requests that a frozen slot has made. -/

/-- The request record of a slot of the context's present bundle. -/
def Ctx.waiting (k : Ctx) (sl : Nat) : Option WaitRec := (k.wait.find? fun p => p.1 == sl).map (·.2)

/-- The answered request of a slot. -/
def Ctx.answered (k : Ctx) (sl : Nat) : Option WaitRec :=
  match k.waiting sl with
  | some w => if w.done then some w else none
  | none => none

/-- A request noted for a slot: `parts` answers are to come. -/
def State.noteWait (s : State) (c x sl parts : Nat) : State :=
  s.modCtx c x fun k => { k with wait := mset sl { id := s.nextId, aux := parts, done := parts == 0 } k.wait }

/-- An answer of n bytes for a slot's request. -/
def Ctx.answer (k : Ctx) (sl off n : Nat) (v : BitVec 2048) (mk : Option Mark) : Ctx :=
  match k.waiting sl with
  | none => k
  | some w =>
    let m := match w.mark with | some a => some a | none => mk
    let bits := v.toNat % 2 ^ (8 * n) * 2 ^ (8 * off)
    let w1 : WaitRec := { w with val := w.val ||| BitVec.ofNat 2048 bits, mark := m, aux := w.aux - 1, done := w.aux ≤ 1 }
    { k with wait := mset sl w1 k.wait }

end Sys2Proof.Machine
end

