-- ==== Sys2Proof/Machine/Atomic.lean ====
section
/-! DEFINITION. The atomic units: acceptance of requests (R292, R293), atomics (R296), vector atomics (R298), barrier
objects (R300 to R304), adjoint cells (R222, R223) and reduction rounds (R307, R308). -/

namespace Sys2Proof.Machine

/-! Atomic operations. -/

/-- The value an atomic writes, if it writes (R296): 0 AADD, 1 AMIN, 2 AMAX, 3 AAND, 4 AOR, 5 AXOR, 6 ASWP, 7 ACAS. -/
def atomicNew (op w : Nat) (old sb cmp : Nat) : Option Nat :=
  let b := sb % 2 ^ w
  match op with
  | 0 => some ((old + b) % 2 ^ w)
  | 1 => some (if sgn w old ≤ sgn w b then old else b)
  | 2 => some (if sgn w old ≤ sgn w b then b else old)
  | 3 => some (old &&& b)
  | 4 => some (old ||| b)
  | 5 => some (old ^^^ b)
  | 6 => some b
  | _ => if old = cmp % 2 ^ w then some b else none

/-- The value that sd receives: sign-extended when W = 0 (R296). -/
def atomicOld (w old : Nat) : BitVec 64 := BitVec.ofInt 64 (if w = 4 then sgn 32 old else (old : Int))

/-! Barrier objects (R300). -/

/-- A barrier object. -/
structure Barrier where
  expect : Nat
  count : Nat
  phase : Bool
  level : Nat
  gen : Nat
deriving DecidableEq, Repr

/-- The object at a physical address. -/
def State.barrier (s : State) (pa : Nat) : Barrier :=
  let v := s.rd pa 16
  { expect := v % 2 ^ 32, count := v / 2 ^ 32 % 2 ^ 32, phase := v / 2 ^ 64 % 2 == 1, level := v / 2 ^ 65 % 8,
    gen := v / 2 ^ 96 % 2 ^ 32 }

/-- Its 128 bits. -/
def Barrier.bits (b : Barrier) : Nat :=
  b.expect + b.count * 2 ^ 32 + (if b.phase then 2 ^ 64 else 0) + b.level * 2 ^ 65 + b.gen * 2 ^ 96

/-- Whether an object is usable. -/
def Barrier.usable (b : Barrier) : Bool := 1 ≤ b.expect && b.count < b.expect

/-- The tags kept for the object at an address (R351). -/
def State.barTag (s : State) (pa : Nat) : BarTags := mget {} s.barTags (canonPa pa)

def State.setBarTag (s : State) (pa : Nat) (t : BarTags) : State := { s with barTags := mset (canonPa pa) t s.barTags }

/-- Whether a waiter of an object stands at its own core's vault through the local port (R189). -/
def Msg.localTo (m : Msg) : Bool := vaultOf m.pa == some m.core

/-- What the record of a waiter's request in slot SY becomes. -/
def State.modWaiter (s : State) (m : Msg) (f : WaitRec → WaitRec) : State :=
  s.modCtx m.core m.x fun k =>
    match k.waiting 7 with
    | some w => if w.id = m.id then { k with wait := mset 7 (f w) k.wait } else k
    | none => k

/-- A local waiter is released: its read lands 8 core cycles later, whatever the divisor then is (R303, R383), and it stays registered until its bundle retires, an
acquire of the phase's releases (R351). -/
def State.freeWaiter (s : State) (m : Msg) (slack : Bool) : State :=
  (s.modMsg m.id fun a => { a with st := .live, tags := (s.barTag m.pa).last }).modWaiter m fun w =>
    { w with done := true, mark := none, aux := (s.core m.core).tick + 8, slack := slack }

/-- A waiter of an object is released: at its own core's vault, or by a report on its way to its core. -/
def State.releaseWaiter (s : State) (m : Msg) (par : Nat) (slack : Bool) : State :=
  if m.localTo then s.freeWaiter m slack
  else
    { s.modMsg m.id fun a =>
        { a with op := .phaseReport par slack, st := .live, tags := (s.barTag m.pa).last, seq := s.nextId } with
      nextId := s.nextId + 1 }

/-- A waiter is registered at the unit, and frozen. -/
def State.holdWaiter (s : State) (m : Msg) (par : Nat) : State :=
  (s.modMsg m.id fun a => { a with op := .bwait par, st := .live, seq := 0 }).modWaiter m fun w => { w with done := false }

/-- A waiter is judged against the phase (R303): one that was about to be released stays frozen when the phase has come back
to its parity (R304). -/
def State.judgeWaiter (s : State) (m : Msg) (slack : Bool) : State :=
  let go (par : Nat) : State :=
    if (s.barrier m.pa).phase != (par == 1) then s.releaseWaiter m par slack else s.holdWaiter m par
  match m.op with
  | .bwait par => go par
  | .phaseReport par _ => if (s.barrier m.pa).phase != (par == 1) then s else go par
  | _ => s

/-- A waiter's first read of its object. At a failed stack it completes, with no result that could be poisoned (R379). DESIGN CHOICE:
where the object holds uncorrectable data the spec gives BWAIT no trap
(R325) and no phase; whether it is released is a free value (log 89). -/
def State.readPhase (s : State) (m : Msg) : State :=
  match m.op with
  | .bwait par =>
    if s.down m.pa then s.releaseWaiter m par false
    else if s.poisoned m.pa 16 then
      let (n, s1) := s.pick 2
      if n = 1 then s1.releaseWaiter m par false else s1.holdWaiter m par
    else s.judgeWaiter m false
  | _ => s

/-- After a change of an object, its registered waiters are judged against the new phase (R301, R304); `slack` says that the
completion came from a fabric channel (R438). -/
def State.judgeWaiters (s : State) (pa : Nat) (slack : Bool) : State :=
  (s.net.filter fun a => a.st == .live && canonPa a.pa == canonPa pa).foldl (fun t a => t.judgeWaiter a slack) s

/-- An arrival (R302): the parity it leaves behind. -/
def State.arriveAt (s : State) (pa : Nat) (tags : List (Nat × Nat)) (slack : Bool) : Bool × State :=
  let b := s.barrier pa
  let t := s.barTag pa
  if b.count + 1 = b.expect then
    let b1 : Barrier := { b with count := 0, phase := !b.phase, gen := (b.gen + 1) % 2 ^ 32 }
    (b.phase, ((s.wr pa 16 b1.bits).setBarTag pa { cur := [], last := t.cur ++ tags }).judgeWaiters pa slack)
  else
    let b1 : Barrier := { b with count := (b.count + 1) % 2 ^ 32 }
    (b.phase, (s.wr pa 16 b1.bits).setBarTag pa { t with cur := t.cur ++ tags })

/-! A unit performs a request. -/

/-- What a unit does with an atomic or barrier request (R296, R301, R302): the value returned, its mark, and the state.
An operation that reads uncorrectable data writes nothing (R297); BINIT reads nothing and writes
the whole object (R301). Memory changes without a stamp (R349). -/
def unitDo (s : State) (m : Msg) : BitVec 64 × Option Mark × State :=
  let s0 := if m.acq then s.acquireAll m.core else s
  let whole := match m.op with | .binit _ _ _ _ => true | _ => false
  if !whole && s.poisoned m.pa m.op.len then (0, some ⟨0x10, m.va⟩, s0)
  else
    match m.op with
    | .atomic op w sb cmp _ =>
      let old := s.rd m.pa w
      let s1 := match atomicNew op (8 * w) old sb.toNat cmp.toNat with
        | some n => s0.wr m.pa w n
        | none => s0
      (atomicOld w old, none, s1)
    | .binit expect lvl bad _ =>
      if bad then (1, none, s0)
      else
        let b : Barrier := { expect := expect, count := 0, phase := false, level := lvl, gen := 0 }
        (0, none, ((s0.wr m.pa 16 b.bits).setBarTag m.pa { cur := [], last := m.tags }).judgeWaiters m.pa false)
    | .barr _ =>
      let (p, s1) := s0.arriveAt m.pa m.tags false
      (if p then 1 else 0, none, s1)
    | .arrive ch =>
      let (p, s1) := s0.arriveAt m.pa m.tags ((mget {} (s.core m.core).chans ch).dsp == 2)
      (if p then 1 else 0, none, s1)
    | _ => (0, none, s0)

/-- Whether a request is posted: nothing returns (R297). -/
def MsgOp.posted (op : MsgOp) : Bool :=
  match op with
  | .atomic _ _ _ _ p => p
  | .binit _ _ _ p => p
  | .barr p => p
  | _ => true

/-- The machine check of a posted atomic that met uncorrectable data (R297, R399). -/
def State.atomicCheck (s : State) (m : Msg) : State :=
  s.mcheck (stackOf m.core) m.core (s.ctxFlags m.core m.x) (ueMem m.pa) 5

/-- A live request is performed at its unit, and answered unless it is posted. One that the customer's package refuses (R447), or
whose operand is uncorrectable (R377), changes nothing and returns poisoned. -/
def State.performUnit (s0 : State) (m : Msg) : State :=
  let (no, s) := (s0.meet m.pa m.op.len).refuses m.pa
  let (v, mark, s1) := if no || m.rot then (0, some ⟨0x10, m.va⟩, s) else unitDo s m
  if m.op.posted then
    let s2 := s1.dropMsg m.id
    if mark.isSome then s2.atomicCheck m else s2
  else s1.reply m.id (v.setWidth 2048) mark

/-! Acceptance (R292, R293). -/

/-- The requester of a message: a context, or a copy channel for its arrival. -/
def Msg.requester (m : Msg) : Nat :=
  match m.op with
  | .arrive ch => 192 + 4 * m.core + ch
  | _ => 2 * m.core + m.x

/-- Acceptance of a request into its unit's buffer: whether it is accepted. -/
def State.offer (s : State) (m : Msg) : Bool × State :=
  let u := ownerOf m.pa
  let r := m.requester
  let a := s.unit u
  if a.resv.any fun p => p.1 == r then
    (true, s.setUnit u { order := a.order.filter (· != r), resv := a.resv.filter fun p => p.1 != r })
  else if !a.order.isEmpty || unitCap u ≤ s.unitUsed u + a.resv.length then
    let s1 := s.setUnit u { a with order := if a.order.contains r then a.order else a.order ++ [r] }
    let s2 := s1.modCore m.core fun k => { k with atomNack := (k.atomNack + 1) % 2 ^ 64 }
    (false, s2.modMsg m.id fun b => { b with st := .nacked (s.now + unitRetry u) })
  else (true, s)

/-- Whether a request may not be accepted yet: an earlier one of its core to its bank is not yet accepted or performed (R293,
R332), or it is a release and an earlier access of its context is not yet performed (R342). -/
def State.heldBack (s : State) (m : Msg) : Bool :=
  (s.earlier m.id).any fun a =>
    a.pends && a.core == m.core
      && ((ownerOf a.pa == ownerOf m.pa && !(a.op.atUnit && a.seq != 0)) || (m.rel && a.x == m.x && !a.ofChan && !m.ofChan))

/-- A request is accepted into its unit's buffer, behind those accepted before it (R292). -/
def State.accept (s : State) (m : Msg) (st : MsgSt) : State :=
  { s.modMsg m.id fun a => { a with st := st, seq := s.nextId } with nextId := s.nextId + 1 }

/-- The bundle that waits for its request's acceptance learns of it; code 9 is the trap of an unusable object (R300). -/
def State.tellAccepted (s : State) (m : Msg) (code : Nat) : State :=
  s.modWaiter m fun w => { w with done := true, mark := if code = 0 then none else some ⟨code, m.va⟩ }

/-! Vector atomics (R298). -/

/-- One element: the new value of its cell, and the flags of the addition (R34, R45). -/
def vatomNew (op ty : Nat) (old v : Nat) : Nat × Flags :=
  let w := if ty = 9 ∨ ty = 10 then 64 else 32
  if op = 1 then (old ||| v, 0)
  else if ty = 0 then
    let r := fAdd Fmt.f32 0 (Fmt.f32.dec old) (Fmt.f32.dec v)
    (r.bits, r.fl)
  else ((old + v) % 2 ^ w, 0)

/-- An accepted element applied at its unit. -/
def State.performVatom (s0 : State) (m : Msg) : State :=
  match m.op with
  | .vatom op ty v =>
    let n := m.op.len
    let s := s0.meet m.pa n
    let (no, s1) := (s.dropMsg m.id).refuses m.pa
    if no then s1
    else if m.rot || s.poisoned m.pa n then s1.atomicCheck m
    else
      let (r, fl) := vatomNew op ty (s.rd m.pa n) (v.toNat % 2 ^ (8 * n))
      (s1.wr m.pa n r).setFlags m.core m.x fl
  | _ => s0

/-! Reduction rounds (R307, R308). -/

/-- The operation of a round. -/
def gredOp (op : Nat) (uns : Bool) (a b : BitVec 64) : BitVec 64 :=
  match op with
  | 0 => a ||| b
  | 1 => a &&& b
  | 2 => a + b
  | 3 => if uns then (if a.toNat ≤ b.toNat then a else b) else (if a.toInt ≤ b.toInt then a else b)
  | _ => if uns then (if a.toNat ≤ b.toNat then b else a) else (if a.toInt ≤ b.toInt then b else a)

/-- The result of a round: the op of the member with the lowest gang index, over every contribution. -/
def roundResult (ps : List GPart) : BitVec 64 :=
  match ps with
  | [] => 0
  | p :: t =>
    let lo := t.foldl (fun a b => if b.idx < a.idx then b else a) p
    t.foldl (fun v b => gredOp lo.op lo.uns v b.val) p.val

/-- The result to every member, as an acquire of every member's release (R308, R351), with the nominal latency; whether the
freeze counts as slack is the last contributor's (R438). -/
def State.endRound (s : State) (ps : List GPart) (lat : Nat) (slack : Bool) : State :=
  let v := roundResult ps
  let tags := ps.flatMap (·.tags)
  ps.foldl (fun t p =>
    (t.acquireTags p.core tags).modCtx p.core p.x fun k =>
      { k with gred := k.gred.map fun (w : WaitRec) =>
          { w with done := true, val := v.setWidth 2048, aux := (s.core p.core).tick + lat, slack := slack } }) s

/-- A contribution counted (R307), one of each member: the rounds that remain, and the contributions of the round if it is
complete. -/
def addPart (rs : List Round) (l level group size : Nat) (p : GPart) : List Round × Option (List GPart) :=
  let same (r : Round) : Bool := r.launch == l && r.level == level && r.group == group
  let ps := (match rs.find? same with
    | some r => r.parts.filter fun q => q.idx != p.idx
    | none => []) ++ [p]
  let rest := rs.filter fun r => !same r
  if size ≤ ps.length then (rest, some ps) else (⟨l, level, group, ps⟩ :: rest, none)

/-- A contribution arrives at the reduction unit of its cluster when the group lies within one, else of its stack. -/
def State.performGred (s : State) (m : Msg) : State :=
  match m.op, (s.ctx m.core m.x).strand with
  | .gred op level uns v, some st =>
    let h := s.hdrOf st
    let p : GPart := { core := m.core, x := m.x, idx := h.index st.wid.toNat h.glev, val := v, op := op, uns := uns,
                       tags := m.tags }
    let size := h.groupSize level
    let group := h.groupKey st.wid.toNat level
    let slack := (s.ctx m.core m.x).slackWait
    let s1 := s.dropMsg m.id
    if level ≤ h.clev then
      let q := clusterOf m.core
      let (rs, done) := addPart (s1.cluster q).rounds st.launch level group size p
      let s2 := s1.modCluster q fun k => { k with rounds := rs }
      match done with
      | some ps => s2.endRound ps 40 slack
      | none => s2
    else
      let t := stackOf m.core
      let (rs, done) := addPart (s1.stk t).rounds st.launch level group size p
      let s2 := s1.modStk t fun k => { k with rounds := rs }
      match done with
      | some ps => s2.endRound ps 120 slack
      | none => s2
  | _, _ => s.dropMsg m.id

/-! Adjoint cells. -/

/-- A reverse-mode add into an adjoint cell (R45, R222): never fails, rounds to nearest, raises the flags of the
addition (R28, R31), and a sum that is non-finite is noted in the sender's NFS (R46). -/
def State.performAccum (s0 : State) (m : Msg) : State :=
  match m.op with
  | .accum v =>
    let s := s0.meet m.pa 4
    let (no, s1) := (s.dropMsg m.id).refuses m.pa
    if no then s1
    else if m.rot || s.poisoned m.pa 4 then s1.atomicCheck m
    else
      let old := s.rd m.pa 4
      let r := fAdd Fmt.f32 0 (Fmt.f32.dec old) (Fmt.f32.dec v.toNat)
      let s2 := (s1.wr m.pa 4 r.bits).setFlags m.core m.x r.fl
      if !(Fmt.f32.dec r.bits).isFinite then s2.setNfs m.core m.x Nfs.crev else s2
  | _ => s0

/-- The exchange of an adjoint cell with +0 (R223). -/
def State.performExch (s0 : State) (m : Msg) : State :=
  let (no, s) := (s0.meet m.pa 4).refuses m.pa
  if no || s.poisoned m.pa 4 then s.reply m.id 0 (some ⟨0x10, m.va⟩)
  else (s.wr m.pa 4 0).reply m.id (BitVec.ofNat 2048 (s.rd m.pa 4)) none

end Sys2Proof.Machine
end

