-- ==== Sys2Proof/Machine/Access.lean ====
section
/-! DEFINITION. What every load and store shares (R197 to R212): the order of a context's accesses to the same bytes (R198), the
traps and freezes of an access, its local units, and its reads and writes. -/

namespace Sys2Proof.Machine

/-! Order among a context's own accesses. -/

/-- A request that needs nothing more from its bundle is performed at its bank or controller; one to a register or through a
fabric window is not. -/
def State.performAny (s : State) (m : Msg) : State :=
  match m.op, m.st with
  | .accum _, _ => s.performAccum m
  | .exch, .live => s.performExch m
  | .vatom _ _ _, .live => s.performVatom m
  | .atomic _ _ _ _ _, .live => s.performUnit m
  | .binit _ _ _ _, .live => s.performUnit m
  | .barr _, .live => s.performUnit m
  | .read _, .live | .write _ _, .live | .tapeTop, .live | .capture _ _, .live =>
    if isCxl m.pa && !s.customer m.pa then s.performCxl m else s.performRw m
  | _, _ => s

/-- The request that a unit performs next of those it has accepted (R292). -/
def State.nextAt (s : State) (u : Nat) : Option Msg :=
  (s.net.filter fun a => a.op.atUnit && ownerOf a.pa == u && a.seq != 0 && a.pends).foldl
    (fun b a => match b with
      | some m => if a.seq < m.seq then some a else b
      | none => some a) none

/-- What a unit has accepted is performed in order, up to the first request that still waits for its bundle or for an earlier
access; the entries that fall free are reserved (R292, R293). -/
def State.drainUnit (s : State) (u : Nat) : Nat → State
  | 0 => s
  | fuel + 1 =>
    match s.nextAt u with
    | some m => if m.st == .live && s.eligible m then ((s.performAny m).reserve u).drainUnit u fuel else s
    | none => s

/-- A request of a context is performed at once when nothing must precede it; one that its unit has accepted with those before
it. -/
def State.performNow (s : State) (m : Msg) : State :=
  if m.op.atUnit then (if m.seq = 0 then s else s.drainUnit (ownerOf m.pa) s.net.length)
  else if s.eligible m then s.performAny m else s

/-- An own request of a context to n bytes that has yet to be performed (R198). -/
def ownAt (c x pa n : Nat) (a : Msg) : Bool :=
  a.core == c && a.x == x && a.pends && !a.open && !a.ofChan && canonPa a.pa < canonPa pa + n && canonPa pa < canonPa a.pa + a.op.len

/-- A context's earlier messages to n bytes are performed before an access, with those that must precede them (R198): every
earlier request of the core whose bundle has retired, in order, up to the last one that overlaps. -/
def State.drainOwn (s : State) (c x pa n : Nat) : State :=
  match (s.net.filter (ownAt c x pa n)).getLast? with
  | none => s
  | some last =>
    ((s.net.filter fun a => a.core == c && a.pends && !a.open && a.id ≤ last.id).map (·.id)).foldl
      (fun t i => match t.msg i with
        | some a => t.performNow a
        | none => t) s

/-! What every access of a slot shares. -/

/-- An access of a slot: whether it names vault pointers, its pieces, whether it writes, whether it is a plain access that
R224 keeps from primal ranges, and whether it is indexed (its DMODEACC is then raised before retirement). -/
structure Acc where
  vault : Bool
  ps : List Piece
  write : Bool
  plain : Bool
  late : Bool
  c : Nat
  x : Nat

/-- The issue-time traps of a vault access (R188, R190, R191, R224): of its base, of an element's alignment, of row 8,191,
and of a primal range. -/
def Acc.trap (a : Acc) (s : State) (base : BitVec 64) (align : Nat) : Option (Nat × BitVec 64) :=
  if a.vault then
    if s.badVp a.c base then some (9, base)
    else
      match a.ps.find? fun p => p.off % align = 0 && p.ea.toNat % align != 0 with
      | some p => some (7, p.ea)
      | none =>
        match a.ps.find? fun p => !s.supv a.c a.x && 8191 * 8192 ≤ vpLin p.ea with
        | some p => some (9, p.ea)
        | none =>
          if a.plain && !a.late then
            (a.ps.findSome? (s.primalHit a.c a.x true)).map fun ad => (0x0D, ad)
          else none
  else if a.plain && !a.late then
    (a.ps.findSome? (s.primalHit a.c a.x false)).map fun ad => (0x0D, ad)
  else none

/-- The physical address of a piece of a vault access. -/
def vaultPiecePa (c : Nat) (p : Piece) : Nat := vaultPa (vaultNum c p.ea) (vpLin p.ea)

/-- Whether a vault access is local (R189). -/
def Acc.isLocal (a : Acc) : Bool := a.vault && a.ps.all fun p => vaultNum a.c p.ea == a.c

/-- Own earlier messages to the bytes of a local access are performed first (R198). -/
def Acc.drain (a : Acc) (s : State) : State := a.ps.foldl (fun t p => t.drainOwn a.c a.x (vaultPiecePa a.c p) p.n) s

/-- Whether an own earlier message to the bytes of a local access cannot be performed at once: one that its unit has refused,
or one that waits for the CXL or fabric word which it takes to the tape (R219, R293). -/
def Acc.behind (a : Acc) (s : State) : Bool :=
  a.isLocal && a.ps.any fun p => (a.drain s).net.any (ownAt a.c a.x (vaultPiecePa a.c p) p.n)

/-- The freezes of an access before it issues: the scoreboard (R201), an acquire not yet returned, translation (R194),
and admission to the core's outbound request queue (R195). DESIGN CHOICE: a local access behind an own message to its bytes
that cannot be performed at once waits in FRZ.LAND, a freeze that the spec does not name (log 101). -/
def Acc.wait (a : Acc) (s : State) : Option (Frz × (State → State)) :=
  if a.vault then
    if a.ps.any (s.scoreVault a.c) then some (.scor, id)
    else if s.acquiring a.c a.x || (!a.isLocal && (s.core a.c).outFull) || a.behind s then some (.land, id)
    else none
  else if a.ps.any (s.scoreGlobal a.c (s.asid a.c a.x)) then some (.scor, id)
  else if s.acquiring a.c a.x then some (.land, id)
  else
    let ms := a.ps.filter fun p => s.xslot a.c a.x p.ea a.write == .miss
    if ms.isEmpty then (if (s.core a.c).outFull then some (.land, id) else none)
    else some (.land, fun t => ms.foldl (fun t p => t.askTlb a.c 0 a.x (s.asid a.c a.x) p.ea a.write false) t)

/-- The traps of an access known before retirement (R194, R224): the first faulting piece's. DESIGN CHOICE: of a fault of
translation or permission and the primal overlap of another element of an indexed access, both raised before retirement, the
fault is recorded (log 103). -/
def Acc.lateTrap (a : Acc) (s : State) : Option (Nat × BitVec 64) :=
  let early := a.ps.findSome? fun p =>
    if a.vault then none
    else match s.xslot a.c a.x p.ea a.write with
      | .bad code => some (code, p.ea)
      | .ok pa => if a.write && s.cxlFull pa p.n then some (9, p.ea) else none
      | .miss => none
  match early with
  | some t => some t
  | none =>
    if a.plain && a.late then (a.ps.findSome? (s.primalHit a.c a.x a.vault)).map fun ad => (0x0D, ad) else none

/-- The first faulting element of an indexed access of b-byte elements, by its element's address (R208). -/
def Acc.elemTrap (a : Acc) (s : State) (b : Nat) : Option (Nat × BitVec 64) :=
  if a.vault then none
  else a.ps.findSome? fun p =>
    match s.xslot a.c a.x p.ea a.write with
    | .bad code => some (code, p.ea - BitVec.ofNat 64 (p.off % b))
    | _ => none

/-- The physical address of a piece whose translation is held. -/
def Acc.pa (a : Acc) (s : State) (p : Piece) : Nat :=
  if a.vault then vaultPiecePa a.c p
  else match s.xslot a.c a.x p.ea a.write with
    | .ok pa => pa
    | _ => 0

/-- The trap of an atomic access to an address without an atomic unit: one that is in no vault and no HBM (R292). -/
def Acc.unitless (a : Acc) (s : State) : Option (Nat × BitVec 64) :=
  if a.vault then none
  else (a.ps.find? fun p => (vaultOf (a.pa s p)).isNone && !isHbm (a.pa s p)).map fun p => (9, p.ea)

/-- The local units of an access with their pointers (R192): elements in one unit count once. -/
def Acc.units (a : Acc) : List (Nat × BitVec 64) :=
  if a.isLocal then
    (a.ps.foldl (fun (l : List (Nat × BitVec 64)) p =>
      if l.any fun u => u.1 == vpLin p.ea / 64 then l else (vpLin p.ea / 64, p.ea) :: l) []).reverse
  else []

/-- A message of a context for one piece. -/
def State.request (s : State) (a : Acc) (p : Piece) (pa : Nat) (op : MsgOp) (dest : Dest) (rel acq : Bool) : State :=
  s.send { id := 0, core := a.c, x := a.x, pa := pa, va := p.ea, op := op, dest := dest, st := .live,
           region := (s.core a.c).rgCur, rel := rel, acq := acq }

/-- The parts of a global access with their physical addresses. Neighbours in one 512-byte block of a fabric window travel
as one message (R416). -/
def Acc.wire (a : Acc) (s : State) : List (Piece × Nat) :=
  a.ps.foldl (fun l p =>
    let pa := a.pa s p
    match l.getLast? with
    | some (q, qa) =>
      if isFabric pa && qa + q.n == pa && q.off + q.n == p.off && qa / 512 == pa / 512 then
        l.dropLast ++ [({ q with n := q.n + p.n }, qa)]
      else l ++ [(p, pa)]
    | none => [(p, pa)]) []

/-- Bytes of a piece taken from the data of the access. -/
def Piece.bytes (p : Piece) (v : BitVec 2048) : List (BitVec 8) := toBytes (v.toNat / 2 ^ (8 * p.off)) p.n

/-- The data of local pieces as they stand. -/
def localData (s : State) (a : Acc) : BitVec 2048 :=
  a.ps.foldl (fun v p => v ||| BitVec.ofNat 2048 (s.rd (vaultPiecePa a.c p) p.n * 2 ^ (8 * p.off))) 0

/-- The mark of local data: poison before a race (R145, R353), at the first such piece. -/
def localMark (s : State) (a : Acc) : Option Mark :=
  a.ps.findSome? fun p =>
    let pa := vaultPiecePa a.c p
    if s.poisoned pa p.n then some ⟨0x10, p.ea⟩ else if s.racy a.c pa p.n then some ⟨0x0B, p.ea⟩ else none

/-- A local read meets the errors of its words (R377). -/
def Acc.meets (a : Acc) (s : State) : State := a.ps.foldl (fun t p => t.meet (vaultPiecePa a.c p) p.n) s

/-- A read into landing slot la with arrival distance d (R141, R197): local data land 8 cycles after issue. -/
def Acc.load (a : Acc) (s0 : State) (la d : Nat) (acq : Bool) (s : State) : State :=
  let (rid, s1) := s.fresh
  let k := s1.ctx a.c a.x
  if a.isLocal then
    let s2 := a.meets (a.drain s1)
    let mk := localMark s2 a
    let s3 := if a.ps.any (fun p => s2.racy a.c (vaultPiecePa a.c p) p.n) then s2.countRace a.c else s2
    s3.modCtx a.c a.x fun k =>
      { k with la := mset la { st := .pending, arr := k.cyc + d, data := localData s2 a, rid := rid, need := 0,
                               due := some (k.cyc + 8, (s.core a.c).tick + 8), mark := mk } k.la }
  else
    let ws := a.wire s0
    let s2 := s1.setCtx a.c a.x
      { k with la := mset la { st := if ws.isEmpty then .full else .pending, arr := k.cyc + d, rid := rid,
                               need := ws.length } k.la }
    ws.foldl (fun t p => t.request a p.1 p.2 (.read p.1.n) (.la la rid p.1.off) false acq) s2

/-- A store of the data of an access (R211, R212). -/
def Acc.put (a : Acc) (s0 : State) (v : BitVec 2048) (rel : Bool) (s : State) : State :=
  if a.isLocal then
    a.ps.foldl (fun t p => t.store a.c (t.core a.c).rgCur (vaultPiecePa a.c p) (p.bytes v)) (a.drain s)
  else (a.wire s0).foldl (fun t p => t.request a p.1 p.2 (.write (p.1.bytes v) false) .none rel false) s

/-- A local store judged a race traps at issue (R353). -/
def Acc.raceTrap (a : Acc) (s : State) : Option (Nat × BitVec 64) :=
  if a.isLocal && a.write then
    (a.ps.find? fun p => s.racy a.c (vaultPiecePa a.c p) p.n).map fun p => (0x0B, p.ea)
  else none

/-- What the access of a slot brings to its bundle, with what its address registers hold so far (R76, R140): while one of
them has a result pending, the trap of a known base alone, and no freeze and no unit. `addr` begins with the base. -/
def Acc.sem (a : Acc) (s : State) (addr : List RegName) (base : BitVec 64) (align : Nat) : Sem :=
  let k := s.ctx a.c a.x
  let known := k.landed addr
  { reads := addr
    gate := []
    trap := if known then a.trap s base align
      else if k.landed (addr.take 1) && a.vault && s.badVp a.c base then some (9, base) else none
    units := if known then a.units else []
    wait := if known then a.wait s else none
    late := a.lateTrap s }

/-- The first of two optional traps. -/
def orTrap (a b : Option (Nat × BitVec 64)) : Option (Nat × BitVec 64) := match a with | some t => some t | none => b

end Sys2Proof.Machine
end

