-- ==== Sys2Proof/Machine/Load.lean ====
section
/-! DEFINITION. The instructions of slot LD but DLD (R197, R203 to R210). -/

namespace Sys2Proof.Machine

/-- A read into a landing slot: its registers, base and element alignment, and a trap of its own before retirement. -/
def loadSem (a : Acc) (s : State) (regs : List RegName) (base : BitVec 64) (align la d : Nat) (acq : Bool)
    (own : Option (Nat × BitVec 64)) : Sem :=
  { a.sem s regs base align with
    writes := [.la la]
    late := orTrap own (a.lateTrap s)
    eff := fun t => a.load s la d acq t }

/-- The global access of the landing form (R193, R206). -/
def ldGlobal (o : OpLd) (s : State) (c x : Nat) (acq : Bool) : Sem :=
  let k := s.ctx c x
  let ea := globalEA (k.rs o.base) (k.rs o.idx) o.off
  let b := sizeBytes o.size.toNat
  let a : Acc := ⟨false, pieces ea 0 b, false, true, false, c, x⟩
  loadSem a s [.s o.base.toNat, .s o.idx.toNat] 0 1 o.la.toNat o.dist.toNat acq
    (if acq && ea.toNat % b != 0 then some (9, ea) else none)

def semLdg (o : OpLd) (s : State) (c x : Nat) : Sem := ldGlobal o s c x false
def semLdgv (o : OpLd) (s : State) (c x : Nat) : Sem := ldGlobal o s c x false
def semLda (o : OpLd) (s : State) (c x : Nat) : Sem := ldGlobal o s c x true

/-- Bank and row of a vault form's offset field (R54). -/
def offBank (off : BitVec 20) : Nat := bitsOf off 19 13
def offRow (off : BitVec 20) : Nat := bitsOf off 12 0

/-- The vault access of the landing form (R188, R206). -/
def ldVault (o : OpLd) (s : State) (c x : Nat) : Sem :=
  let k := s.ctx c x
  let b := sizeBytes o.size.toNat
  let ea := vaultEA (k.rs o.base) (k.rs o.idx) (offBank o.off) (offRow o.off)
  let a : Acc := ⟨true, pieces ea 0 b, false, true, false, c, x⟩
  loadSem a s [.s o.base.toNat, .s o.idx.toNat] (k.rs o.base) b o.la.toNat o.dist.toNat false none

def semLdv (o : OpLd) (s : State) (c x : Nat) : Sem := ldVault o s c x
def semLdvv (o : OpLd) (s : State) (c x : Nat) : Sem := ldVault o s c x

/-- The elements of a strided access (R207). -/
def stridedPieces (base stride : BitVec 64) (off : BitVec 20) (b : Nat) : List Piece :=
  (List.range (256 / b)).map fun i =>
    ⟨vaultEA base (BitVec.ofNat 64 i * stride) (offBank off) (offRow off), b, b * i⟩

def semLdvs (o : OpLd) (s : State) (c x : Nat) : Sem :=
  let k := s.ctx c x
  let b := sizeBytes o.size.toNat
  let a : Acc := ⟨true, stridedPieces (k.rs o.base) (k.rs o.idx) o.off b, false, true, false, c, x⟩
  loadSem a s [.s o.base.toNat, .s o.idx.toNat] (k.rs o.base) b o.la.toNat o.dist.toNat false none

/-- Element i of an index vector, extended and scaled (R208). -/
def indexOf (v : BitVec 2048) (xw sh : Nat) (sg : Bool) (i : Nat) : BitVec 64 :=
  let w := 8 * 2 ^ xw
  BitVec.ofInt 64 (ival sg w (elem w i v)) <<< sh

/-- The elements of an indexed access (R208, R212). -/
def indexedPieces (vault : Bool) (base : BitVec 64) (xs : Nat → BitVec 64) (b : Nat) : List Piece :=
  (List.range (256 / b)).flatMap fun i =>
    if vault then [⟨vaultEA base (xs i) 0 0, b, b * i⟩] else pieces (base + xs i) (b * i) b

/-- The gathers (R208). -/
def ldIndexed (o : OpLdX) (s : State) (c x : Nat) (vault : Bool) : Sem :=
  let k := s.ctx c x
  let b := sizeBytes o.size.toNat
  let xs := indexOf (k.rv o.xv) o.xw.toNat o.sh.toNat (o.sg == 1)
  let a : Acc := ⟨vault, indexedPieces vault (k.rs o.base) xs b, false, true, true, c, x⟩
  loadSem a s [.s o.base.toNat, .v o.xv.toNat] (k.rs o.base) b o.la.toNat o.dist.toNat false (a.elemTrap s b)

def semLdgx (o : OpLdX) (s : State) (c x : Nat) : Sem := ldIndexed o s c x false
def semLdvx (o : OpLdX) (s : State) (c x : Nat) : Sem := ldIndexed o s c x true

/-- A window binding of the strand's launch (R85): base and size in bytes; none is unbound. -/
def State.window (s : State) (c x n : Nat) : BitVec 64 × Nat :=
  match (s.ctx c x).strand with
  | some st =>
    let w := mget (0 : BitVec 64) (s.hdrOf st).win n
    (((w.setWidth 51).signExtend 58).signExtend 64 <<< 6, bitsOf w 62 51 * 64)
  | none => (0, 0)

/-- A window read (R203, R204). DESIGN CHOICE: where R205 allows the old or the new value of a byte written since, of a window
with RO = 1, the new one is read (log 97). -/
def ldWindow (o : OpLd) (s : State) (c x : Nat) : Sem :=
  let k := s.ctx c x
  let b := sizeBytes o.size.toNat
  let (wb, sz) := s.window c x (o.base.toNat % 8)
  let at0 := k.rs o.idx + o.off.setWidth 64
  let m := min b (sz - at0.toNat)
  let a : Acc := ⟨false, pieces (wb + at0) 0 m, false, true, false, c, x⟩
  { loadSem a s [.s o.idx.toNat] 0 1 o.la.toNat o.dist.toNat false none with
    trap0 := if sz = 0 then some (0x0A, 0) else none
    eff := fun t =>
      let t1 := a.load s o.la.toNat o.dist.toNat false t
      if m < b then t1.setFlags c x Flags.pwoob else t1 }

def semWld (o : OpLd) (s : State) (c x : Nat) : Sem := ldWindow o s c x
def semWldv (o : OpLd) (s : State) (c x : Nat) : Sem := ldWindow o s c x

/-- A register result of an access: local data land 8 cycles after issue (R210, R219), others when their messages are
answered; `kind` says how bytes become the register (see `Dest`), and `fl` the flags of a conversion. -/
def Acc.toReg (a : Acc) (s0 : State) (d : Dst) (kind : Nat) (conv : BitVec 2048 → BitVec 2048) (fl : BitVec 2048 → Flags)
    (s : State) : State :=
  if a.isLocal then
    let s2 := a.meets (a.drain s)
    let mk := localMark s2 a
    let s3 := if a.ps.any (fun p => s2.racy a.c (vaultPiecePa a.c p) p.n) then s2.countRace a.c else s2
    (s3.setFlags a.c a.x (fl (localData s2 a))).modCtx a.c a.x fun k =>
      k.pending d (conv (localData s2 a)) (.cycle (k.cyc + 8) ((s.core a.c).tick + 8)) mk
  else
    let (id, s1) := s.fresh
    let s2 := s1.modCtx a.c a.x fun k => k.pending d 0 (.reply id) none
    (a.wire s0).foldl (fun t p => t.request a p.1 p.2 (.read p.1.n) (.reg id p.1.off kind) false false) s2

def semLdk (o : OpLd) (s : State) (c x : Nat) : Sem :=
  let k := s.ctx c x
  let kd := o.la.toNat % 16
  let ea := vaultEA (k.rs o.base) (k.rs o.idx) (offBank o.off) (offRow o.off)
  let a : Acc := ⟨true, pieces ea 0 8, false, true, false, c, x⟩
  { loadSem a s [.s o.base.toNat, .s o.idx.toNat] (k.rs o.base) 8 0 0 false none with
    writes := [.k kd]
    eff := fun t => a.toReg s (.k kd) 0 id (fun _ => 0) t }

/-! Each instruction alone in a bundle (R144). -/

/-- LDG alone in a bundle, issued by the context in turn. -/
def execLdg (o : OpLd) (s : State) : Host.Outcome State Fault Refusal :=
  issueOne .ld (.ldg o) o.g (semLdg o) s

/-- LDGV alone in a bundle, issued by the context in turn. -/
def execLdgv (o : OpLd) (s : State) : Host.Outcome State Fault Refusal :=
  issueOne .ld (.ldgv o) o.g (semLdgv o) s

/-- LDA alone in a bundle, issued by the context in turn. -/
def execLda (o : OpLd) (s : State) : Host.Outcome State Fault Refusal :=
  issueOne .ld (.lda o) o.g (semLda o) s

/-- LDV alone in a bundle, issued by the context in turn. -/
def execLdv (o : OpLd) (s : State) : Host.Outcome State Fault Refusal :=
  issueOne .ld (.ldv o) o.g (semLdv o) s

/-- LDVV alone in a bundle, issued by the context in turn. -/
def execLdvv (o : OpLd) (s : State) : Host.Outcome State Fault Refusal :=
  issueOne .ld (.ldvv o) o.g (semLdvv o) s

/-- LDVS alone in a bundle, issued by the context in turn. -/
def execLdvs (o : OpLd) (s : State) : Host.Outcome State Fault Refusal :=
  issueOne .ld (.ldvs o) o.g (semLdvs o) s

/-- LDGX alone in a bundle, issued by the context in turn. -/
def execLdgx (o : OpLdX) (s : State) : Host.Outcome State Fault Refusal :=
  issueOne .ld (.ldgx o) o.g (semLdgx o) s

/-- LDVX alone in a bundle, issued by the context in turn. -/
def execLdvx (o : OpLdX) (s : State) : Host.Outcome State Fault Refusal :=
  issueOne .ld (.ldvx o) o.g (semLdvx o) s

/-- WLD alone in a bundle, issued by the context in turn. -/
def execWld (o : OpLd) (s : State) : Host.Outcome State Fault Refusal :=
  issueOne .ld (.wld o) o.g (semWld o) s

/-- WLDV alone in a bundle, issued by the context in turn. -/
def execWldv (o : OpLd) (s : State) : Host.Outcome State Fault Refusal :=
  issueOne .ld (.wldv o) o.g (semWldv o) s

/-- LDK alone in a bundle, issued by the context in turn. -/
def execLdk (o : OpLd) (s : State) : Host.Outcome State Fault Refusal :=
  issueOne .ld (.ldk o) o.g (semLdk o) s

end Sys2Proof.Machine
end

