-- ==== Sys2Proof/Machine/Store.lean ====
section
/-! DEFINITION. The instructions of slot ST but DST (R211, R212). -/

namespace Sys2Proof.Machine

/-- A store: its address registers, its source register, its base and element alignment, its data, and a trap of its own
before retirement. Its traps and freezes do not wait for its source (R76). -/
def storeSem (a : Acc) (s : State) (addr : List RegName) (src : RegName) (base : BitVec 64) (align : Nat) (v : BitVec 2048)
    (own : Option (Nat × BitVec 64)) : Sem :=
  { a.sem s addr base align with
    reads := addr ++ [src]
    late := orTrap own (orTrap (a.lateTrap s) (a.raceTrap s))
    raced := (orTrap own (a.lateTrap s)).isNone && (a.raceTrap s).isSome
    eff := fun t => a.put s v false t }

/-- The value of a scalar source, whose number is the upper bits of the source field (R54). -/
def srcS (o : OpSt) : BitVec 6 := BitVec.ofNat 6 (bitsOf o.src 10 5)

/-- The global access of the plain form. -/
def stGlobal (o : OpSt) (s : State) (c x : Nat) (scalar : Bool) : Acc × RegName × BitVec 2048 :=
  let k := s.ctx c x
  let ea := globalEA (k.rs o.base) (k.rs o.idx) o.off
  (⟨false, pieces ea 0 (sizeBytes o.size.toNat), true, true, false, c, x⟩,
   if scalar then .s (srcS o).toNat else .v o.src.toNat,
   if scalar then (k.rs (srcS o)).setWidth 2048 else k.rv o.src)

def semStg (o : OpSt) (s : State) (c x : Nat) : Sem :=
  let (a, r, v) := stGlobal o s c x true
  storeSem a s [.s o.base.toNat, .s o.idx.toNat] r 0 1 v none

def semStgv (o : OpSt) (s : State) (c x : Nat) : Sem :=
  let (a, r, v) := stGlobal o s c x false
  storeSem a s [.s o.base.toNat, .s o.idx.toNat] r 0 1 v none

/-- STL (R212): a release; held while the stamp scrubber holds releases (R350). -/
def semStl (o : OpSt) (s : State) (c x : Nat) : Sem :=
  let k := s.ctx c x
  let (a, r, v) := stGlobal o s c x true
  let ea := globalEA (k.rs o.base) (k.rs o.idx) o.off
  let m := storeSem a s [.s o.base.toNat, .s o.idx.toNat] r 0 1 v
    (if ea.toNat % sizeBytes o.size.toNat != 0 then some (9, ea) else none)
  { m with
    wait := if s.relHeld c then some (.sync, id) else m.wait
    eff := fun t => (a.put s v true t).release c }

/-- The vault access of the plain form. -/
def stVault (o : OpSt) (s : State) (c x : Nat) (reg : RegName) (v : BitVec 2048) : Sem :=
  let k := s.ctx c x
  let b := sizeBytes o.size.toNat
  let ea := vaultEA (k.rs o.base) (k.rs o.idx) (offBank o.off) (offRow o.off)
  let a : Acc := ⟨true, pieces ea 0 b, true, true, false, c, x⟩
  storeSem a s [.s o.base.toNat, .s o.idx.toNat] reg (k.rs o.base) b v none

def semStv (o : OpSt) (s : State) (c x : Nat) : Sem :=
  stVault o s c x (.s (srcS o).toNat) (((s.ctx c x).rs (srcS o)).setWidth 2048)

def semStvv (o : OpSt) (s : State) (c x : Nat) : Sem := stVault o s c x (.v o.src.toNat) ((s.ctx c x).rv o.src)

/-- STK: the mask number is the upper bits of the source field. -/
def semStk (o : OpSt) (s : State) (c x : Nat) : Sem :=
  let ks : BitVec 4 := BitVec.ofNat 4 (bitsOf o.src 10 7)
  stVault o s c x (.k ks.toNat) (((s.ctx c x).rk ks).setWidth 2048)

def semStvs (o : OpSt) (s : State) (c x : Nat) : Sem :=
  let k := s.ctx c x
  let b := sizeBytes o.size.toNat
  let a : Acc := ⟨true, stridedPieces (k.rs o.base) (k.rs o.idx) o.off b, true, true, false, c, x⟩
  storeSem a s [.s o.base.toNat, .s o.idx.toNat] (.v o.src.toNat) (k.rs o.base) b (k.rv o.src) none

/-- The scatters (R212): in increasing index, so that the higher takes effect last. -/
def stIndexed (o : OpStX) (s : State) (c x : Nat) (vault : Bool) : Sem :=
  let k := s.ctx c x
  let b := sizeBytes o.size.toNat
  let xs := indexOf (k.rv o.xv) o.xw.toNat o.sh.toNat (o.sg == 1)
  let a : Acc := ⟨vault, indexedPieces vault (k.rs o.base) xs b, true, true, true, c, x⟩
  storeSem a s [.s o.base.toNat, .v o.xv.toNat] (.v o.src.toNat) (k.rs o.base) b (k.rv o.src) none

def semStgx (o : OpStX) (s : State) (c x : Nat) : Sem := stIndexed o s c x false
def semStvx (o : OpStX) (s : State) (c x : Nat) : Sem := stIndexed o s c x true

/-! Each instruction alone in a bundle (R144). -/

/-- STG alone in a bundle, issued by the context in turn. -/
def execStg (o : OpSt) (s : State) : Host.Outcome State Fault Refusal :=
  issueOne .st (.stg o) o.g (semStg o) s

/-- STGV alone in a bundle, issued by the context in turn. -/
def execStgv (o : OpSt) (s : State) : Host.Outcome State Fault Refusal :=
  issueOne .st (.stgv o) o.g (semStgv o) s

/-- STL alone in a bundle, issued by the context in turn. -/
def execStl (o : OpSt) (s : State) : Host.Outcome State Fault Refusal :=
  issueOne .st (.stl o) o.g (semStl o) s

/-- STV alone in a bundle, issued by the context in turn. -/
def execStv (o : OpSt) (s : State) : Host.Outcome State Fault Refusal :=
  issueOne .st (.stv o) o.g (semStv o) s

/-- STVV alone in a bundle, issued by the context in turn. -/
def execStvv (o : OpSt) (s : State) : Host.Outcome State Fault Refusal :=
  issueOne .st (.stvv o) o.g (semStvv o) s

/-- STK alone in a bundle, issued by the context in turn. -/
def execStk (o : OpSt) (s : State) : Host.Outcome State Fault Refusal :=
  issueOne .st (.stk o) o.g (semStk o) s

/-- STVS alone in a bundle, issued by the context in turn. -/
def execStvs (o : OpSt) (s : State) : Host.Outcome State Fault Refusal :=
  issueOne .st (.stvs o) o.g (semStvs o) s

/-- STGX alone in a bundle, issued by the context in turn. -/
def execStgx (o : OpStX) (s : State) : Host.Outcome State Fault Refusal :=
  issueOne .st (.stgx o) o.g (semStgx o) s

/-- STVX alone in a bundle, issued by the context in turn. -/
def execStvx (o : OpStX) (s : State) : Host.Outcome State Fault Refusal :=
  issueOne .st (.stvx o) o.g (semStvx o) s

end Sys2Proof.Machine
end

