-- ==== Sys2Proof/Machine/Diff.lean ====
section
/-! DEFINITION. Differentiable regions (R213 to R225): DLD, DST, DMODE, DREG and TAPEMK, and the tape. -/

namespace Sys2Proof.Machine

/-! Regions. -/

/-- Bytes of one primal element (R214). -/
def DRegion.es (r : DRegion) : Nat := if r.ty = 0 then 4 else 2

/-- The float format of a region's primal (R213). -/
def DRegion.fmt (r : DRegion) : Fmt :=
  match r.ty with
  | 0 => .f32
  | 1 => .bf16
  | _ => .f16

/-- A pointer with vault 127 replaced by the core's own number (R213, R218). -/
def ownVp (c : Nat) (p : BitVec 64) : BitVec 64 := mkVp (vaultNum c p) (vpLin p)

/-- The valid region of a space that holds bytes a to a + len − 1 whole (R218). -/
def Ctx.regionOf (k : Ctx) (space : Bool) (a : BitVec 64) (n : Nat) : Option DRegion :=
  (k.dreg.find? fun p =>
    p.2.valid && p.2.space == space && p.2.primal.toNat ≤ a.toNat
      && a.toNat + n * p.2.es ≤ p.2.primal.toNat + p.2.len).map (·.2)

/-- The address of the cell of primal address a (R214). -/
def DRegion.cell (r : DRegion) (a : BitVec 64) : BitVec 64 :=
  r.shadow + BitVec.ofNat 64 ((a.toNat - r.primal.toNat) * 4 / r.es)

/-- A differentiable access: its address as named and with its own vault number, its element count, its region. -/
structure DAcc where
  ea : BitVec 64
  a : BitVec 64
  n : Nat
  r : Option DRegion

/-- The address and region of a DLD or DST (R218). -/
def dAccess (o : OpD) (s : State) (c x : Nat) : DAcc :=
  let k := s.ctx c x
  let v := o.space == 1
  let ea := if v then vaultEA (k.rs o.base) 0 (offBank o.off) (offRow o.off) else globalEA (k.rs o.base) 0 o.off
  let a := if v then ownVp c ea else ea
  let n := sizeBytes o.size.toNat / 4
  { ea := ea, a := a, n := n, r := k.regionOf v a n }

/-- The issue-time traps of R218, after those of the pointer itself (R188, R190), and those of the adjoint cells that a
reverse access touches (R190). -/
def dTrap (o : OpD) (s : State) (c x : Nat) (d : DAcc) (acc : Acc) (cells : Option Acc) : Option (Nat × BitVec 64) :=
  let v := o.space == 1
  if v && s.badVp c ((s.ctx c x).rs o.base) then some (9, (s.ctx c x).rs o.base)
  else match d.r with
    | none => some (9, d.ea)
    | some r =>
      if (d.a.toNat - r.primal.toNat) % r.es != 0 then some (if v then 7 else 9, d.ea)
      else if v && d.ea.toNat % (d.n * r.es) != 0 then some (7, d.ea)
      else match acc.trap s ((s.ctx c x).rs o.base) 1 with
        | some t => some t
        | none => cells.bind fun a => a.ps.head?.bind fun p => a.trap s p.ea 1

/-- The primal bytes of a differentiable access. -/
def DAcc.primal (d : DAcc) (o : OpD) (c x : Nat) (write : Bool) : Acc :=
  let es := match d.r with | some r => r.es | none => 4
  ⟨o.space == 1, pieces d.ea 0 (d.n * es), write, false, false, c, x⟩

/-- The adjoint cells, one piece each (R214, R222). -/
def DAcc.cells (d : DAcc) (o : OpD) (c x : Nat) : Acc :=
  let base := match d.r with | some r => r.cell d.a | none => 0
  ⟨o.space == 1, (List.range d.n).map fun i => ⟨base + BitVec.ofNat 64 (4 * i), 4, 4 * i⟩, true, false, false, c, x⟩

/-! The tape. -/

/-- Whether n more bytes overflow the tape (R219, R221). -/
def Ctx.tapeFull (k : Ctx) (n : Nat) : Bool := !tapeLegal k.tapeSize.toNat || k.tapeSize.toNat < k.tapeUsed + n

/-- The header of a tape entry (R220). -/
def tapeHeader (units : Nat) (ea : BitVec 64) (copy vault : Bool) : Nat :=
  units % 64 * 2 ^ 58 + bitsOf ea 56 3 * 8 + (if copy then 2 else 0) + (if vault then 1 else 0)

/-- The write of the i-th word pushed at TOP through the own vault's network port (R220). -/
def State.tapeMsg (s : State) (c x i : Nat) : Msg :=
  let k := s.ctx c x
  let pa := k.tapePa c ((k.tapeTop + BitVec.ofNat 32 (8 * i)).toNat)
  { id := 0, core := c, x := x, pa := pa, va := mkVp 127 pa, op := .write [] false, dest := .none, st := .live,
    region := (s.core c).rgCur, tape := true }

/-- TOP moves over n words. -/
def State.tapeMove (s : State) (c x n : Nat) : State :=
  s.modCtx c x fun k => { k with tapeTop := k.tapeTop + BitVec.ofNat 32 (8 * n) }

/-- 8-byte words, each with its poison (R377), pushed at TOP (R220). -/
def State.tapePush (s : State) (c x : Nat) (ws : List (List (BitVec 8) × Bool)) : State :=
  (ws.zipIdx.foldl (fun t p => t.send { s.tapeMsg c x p.2 with op := .write p.1.1 p.1.2 }) s).tapeMove c x ws.length

/-- Whether the context has tape traffic outstanding (R216). -/
def State.tapeBusy (s : State) (c x : Nat) : Bool := s.net.any fun m => m.core == c && m.x == x && m.tape && m.st.waiting

/-- Whether a message belongs to a differentiable access: tape traffic, adjoints, and primal reads of a DLD. -/
def Msg.diff (m : Msg) : Bool :=
  m.tape || (match m.op with
    | .accum _ => true
    | .exch => true
    | .capture _ _ => true
    | _ => false) || (match m.dest with
    | .reg _ _ kind => 1 ≤ kind && kind ≤ 4
    | _ => false)

/-- Whether the context's differentiable accesses have all been performed, those of its D copies included (R217). -/
def State.diffBusy (s : State) (c x : Nat) : Bool :=
  (s.net.any fun m => m.core == c && m.x == x && m.diff)
    || (match (s.ctx c x).strand with
        | some st => (s.chansOf c st.slot).any fun ch =>
            (mget {} (s.core c).chans ch).dflag && (mget {} (s.core c).chans ch).state == 1
        | none => false)

/-! DLD. -/

/-- The forms of a pending DLD result: 1 F32, 2 BF16, 3 F16 (see `Dest`). -/
def DRegion.kind (r : DRegion) : Nat := r.ty + 1

/-- Primal bytes widened to F32 elements (R219). -/
def widen (kind n : Nat) (v : BitVec 2048) : BitVec 2048 :=
  match kind with
  | 2 => joinElems 32 ((List.range n).map fun i => (Fmt.f32.ofVal 0 false 0 (Fmt.bf16.dec (elem 16 i v))).bits)
  | 3 => joinElems 32 ((List.range n).map fun i => (Fmt.f32.ofVal 0 false 0 (Fmt.f16.dec (elem 16 i v))).bits)
  | _ => v

/-- The flags of that conversion (R31, R36). -/
def widenFlags (kind n : Nat) (v : BitVec 2048) : Flags :=
  match kind with
  | 2 => (List.range n).foldl (fun fl i => fl ||| (Fmt.f32.ofVal 0 false 0 (Fmt.bf16.dec (elem 16 i v))).fl) 0
  | 3 => (List.range n).foldl (fun fl i => fl ||| (Fmt.f32.ofVal 0 false 0 (Fmt.f16.dec (elem 16 i v))).fl) 0
  | _ => 0

def semDld (o : OpD) (s : State) (c x : Nat) : Sem :=
  let k := s.ctx c x
  let d := dAccess o s c x
  let vd := o.v.toNat
  let kind := match d.r with | some r => r.kind | none => 1
  if k.rev then
    let cs := d.cells o c x
    let pr := d.primal o c x false
    { reads := [.s o.base.toNat, .v vd]
      gate := [.s o.base.toNat]
      writes := [.v vd]
      trap := dTrap o s c x d pr (some cs)
      near := pr.isLocal
      wait := match cs.wait s with
        | some w => some w
        | none => if pr.ps.any (if pr.vault then s.scoreVault c else s.scoreGlobal c (s.asid c x)) then some (.scor, id)
          else none
      late := orTrap (cs.lateTrap s) (cs.unitless s)
      eff := fun t =>
        let t1 := cs.ps.foldl (fun t p =>
          t.request cs p (cs.pa s p) (.accum (BitVec.ofNat 32 (elem 32 (p.off / 4) (k.rv o.v)))) .none false false) t
        t1.modCtx c x fun k => k.put (.v vd) 0 none }
  else
    let a := d.primal o c x false
    { reads := [.s o.base.toNat]
      writes := [.v vd]
      trap := dTrap o s c x d a none
      units := a.units
      wait := a.wait s
      late := a.lateTrap s
      eff := fun t => a.toReg s (.v vd) kind (widen kind d.n) (widenFlags kind d.n) t }

/-! DST. -/

/-- The F32 elements of vS rounded to the primal type (R219): the bytes, flags, and whether one is non-finite. -/
def narrowPrimal (f : Fmt) (mode : RMode) (n : Nat) (v : BitVec 2048) : BitVec 2048 × Flags × Bool :=
  let rs := (List.range n).map fun i => f.ofVal mode false 0 (Fmt.f32.dec (elem 32 i v))
  (joinElems f.w (rs.map (·.bits)), rs.foldl (fun fl r => fl ||| r.fl) 0, rs.any fun r => !(f.dec r.bits).isFinite)

/-- The captured units of a forward DST: the access of the aligned 8-byte words that its bytes touch (R219). -/
def DAcc.unitsAcc (d : DAcc) (o : OpD) (c x len : Nat) : Acc :=
  let lo := d.ea &&& ~~~7
  let cnt := (d.ea.toNat % 8 + len + 7) / 8
  ⟨o.space == 1, (List.range cnt).map fun i => ⟨lo + BitVec.ofNat 64 (8 * i), 8, 8 * i⟩, true, false, false, c, x⟩

/-- The bytes of an access of len bytes, whose address lies m bytes into its first 8-byte word, that fall in word i: their
offset in the word, and the bytes. -/
def wordBytes (m len i : Nat) (v : BitVec 2048) : Nat × List (BitVec 8) :=
  let lo := 8 * i - m
  (if i = 0 then m else 0, toBytes (v.toNat / 2 ^ (8 * lo)) (min (8 * i + 8 - m) len - lo))

/-- Word p of a forward DST that its owner performs (R219): the capture and the write as one access, and the push of the old
word, which waits for it. -/
def State.capture (s : State) (c x pa : Nat) (p : Piece) (m len : Nat) (v : BitVec 2048) : State :=
  let (off, bs) := wordBytes m len (p.off / 8) v
  (s.send { id := 0, core := c, x := x, pa := pa, va := p.ea + BitVec.ofNat 64 off, op := .capture off bs, dest := .none,
            st := .live, region := (s.core c).rgCur }).send { s.tapeMsg c x (p.off / 8) with st := .accepted }

/-- A forward DST (R219): capture, push, and the primal write, as one access: at once in the own vault, at the owner of the
bytes elsewhere (R332, R445). -/
def dstForward (o : OpD) (s : State) (c x : Nat) (d : DAcc) : Sem :=
  let k := s.ctx c x
  let a := d.primal o c x true
  let r := d.r.getD {}
  let u := d.unitsAcc o c x (d.n * r.es)
  let nu := u.ps.length
  let out := narrowPrimal r.fmt k.mode d.n (k.rv o.v)
  let header := (toBytes (tapeHeader nu (d.ea &&& ~~~7) false a.vault) 8, false)
  { reads := [.s o.base.toNat, .v o.v.toNat]
    gate := [.s o.base.toNat]
    trap := orTrap (dTrap o s c x d a none) (if k.tapeFull (8 * (nu + 1)) then some (0x0C, k.tapePtr) else none)
    units := a.units
    wait := a.wait s
    late := orTrap (a.lateTrap s) (a.raceTrap s)
    raced := (a.lateTrap s).isNone && (a.raceTrap s).isSome
    eff := fun t =>
      let t3 :=
        if a.isLocal then
          let t1 := u.meets (u.drain t)
          let old := u.ps.map fun p => (toBytes (t1.rd (u.pa s p) 8) 8, t1.poisoned (u.pa s p) 8)
          (a.ps.foldl (fun t p => t.store c (t.core c).rgCur (a.pa s p) (p.bytes out.1)) t1).tapePush c x (old ++ [header])
        else
          let t1 := u.ps.foldl (fun t p => t.capture c x (u.pa s p) p (d.ea.toNat % 8) (d.n * r.es) out.1) t
          (t1.send { t.tapeMsg c x nu with op := .write header.1 false }).tapeMove c x (nu + 1)
      let t4 := t3.setFlags c x out.2.1
      if out.2.2 then t4.setNfs c x Nfs.vec else t4 }

/-- The restore of a reverse DST: the words its header names (R220, R223). -/
def restoreAcc (h len c x : Nat) : Acc :=
  let lo : BitVec 64 := ((BitVec.ofNat 57 (h / 8 * 8 % 2 ^ 57)).signExtend 64) &&& ~~~7
  ⟨h % 2 == 1, (List.range len).map fun i => ⟨lo + BitVec.ofNat 64 (8 * i), 8, 8 * i⟩, true, false, false, c, x⟩

/-- A reverse DST (R223): the pop is judged, POISON with it, before the restore's target is. -/
def dstReverse (o : OpD) (s : State) (c x : Nat) (d : DAcc) : Sem :=
  let k := s.ctx c x
  let pr := d.primal o c x true
  let cs := d.cells o c x
  let top := k.tapeTopEntry s c
  let ready := (k.answered 5).isSome
  let (sk, len, h) := top.getD (0, 0, 0)
  let first := k.tapeTop - BitVec.ofNat 32 (8 * (sk + len + 1))
  let words := (List.range (len + 1)).map fun i => k.tapePa c ((first + BitVec.ofNat 32 (8 * i)).toNat)
  let ra := restoreAcc h len c x
  let ask : State → State := fun t =>
    if (t.ctx c x).waiting 5 |>.isSome then t
    else (t.noteWait c x 5 1).send
      { id := 0, core := c, x := x, pa := k.tapePa c (k.tapeTop - 8).toNat, va := k.tapePtr, op := .tapeTop,
        dest := .wait 5 0, st := .live, tape := true }
  let poison := (words.find? fun w => s.poisoned w 8).map fun w => (0x10, mkVp 127 w)
  let scor := pr.ps.any (if pr.vault then s.scoreVault c else s.scoreGlobal c (s.asid c x))
  { reads := [.s o.base.toNat, .v o.v.toNat]
    writes := [.v o.v.toNat]
    gate := [.s o.base.toNat]
    near := pr.isLocal
    trap := orTrap (dTrap o s c x d pr (some cs))
      (if ready && top.isNone then some (0x0C, k.tapePtr) else none)
    wait := match cs.wait s with
      | some w => some w
      | none =>
        if scor then some (.scor, id)
        else if !ready then some (.land, ask)
        else if poison.isSome then none
        else ra.wait s
    late := orTrap (orTrap (cs.lateTrap s) (cs.unitless s))
      (orTrap poison (orTrap (ra.lateTrap s) (ra.ps.head?.bind fun p => ra.trap s p.ea 1)))
    eff := fun t =>
      let (id, t1) := t.fresh
      let t2 := t1.modCtx c x fun k =>
        { k.pending (.v o.v.toNat) (k.rv o.v) (.reply id) none with tapeTop := first }
      let t3 := cs.ps.foldl (fun t p => t.request cs p (cs.pa s p) .exch (.reg id p.off 4) false false) t2
      let t4 := match words.find? fun w => s.racy c w 8 with
        | some w => (t3.countRace c).sendReport { t3.tapeMsg c x 0 with pa := w, va := mkVp 127 w }
        | none => t3
      ra.ps.foldl (fun t p =>
        let m : Msg := { t.tapeMsg c x 0 with
          pa := ra.pa s p, va := p.ea, op := .write (toBytes (s.rd (words.getD (p.off / 8) 0) 8) 8) false }
        if ra.isLocal then (t.drainOwn c x m.pa 8).writeAt m m.pa (toBytes (s.rd (words.getD (p.off / 8) 0) 8) 8) false
        else t.send m) t4 }

def semDst (o : OpD) (s : State) (c x : Nat) : Sem :=
  let d := dAccess o s c x
  if (s.ctx c x).rev then dstReverse o s c x d else dstForward o s c x d

/-! DMODE, DREG and TAPEMK. -/

def semDmode (o : OpSy) (s : State) (c x : Nat) : Sem :=
  { wait := if s.diffBusy c x then some (.sync, id) else none
    eff := fun t => t.modCtx c x fun k => { k with rev := o.imm == 1 } }

/-- A region descriptor from its 32 bytes, and whether its reserved bits are zero (R213). DESIGN CHOICE: a base of vault 127
whose bits 63:33 are not zero, for which the spec states no response, is bound with those bits dropped (log 88). -/
def parseRegion (c : Nat) (v : Nat) : DRegion × Bool :=
  let w1 := v / 2 ^ 64 % 2 ^ 64
  let space := w1 / 2 ^ 42 % 2 == 1
  let fix (p : Nat) : BitVec 64 := if space && p / 2 ^ 26 % 128 = 127 then mkVp c p else BitVec.ofNat 64 p
  ({ valid := true, space := space, ty := w1 / 2 ^ 40 % 4, len := w1 % 2 ^ 40, primal := fix (v % 2 ^ 64),
     shadow := fix (v / 2 ^ 128 % 2 ^ 64) },
   w1 / 2 ^ 43 % 2 ^ 20 == 0 && v / 2 ^ 192 % 2 ^ 64 == 0)

/-- Bytes of the shadow of a region (R214). -/
def DRegion.shadowLen (r : DRegion) : Nat := r.len * 4 / r.es

/-- Whether a range of a vault region leaves its vault or names another stack's vault (R213, R215). -/
def vaultRangeBad (c : Nat) (p : BitVec 64) (n : Nat) : Bool :=
  bitsOf p 63 33 != 0 || 96 ≤ vpVault p || stackOf (vpVault p) != stackOf c || 2 ^ 26 < vpLin p + n

/-- Two ranges overlap. -/
def rangesMeet (a n b m : Nat) : Bool := a < b + m && b < a + n

/-- Whether the primal or shadow ranges of two regions of one space overlap (R215). -/
def DRegion.meets (a b : DRegion) : Bool :=
  a.space == b.space
    && (rangesMeet a.primal.toNat a.len b.primal.toNat b.len || rangesMeet a.primal.toNat a.len b.shadow.toNat b.shadowLen
        || rangesMeet a.shadow.toNat a.shadowLen b.primal.toNat b.len
        || rangesMeet a.shadow.toNat a.shadowLen b.shadow.toNat b.shadowLen)

/-- Whether a descriptor is invalid, its reserved bits apart (R215). -/
def DRegion.bad (r : DRegion) (c : Nat) : Bool :=
  r.ty == 3 || r.primal.toNat % r.es != 0 || r.shadow.toNat % 4 != 0 || r.len % r.es != 0
    || (r.space && (vaultRangeBad c r.primal r.len || vaultRangeBad c r.shadow r.shadowLen))

/-- The status of binding a descriptor to entry n and the cache that follows (R215). -/
def bindRegion (c : Nat) (cache : NMap DRegion) (n v : Nat) : Nat × NMap DRegion :=
  let (r, zero) := parseRegion c v
  if r.len = 0 then (0, mset n { (mget {} cache n) with valid := false } cache)
  else if !zero || r.bad c then (1, cache)
  else if cache.any fun p => p.1 != n && p.2.valid && p.2.meets r then (2, cache)
  else (0, mset n r cache)

def semDreg (o : OpSy) (s : State) (c x : Nat) : Sem :=
  let k := s.ctx c x
  let dtab := match k.strand with | some st => (s.hdrOf st).dtab | none => 0
  let ea := dtab + k.rs o.sa * 32
  let a : Acc := ⟨false, pieces ea 0 32, false, false, false, c, x⟩
  let quick : Option Nat := if k.rev then some 3 else if dtab = 0 then some 1 else none
  match quick with
  | some st =>
    { reads := [.s o.sa.toNat], writes := [.s o.sd.toNat], eff := fun t => t.resS c x o.sd (BitVec.ofNat 64 st) 1 }
  | none =>
    let ask : State → State := fun t =>
      if (t.ctx c x).waiting 7 |>.isSome then t
      else a.ps.foldl (fun t p => t.request a p (a.pa s p) (.read p.n) (.wait 7 p.off) false false)
        (t.noteWait c x 7 a.ps.length)
    let got := k.answered 7
    { reads := [.s o.sa.toNat]
      writes := [.s o.sd.toNat]
      wait := match a.wait s with
        | some w => some w
        | none => if (a.lateTrap s).isSome || got.isSome then none else some (.sync, ask)
      late := orTrap (a.lateTrap s) ((got.bind (·.mark)).map fun m => (m.code, m.addr))
      eff := fun t =>
        let v := match got with | some w => w.val.toNat | none => 0
        let res := bindRegion c (t.ctx c x).dreg o.imm.toNat v
        (t.modCtx c x fun k => { k with dreg := res.2 }).resS c x o.sd (BitVec.ofNat 64 res.1) 1 }

def semTapemk (o : OpSy) (s : State) (c x : Nat) : Sem :=
  let k := s.ctx c x
  { reads := [.s o.sa.toNat]
    gate := []
    trap := if k.tapeFull 8 then some (0x0C, k.tapePtr) else none
    wait := if s.acquiring c x then some (.land, id) else none
    eff := fun t => t.tapePush c x [(toBytes ((k.rs o.sa).toNat % 2 ^ 58) 8, false)] }

/-! Each instruction alone in a bundle (R144). -/

/-- DLD alone in a bundle, issued by the context in turn. -/
def execDld (o : OpD) (s : State) : Host.Outcome State Fault Refusal :=
  issueOne .ld (.dld o) o.g (semDld o) s

/-- DST alone in a bundle, issued by the context in turn. -/
def execDst (o : OpD) (s : State) : Host.Outcome State Fault Refusal :=
  issueOne .st (.dst o) o.g (semDst o) s

/-- DMODE alone in a bundle, issued by the context in turn. -/
def execDmode (o : OpSy) (s : State) : Host.Outcome State Fault Refusal :=
  issueOne .sy (.dmode o) o.g (semDmode o) s

/-- DREG alone in a bundle, issued by the context in turn. -/
def execDreg (o : OpSy) (s : State) : Host.Outcome State Fault Refusal :=
  issueOne .sy (.dreg o) o.g (semDreg o) s

/-- TAPEMK alone in a bundle, issued by the context in turn. -/
def execTapemk (o : OpSy) (s : State) : Host.Outcome State Fault Refusal :=
  issueOne .sy (.tapemk o) o.g (semTapemk o) s

end Sys2Proof.Machine
end

