-- ==== Sys2Proof/Machine/View.lean ====
section
/-! DEFINITION. Registers that are views of other state, as 64-bit words: CTX.STAT (R135), MX.PROG (R271), region
descriptors (R213), LA.STAT (R143) and the registers of a copy channel (R227), with the readings back that a restore
makes. -/

namespace Sys2Proof.Machine

/-- CTX.STAT (R135); an idle context keeps the privilege of its last strand (R137). -/
def State.ctxStat (s : State) (c x : Nat) : Nat :=
  let k := s.ctx c x
  k.stat.toNat + (if k.trapm then 256 else 0) + (if (if k.strand.isSome then s.supv c x else k.priv) then 512 else 0) + (if s.isDrone c x then 1024 else 0)

/-- MX.PROG (R271). -/
def MxProg.word (m : MxProg) : Nat :=
  m.phase % 4 * 2 ^ 62 + m.sd % 64 * 2 ^ 56 + m.tile % 16 * 2 ^ 52 + m.af % 8 * 2 ^ 49 + m.bf % 8 * 2 ^ 46
    + m.mode % 4 * 2 ^ 44 + m.mask % 256 * 2 ^ 36 + m.step % 2 ^ 13 * 2 ^ 23

/-- MX.PROG's fields from its word. -/
def MxProg.ofWord (v : Nat) : MxProg :=
  { phase := v / 2 ^ 62 % 4, sd := v / 2 ^ 56 % 64, tile := v / 2 ^ 52 % 16, af := v / 2 ^ 49 % 8, bf := v / 2 ^ 46 % 8
    mode := v / 2 ^ 44 % 4, mask := v / 2 ^ 36 % 256, step := v / 2 ^ 23 % 2 ^ 13 }

/-- The 32 bytes of a region in the cache (R213). -/
def DRegion.words (r : DRegion) : Nat :=
  r.primal.toNat
    + 2 ^ 64 * (r.len % 2 ^ 40 + r.ty % 4 * 2 ^ 40 + (if r.space then 2 ^ 42 else 0) + (if r.valid then 2 ^ 63 else 0))
    + 2 ^ 128 * r.shadow.toNat

/-- A region from the 32 bytes of a saved cache entry. -/
def DRegion.ofWords (v : Nat) : DRegion :=
  { valid := v / 2 ^ 127 % 2 == 1, space := v / 2 ^ 106 % 2 == 1, ty := v / 2 ^ 104 % 4, len := v / 2 ^ 64 % 2 ^ 40
    primal := BitVec.ofNat 64 v, shadow := BitVec.ofNat 64 (v / 2 ^ 128) }

/-- Level l of a channel's nest (R227): count minus one, strides, index. -/
def Chan.cntOf (h : Chan) (l : Nat) : Nat := mget 0 h.cntm1 l
def Chan.sstrOf (h : Chan) (l : Nat) : Int := mget 0 h.sstr l
def Chan.dstrOf (h : Chan) (l : Nat) : Int := mget 0 h.dstr l
def Chan.idxOf (h : Chan) (l : Nat) : Nat := mget 0 h.idx l

/-- A signed integer in 40 bits. -/
def low40 (i : Int) : Nat := (i % 2 ^ 40).toNat

/-- CTL of a channel. -/
def Chan.ctl (h : Chan) : Nat :=
  h.steptag % 2 ^ 16 * 2 ^ 48 + (if h.cfgerr then 2 ^ 47 else 0) + h.rop % 8 * 2 ^ 44 + h.owner % 2 * 2 ^ 43
    + h.state % 8 * 2 ^ 40 + h.fcode % 256 * 2 ^ 32 + (if h.rev then 2 ^ 22 else 0) + (if h.arrive then 2 ^ 21 else 0)
    + (if h.gather then 2 ^ 20 else 0) + (if h.dflag then 2 ^ 19 else 0) + h.dsp % 4 * 2 ^ 17 + h.ssp % 2 * 2 ^ 16
    + h.lenm1 % 2 ^ 16

/-- AUX of a channel. -/
def Chan.aux (h : Chan) : Nat :=
  h.fside % 2 * 2 ^ 49 + h.rwin % 64 * 2 ^ 43 + h.rank % 1024 * 2 ^ 33 + h.barp % 2 ^ 33

/-- IDX as it reads: recorded when Halted, next to issue when Running, else 0. -/
def Chan.idxRead (h : Chan) (l : Nat) : Nat := if h.state = 1 ∨ h.state = 2 then h.idxOf l else 0

/-- Register k of a channel (R227). -/
def Chan.reg (h : Chan) (k : Nat) : Nat :=
  match k with
  | 0 => h.srcb.toNat
  | 1 => h.dstb.toNat
  | 14 => h.ctl
  | 15 => h.aux
  | _ =>
    let l := (k - 2) / 2
    if k % 2 = 0 then h.cntOf l * 2 ^ 40 + low40 (h.sstrOf l) else h.idxRead l * 2 ^ 40 + low40 (h.dstrOf l)

/-- The signed value of the low 40 bits. -/
def sgn40 (v : Nat) : Int := sgn 40 v

/-- A channel from its sixteen registers (R248): `r` gives register k. -/
def Chan.ofRegs (r : Nat → Nat) : Chan :=
  let c := r 14
  let a := r 15
  { srcb := BitVec.ofNat 64 (r 0), dstb := BitVec.ofNat 64 (r 1)
    cntm1 := (List.range 6).map fun l => (l, r (2 + 2 * l) / 2 ^ 40 % 2 ^ 24)
    sstr := (List.range 6).map fun l => (l, sgn40 (r (2 + 2 * l)))
    dstr := (List.range 6).map fun l => (l, sgn40 (r (3 + 2 * l)))
    idx := (List.range 6).map fun l => (l, r (3 + 2 * l) / 2 ^ 40 % 2 ^ 24)
    steptag := c / 2 ^ 48 % 2 ^ 16, cfgerr := c / 2 ^ 47 % 2 == 1, rop := c / 2 ^ 44 % 8, owner := c / 2 ^ 43 % 2
    state := c / 2 ^ 40 % 8, fcode := c / 2 ^ 32 % 256, rev := c / 2 ^ 22 % 2 == 1, arrive := c / 2 ^ 21 % 2 == 1
    gather := c / 2 ^ 20 % 2 == 1, dflag := c / 2 ^ 19 % 2 == 1, dsp := c / 2 ^ 17 % 4, ssp := c / 2 ^ 16 % 2
    lenm1 := c % 2 ^ 16
    fside := a / 2 ^ 49 % 2, rwin := a / 2 ^ 43 % 64, rank := a / 2 ^ 33 % 1024, barp := a % 2 ^ 33 }

end Sys2Proof.Machine
end

