-- ==== Sys2Proof/Machine/Save.lean ====
section
/-! DEFINITION. Saving and restoring a strand (R105 to R109, R117, R118, R122, R123, R248), and starting one (R97). -/

namespace Sys2Proof.Machine

/-! Live-range entries (R105). -/

/-- What a save keeps: sets of scalars, masks, tiles (16 is accS), landing slots and vector registers, whether the copy
channels are saved, and vault ranges as first unit, count and image offset. -/
structure Live where
  s : List Nat
  k : List Nat
  acc : List Nat
  la : List Nat
  chans : Bool
  v : List Nat
  vault : List (Nat × Nat × Nat)
deriving DecidableEq, Repr

/-- The set bits of a number below n, from bit lo. -/
def bitsFrom (lo n v : Nat) : List Nat := ((List.range n).filter fun i => lo ≤ i && v / 2 ^ i % 2 == 1)

/-- An entry from its 128 bytes. DESIGN CHOICE: a VRANGE that names registers from 2,048 on, for which the spec states no
outcome, names those below (log 90). -/
def Live.ofNat (e : Nat) : Live :=
  let vr := (List.range 8).flatMap fun i =>
    let w := e / 2 ^ (192 + 32 * i) % 2 ^ 32
    (List.range (w / 2 ^ 11 % 2 ^ 12)).map fun j => w % 2 ^ 11 + j
  { s := bitsFrom 1 64 (e % 2 ^ 64)
    k := bitsFrom 1 16 (e / 2 ^ 64 % 2 ^ 16)
    acc := bitsFrom 0 16 (e / 2 ^ 80 % 2 ^ 16) ++ (if e / 2 ^ 128 % 2 = 1 then [16] else [])
    la := bitsFrom 0 32 (e / 2 ^ 96 % 2 ^ 32)
    chans := e / 2 ^ 129 % 2 == 1
    v := vr.filter (· < 2048)
    vault := ((List.range 4).map fun i =>
      let w := e / 2 ^ (448 + 64 * i) % 2 ^ 64
      (w % 2 ^ 20, w / 2 ^ 20 % 2 ^ 20, w / 2 ^ 40 * 1024)).filter fun r => r.2.1 != 0 }

/-- The full image of a launch (R106). -/
def Live.full (cube : Bool) : Live :=
  { s := (List.range 64).drop 1, k := (List.range 16).drop 1, acc := if cube then List.range 17 else [],
    la := List.range 32, chans := true, v := List.range 2048, vault := [] }

/-- The end of the image that an entry names. -/
def Live.extent (e : Live) : Nat :=
  let ends := e.s.map (fun i => 0x408 + 8 * i) ++ e.k.map (fun i => 0x608 + 8 * i)
    ++ e.la.map (fun i => 0x900 + 256 * i) ++ (if e.chans then [0x2A00] else []) ++ e.v.map (fun i => 0x4100 + 256 * i)
    ++ e.acc.map (fun i => 0xA4000 + 0x20000 * i) ++ e.vault.map fun r => r.2.2 + 64 * r.2.1
  ends.foldl max 0x400

/-- The parts of the image that an entry names, an offset and a length each, the fixed part first. -/
def Live.ranges (e : Live) : List (Nat × Nat) :=
  (0, 0x400) :: e.s.map (fun i => (0x400 + 8 * i, 8)) ++ e.k.map (fun i => (0x600 + 8 * i, 8))
    ++ e.la.map (fun i => (0x800 + 256 * i, 256)) ++ (if e.chans then [(0x2800, 512)] else [])
    ++ e.v.map (fun i => (0x4000 + 256 * i, 256)) ++ e.acc.map (fun i => (0x84000 + 0x20000 * i, 0x20000))
    ++ e.vault.map fun r => (r.2.2, 64 * r.2.1)

/-! The image. -/

/-- A piece of the image: its row of R106, the offset of the register, tile or range it is of, its own offset, length, value,
and whether it is poisoned. -/
structure Part8 where
  row : Nat
  first : Nat
  off : Nat
  n : Nat
  val : Nat
  bad : Bool

/-- Whether a register of a context holds uncorrectable data. -/
def Ctx.bad (k : Ctx) (r : RegName) : Bool := k.marks.any fun p => p.1 == r.key && p.2.code == 0x10

/-- The fixed part (R107), but for the landing-slot status, the failing range and the parts written. -/
def fixedPart (s : State) (c x : Nat) : List (Nat × Nat × Nat) :=
  let k := s.ctx c x
  let q := s.core c
  [(0x40, 8, k.rnd), (0x48, 8, k.srseed.toNat), (0x50, 8, k.nfs.toNat), (0x58, 8, s.ctxStat c x), (0x60, 8, k.shape),
   (0x68, 8, k.loopCnt.toNat), (0x70, 8, k.loopEnd.toNat), (0x78, 8, if k.rev then 1 else 0),
   (0x80, 8, k.tapeBase.toNat), (0x88, 8, k.tapeSize.toNat), (0x90, 8, k.mx.word), (0x98, 8, k.ckpt)]
  ++ ((List.range 8).map fun i => (0xA0 + 4 * i, 4, (k.rf i).toNat))
  ++ ((List.range 17).map fun t => (0xC0 + 2 * t, 2, wrap 16 (mget (-80) q.tileE t)))
  ++ [(0xE2, 30, 0)]
  ++ ((List.range 8).map fun i => (0x100 + 32 * i, 32, (mget {} k.dreg i).words))
  ++ [(0x250, 432, 0)]

/-- An accumulator element as 64 bits (R37). -/
def Elem.word (e : Elem) : Nat := wrap 56 e.sig + e.cls % 4 * 2 ^ 56

/-- An accumulator element from 64 bits. DESIGN CHOICE: R109 checks no element and the spec states no outcome for one that the
device does not write: a finite SIG loads as it stands, and a class that is not finite drops its SIG (log 90). -/
def Elem.ofWord (v : Nat) : Elem :=
  let cls := v / 2 ^ 56 % 4
  { cls := cls, sig := if cls = 0 then sgn 56 v else 0 }

/-- The image a strand's channel leaves: its registers if it started the channel, else zeros (R248). -/
def chanImage (s : State) (c pa ch k : Nat) : Nat :=
  if (s.chan c ch).mark = some pa then (s.chan c ch).reg k else 0

/-- The pieces of the image after the fixed part, in the order of R106. -/
def imageParts (s : State) (c x pa : Nat) (e : Live) : List Part8 :=
  let k := s.ctx c x
  let q := s.core c
  e.s.map (fun i => ⟨2,  0x400 + 8 * i, 0x400 + 8 * i, 8, (mget 0 k.s i).toNat, k.bad (.s i)⟩)
  ++ e.k.map (fun i => ⟨3,  0x600 + 8 * i, 0x600 + 8 * i, 8, (mget 0 k.k i).toNat, k.bad (.k i)⟩)
  ++ e.la.map (fun i =>
      ⟨4,  0x800 + 256 * i, 0x800 + 256 * i, 256, (k.slot i).data.toNat, (k.slot i).mark.any fun m => m.code == 0x10⟩)
  ++ (if e.chans then (List.range 64).map fun i => ⟨5,  0x2800 + 8 * i, 0x2800 + 8 * i, 8, chanImage s c pa (i / 16) (i % 16), false⟩
      else [])
  ++ e.v.map (fun i => ⟨6,  0x4000 + 256 * i, 0x4000 + 256 * i, 256, (mget 0 k.v i).toNat, k.bad (.v i)⟩)
  ++ e.acc.flatMap (fun t => (List.range 16384).map fun i =>
      ⟨7, 0x84000 + 0x20000 * t, 0x84000 + 0x20000 * t + 8 * i, 8, (mget {} q.elems (t * 16384 + i)).word, q.tileMarks.any fun p => p.1 == t * 16384 + i⟩)
  ++ e.vault.flatMap fun r => (List.range r.2.1).map fun i =>
      let a := vaultPa c (64 * (r.1 + i))
      ⟨8, r.2.2, r.2.2 + 64 * i, 64, s.rd a 64, s.poisoned a 64⟩

/-- Pieces written in order up to the first poisoned one: the state, the rows written, and the offset of the first byte of the
register, tile or range which that piece is of (R107), with its own. DESIGN CHOICE: a row counts as written from its first
piece on (log 90). -/
def writeParts (s : State) (pa rows : Nat) : List Part8 → State × Nat × Option (Nat × Nat)
  | [] => (s, rows, none)
  | p :: t =>
    if p.bad then (s, rows, some (p.first, p.off))
    else writeParts (s.wr (pa + p.off) p.n p.val) pa (rows ||| 2 ^ p.row) t

/-! Saving. -/

/-- The launch whose spill pool has a slot in use at an address. -/
def State.launchAt (s : State) (pa : Nat) : Option Nat :=
  (s.pkg.launches.find? fun p =>
    p.2.poolPa ≤ pa && mget false p.2.used ((pa - p.2.poolPa) / p.2.hdr.slotBytes)
      && (pa - p.2.poolPa) % p.2.hdr.slotBytes == 0).map (·.1)

/-- A record pushed on its stack's resume list (R104, R110). -/
def State.pushResume (s : State) (c pa : Nat) : State :=
  s.modStk (stackOf c) fun k => { k with resume := k.resume ++ [pa] }

/-- A live-range entry as it can be read: pending, unreadable with its trap code and the address that its event gives, or its
value. -/
inductive EntryRead
  | wait (va : BitVec 64)
  | bad (code : Nat) (a : BitVec 64)
  | ok (e : Nat)

/-- The live-range entry `id` of a context's launch (R117, R109). -/
def readEntry (s : State) (c x id : Nat) : EntryRead :=
  match (s.ctx c x).strand with
  | none => .ok 0
  | some st =>
    let va := (s.hdrOf st).live + BitVec.ofNat 64 (128 * id)
    match s.xslot c x va false with
    | .miss => .wait va
    | .bad code => .bad code va
    | .ok pa => if s.poisoned pa 128 then .bad 0x10 (ueMem pa) else .ok (s.rd pa 128)

/-- The read of a live-range entry meets the errors of its words (R377). -/
def State.meetEntry (s : State) (c x id : Nat) : State :=
  match (s.ctx c x).strand with
  | none => s
  | some st =>
    match s.xslot c x ((s.hdrOf st).live + BitVec.ofNat 64 (128 * id)) false with
    | .ok pa => s.meetAll [(pa, 128)]
    | _ => s

/-- The strand ends in state 5 because its entry cannot be read, with the event of R117: the virtual address of a page fault,
the place of uncorrectable data (R399). -/
def State.entryFail (s : State) (c x code slot : Nat) (va : BitVec 64) : State :=
  let pa := match (s.ctx c x).strand with | some st => st.slot | none => 0
  let s1 :=
    if code = 0x10 then s.mcheck (stackOf c) c (s.ctxFlags c x) va 2
    else s.post ⟨3, 0, c, s.ctxFlags c x, va, BitVec.ofNat 64 pa, BitVec.ofNat 64 code, none⟩
  s1.endStrand c x 5 code slot 0

/-- Whether a save must still wait (R108): for listed landing slots, pending results, accesses and race reports of the
strand, the beat FIFO, and its channels. -/
def saveWaits (s : State) (c x pa : Nat) (e : Live) : Bool :=
  let k := s.ctx c x
  e.la.any (fun i => (k.slot i).st == .pending) || !k.pend.isEmpty || s.unperformed c x || !(s.core c).fifo.isEmpty
    || (s.chansOf c pa).any fun ch =>
        let h := s.chan c ch
        h.state == 1 && (h.arriving || h.sent || !(h.gather && h.msgs.isEmpty && (e.chans || h.queue.isEmpty)))

/-- A channel's halt (R247): its claim retires, and it makes no arrival. -/
def State.haltChan (s : State) (c ch code side : Nat) (addr : BitVec 64) : State :=
  (s.dropChanMsgs c ch).modCore c fun k =>
    { k with
      chans := mset ch { (mget {} k.chans ch).fresh with state := 2, fcode := code, fside := side, faddr := addr, msgs := [],
                                                         arriving := false } k.chans
      score := k.score.filter fun e => e.owner != .chan ch }

/-- A record of trim retries, when there were any (R238, R288). -/
def State.trimRecord (s : State) (c ch : Nat) : State :=
  let h := s.chan c ch
  if h.trims = 0 then s else (s.stat c h.owner 2 ch 6 h.trims h.pc).setChan c ch { h with trims := 0 }

/-- The strand's channels at a save (R108, R248): gather channels halt with SAVED when channels are saved; otherwise a
gather channel that waits on an empty queue and a halted one are cancelled. DESIGN CHOICE: a channel halted with SAVED shows
FSIDE 0 and FADDR its SRCB (log 113). -/
def saveChans (s : State) (c pa : Nat) (e : Live) : State :=
  (s.chansOf c pa).foldl (fun t ch =>
    let h := t.chan c ch
    if e.chans then
      if h.state = 1 then ((t.haltChan c ch 0x84 0 h.srcb).trimRecord c ch).modCore c fun k =>
        { k with chans := mset ch { (mget {} k.chans ch) with queue := [] } k.chans }
      else t
    else if h.state = 1 ∨ h.state = 2 then t.idleChan c ch
    else t) s

/-- The record and its context after a save: PC and state, CKID, TAPE.PTR, JOINW; the context is free (R92, R96). A save of the
lead strand clears every face slice (R256). -/
def commitSave (s : State) (c x : Nat) (st : Strand) (sv : Save) (state : Nat) : State :=
  let k := s.ctx c x
  let old := s.rd (st.slot + 44) 4
  let id := match sv.entry with
    | some e => e
    | none => if old = 2 ^ 32 - 1 then 0 else old
  let s1 := (s.setRec st.slot k.pc state).wr (st.slot + 40) 8 (sv.info % 2 ^ 32 + id * 2 ^ 32)
  let s2 := (s1.wr (st.slot + 48) 8 k.tapePtr.toNat).wr (st.slot + 56) 8 (st.out + 2 ^ 32 * st.fault + 2 ^ 48 * st.kill)
  let s3 := { (s2.unmarkChans c st.slot) with home := mset st.slot c s2.home }
  let s4 := if s.isDrone c x then s3 else s3.modCore c fun k => k.clearFaces 255
  (s4.release c).modCtx c x Ctx.vacate

/-- Entries of a core's deque: 32 in hardware and 1,024 in row 8,191 (R111). -/
def dequeCap : Nat := 1056

/-- Where a saved strand goes (R94, R114, R116, R132). -/
def placeSaved (s : State) (c x : Nat) (st : Strand) (kind : SaveKind) : State :=
  match kind with
  | .ckpt => s.pushResume c st.slot
  | .yield =>
    if (s.deque c).length < dequeCap then s.setDeque c (s.deque c ++ [st.slot])
    else s.pushResume c st.slot
  | .join => if st.out = 0 then (s.wr st.slot 1 (s.rd st.slot 1 / 64 * 64 + 7)).pushResume c st.slot else s
  | .fault => s
  | .swap => (s.pushResume c st.slot).modCore c fun k => { k with lead := 1 - x, swapReq := false, swap := 2 }

/-- The state code a save commits (R94). -/
def SaveKind.code : SaveKind → Nat
  | .join => 3
  | .fault => 2
  | _ => 7

/-- The image written, up to the first piece that holds uncorrectable data (R106, R107, R123). -/
def writeImage (s : State) (c x : Nat) (st : Strand) (e : Live) : State × Option Nat :=
  let k := s.ctx c x
  let fixed := fixedPart s c x ++ (List.range 32).map fun i =>
    (0x200 + 2 * i, 2, if e.la.contains i && (k.slot i).st == .full then 0x8000 else 0)
  let s1 := fixed.foldl (fun t p => t.wr (st.slot + p.1) p.2.1 p.2.2) s
  let (s2, rows, bad) := writeParts s1 st.slot 3 (imageParts s c x st.slot e)
  ((s2.wr (st.slot + 0x240) 8 ((bad.map (·.1)).getD 0)).wr (st.slot + 0x248) 8 rows, bad.map (·.2))

/-- A save whose waits are over. DESIGN CHOICE: the machine check of a part that holds uncorrectable data gives as its address the
place of the part in the spill slot (log 90). -/
def finishSave (s : State) (c x : Nat) (st : Strand) (sv : Save) (e : Live) : State :=
  let s1 := saveChans (s.meetAll (e.vault.map fun r => (vaultPa c (64 * r.1), 64 * r.2.1))) c st.slot e
  let (s2, bad) := writeImage s1 c x st e
  match bad with
  | some off =>
    (s2.mcheck (stackOf c) c (s.ctxFlags c x) (ueMem (st.slot + off)) 2).endStrand c x 5 0x10 7 0
  | none => placeSaved (commitSave s2 c x st sv sv.kind.code) c x st sv.kind

/-- STRAND_SAVE_DONE (R108): one step of a save in progress. It reads its entry, waits, for the stamp scrubber too (R350), or
writes the image. -/
def saveStep (s : State) (c x : Nat) : State :=
  let s1 := settle s c x
  let k := s1.ctx c x
  match k.save, k.strand with
  | some sv, some st =>
    let s0 := match sv.entry with | some id => s1.meetEntry c x id | none => s1
    let h := s0.hdrOf st
    match (match sv.entry with | some id => readEntry s0 c x id | none => EntryRead.ok 0) with
    | .wait va => s0.askTlb c 0 x (s0.asid c x) va false false
    | .bad code va => s0.entryFail c x code 7 va
    | .ok v =>
      let e := match sv.entry with | some _ => Live.ofNat v | none => Live.full h.cube
      if h.slotBytes < e.extent then s0.endStrand c x 5 9 7 0
      else if saveWaits s0 c x st.slot e || s0.relHeld c then s0
      else finishSave s0 c x st sv e
  | _, _ => s1

def execStrandSaveDone (c x : Nat) (s : State) : Host.Outcome State Fault Refusal :=
  if s.hasCore c ∧ x < 2 then .next (saveStep s c x) else .fault .noUnit

/-- A save begins: the context issues nothing more, and a running CUBE stops (R108). -/
def State.beginSave (s : State) (c x : Nat) (kind : SaveKind) (entry : Option Nat) (info : Nat) : State :=
  (s.stopCube c x 2).modCtx c x fun k => { k with save := some ⟨kind, entry, info⟩ }

/-! Starting and restoring. -/

/-- The checkpoint timer's load (R116). -/
def Header.ckptLoad (h : Header) : Nat := h.ckpti * 4000

/-- A context that begins a strand with everything at its start value (R97); counters and trap registers stay. -/
def Ctx.start (k : Ctx) (st : Strand) (pc arg : BitVec 64) (h : Header) : Ctx :=
  { strand := some st, pc := pc, s := mset 1 arg [], ckpt := h.ckptLoad, cyc := k.cyc,
    trapPc := k.trapPc, trapInfo := k.trapInfo, trapAddr := k.trapAddr, scr := k.scr,
    frzLand := k.frzLand, frzReg := k.frzReg, frzScor := k.frzScor, frzHeat := k.frzHeat, frzSync := k.frzSync }

/-- The strand of a record (R92), in launch l. -/
def State.strandAt (s : State) (l pa : Nat) (tags : List (Nat × Nat)) : Strand :=
  { slot := pa, wid := BitVec.ofNat 64 (s.rd (pa + 8) 8), launch := l, hdr := BitVec.ofNat 64 (s.rd (pa + 16) 8)
    pjoin := s.rd (pa + 32) 8, out := s.rd (pa + 56) 4, fault := s.rd (pa + 60) 2, kill := s.rd (pa + 62) 2, tags := tags }

/-- A context takes a record (R94, R96): it runs from then on. A strand that has never run starts at once, an acquire of
its FORK's release (R113); another is restored first, of everything. -/
def State.take (s : State) (c x l pa : Nat) : State :=
  let w := s.rd pa 8
  let tags := match s.pkg.forkTags.find? fun p => p.1 == pa with | some p => p.2 | none => []
  let st := s.strandAt l pa tags
  let h := (s.launch l).hdr
  let never := s.rd (pa + 44) 4 == 2 ^ 32 - 1
  let pc := BitVec.ofNat 64 (w / 64 * 64)
  let s1 := { s.setRec pa pc 1 with home := mset pa c s.home }
  let s2 := s1.modPkg fun p => { p with forkTags := p.forkTags.filter fun q => q.1 != pa }
  let s3 := s2.modCtx c x fun k =>
    { k.start st pc (BitVec.ofNat 64 (s.rd (pa + 48) 8)) h with
      restore := if never then none else some (w % 64), priv := (s.launch l).supv }
  if never then s3.acquireTags c tags else s3

/-- The fixed part as a restore reads it. -/
def fixedWord (s : State) (pa off : Nat) : Nat := s.rd (pa + off) 8

/-- Whether the fixed part's checks hold, the format registers apart (R109). -/
def fixedOk (s : State) (c pa : Nat) : Bool :=
  let m := MxProg.ofWord (fixedWord s pa 0x90)
  let regs := (List.range 8).map fun i => (i, s.rd (pa + 0x100 + 32 * i) 32)
  let cache := regs.map fun p => (p.1, DRegion.ofWords p.2)
  fixedWord s pa 0x40 ≤ 4 && fixedWord s pa 0x60 ≤ 6 && fixedWord s pa 0x50 < 32
    && fixedWord s pa 0x58 / 2 ^ 11 == 0 && fixedWord s pa 0x58 / 32 % 8 == 0 && fixedWord s pa 0x78 ≤ 1
    && tapeLegal (fixedWord s pa 0x88)
    && (m.phase == 0 || (m.phase == 2 && m.sd ≤ 58 && m.mask != 0 && m.af ≤ 5 && m.bf ≤ 5 && m.mode ≤ 2
          && (m.mode != 2 || m.tile == 0)))
    && fixedWord s pa 0x70 % 64 == 0
    && regs.all fun p =>
        let (r, zero) := parseRegion c p.2
        p.2 / 2 ^ 127 % 2 == 0
          || (r.len != 0 && zero && !r.bad c && !cache.any fun q => q.1 != p.1 && q.2.valid && q.2.meets r)

/-- Whether the format registers of the image are legal (R22). -/
def fixedFmtOk (s : State) (pa : Nat) : Bool :=
  (List.range 8).all fun i => fmtLegal (BitVec.ofNat 32 (s.rd (pa + 0xA0 + 4 * i) 4))

/-- The mark of a register restored from poisoned memory. -/
def imageMark (s : State) (pa n : Nat) : Option Mark := if s.poisoned pa n then some ⟨0x10, BitVec.ofNat 64 pa⟩ else none

/-- A saved landing slot: Full with the arrival cycle of the restore, or free (R108). -/
def restoreLa (s : State) (pa cyc i : Nat) : List (Nat × La) :=
  if s.rd (pa + 0x200 + 2 * i) 2 / 2 ^ 15 = 1 then
    [(i, { st := .full, arr := cyc, data := BitVec.ofNat 2048 (s.rd (pa + 0x800 + 256 * i) 256),
           mark := imageMark s (pa + 0x800 + 256 * i) 256 })]
  else []

/-- The context's registers from the image (R106, R107). DESIGN CHOICE: for R66 a mask that is restored counts as written at the
context cycle of the restore, and the zero masks of a strand's start as written long before (log 111). -/
def restoreCtx (s : State) (k : Ctx) (pa : Nat) (e : Live) : Ctx :=
  let k1 : Ctx :=
    { k with
      rep := s.rd (pa + 40) 4 / 2 ^ 21 % 64
      rnd := fixedWord s pa 0x40
      srseed := BitVec.ofNat 64 (fixedWord s pa 0x48)
      nfs := BitVec.ofNat 5 (fixedWord s pa 0x50)
      stat := BitVec.ofNat 5 (fixedWord s pa 0x58)
      shape := fixedWord s pa 0x60
      loopCnt := BitVec.ofNat 64 (fixedWord s pa 0x68)
      loopEnd := BitVec.ofNat 64 (fixedWord s pa 0x70)
      rev := fixedWord s pa 0x78 == 1
      tapeBase := BitVec.ofNat 64 (fixedWord s pa 0x80)
      tapeSize := BitVec.ofNat 27 (fixedWord s pa 0x88)
      tapeFloor := BitVec.ofNat 32 (s.rd (pa + 52) 4)
      tapeTop := BitVec.ofNat 32 (s.rd (pa + 48) 4)
      mx := MxProg.ofWord (fixedWord s pa 0x90)
      restart := (MxProg.ofWord (fixedWord s pa 0x90)).phase == 2
      ckpt := fixedWord s pa 0x98
      f := (List.range 8).map fun i => (i, BitVec.ofNat 32 (s.rd (pa + 0xA0 + 4 * i) 4))
      dreg := (List.range 8).map fun i => (i, DRegion.ofWords (s.rd (pa + 0x100 + 32 * i) 32))
      s := [], restore := none
      la := e.la.flatMap (restoreLa s pa k.cyc) }
  let k2 := e.s.foldl (fun a i =>
    a.put (.s i) (BitVec.ofNat 2048 (s.rd (pa + 0x400 + 8 * i) 8)) (imageMark s (pa + 0x400 + 8 * i) 8)) k1
  let k3 := e.k.foldl (fun a i =>
    a.put (.k i) (BitVec.ofNat 2048 (s.rd (pa + 0x600 + 8 * i) 8)) (imageMark s (pa + 0x600 + 8 * i) 8)) k2
  e.v.foldl (fun a i =>
    a.put (.v i) (BitVec.ofNat 2048 (s.rd (pa + 0x4000 + 256 * i) 256)) (imageMark s (pa + 0x4000 + 256 * i) 256)) k3

/-- A saved channel's registers. -/
def savedChan (s : State) (pa ch : Nat) : Chan := Chan.ofRegs fun k => s.rd (pa + 0x2800 + 128 * ch + 8 * k) 8

/-- The channels whose saved image is not Idle (R248). -/
def savedChans (s : State) (pa : Nat) (e : Live) : List Nat :=
  if e.chans then (List.range 4).filter fun ch => (savedChan s pa ch).state != 0 else []

/-- The core's tiles and exponents that the entry lists, and its vault ranges (R108, R286). DESIGN CHOICE: what the image holds
uncorrectable, for which R109 has no check, is restored with its mark: elements, and the words of vault ranges (log 34). -/
def restoreCore (s : State) (c pa : Nat) (e : Live) : State :=
  let s1 := s.modCore c fun q =>
    { q with
      tileE := e.acc.foldl (fun m t => mset t (sgn 16 (s.rd (pa + 0xC0 + 2 * t) 2)) m) q.tileE
      elems := e.acc.foldl (fun m t => (List.range 16384).foldl (fun m i =>
        mset (t * 16384 + i) (Elem.ofWord (s.rd (pa + 0x84000 + 0x20000 * t + 8 * i) 8)) m) m) q.elems
      tileMarks := e.acc.foldl (fun m t => (List.range 16384).foldl (fun m i =>
          match imageMark s (pa + 0x84000 + 0x20000 * t + 8 * i) 8 with
          | some a => mset (t * 16384 + i) a m
          | none => m) m) (q.tileMarks.filter fun p => !e.acc.contains (p.1 / 16384)) }
  e.vault.foldl (fun t r => (List.range r.2.1).foldl (fun t i =>
    let a := vaultPa c (64 * (r.1 + i))
    let t1 := t.wr a 64 (s.rd (pa + r.2.2 + 64 * i) 64)
    (List.range 8).foldl (fun u j => if s.poisoned (pa + r.2.2 + 64 * i + 8 * j) 8 then u.setPoison (a + 8 * j) 8 else u) t1)
    t) s1

/-- The bitmap and fault address of a restored channel, which the copy engine's rules give (R248). -/
def restoreChans (s : State) (c x pa : Nat) (e : Live) (fix : Chan → Chan) : State :=
  (savedChans s pa e).foldl (fun t ch =>
    let h := savedChan s pa ch
    t.setChan c ch (fix { h with owner := x, mark := some pa, bitmap := if h.state = 3 then BitVec.allOnes 512 else 0 })) s

/-- STRAND_RESTORE (R109): one step of a restore. `fix` is the copy engine's part of a channel's restore. -/
def restoreStep (s0 : State) (c x : Nat) (fix : Chan → Chan) : State :=
  let k := s0.ctx c x
  match k.restore, k.strand with
  | some was, some st =>
    let pa := st.slot
    let s1 := s0.meetAll [(pa, 0x400)]
    let s := if was = 2 then s1 else s1.meetEntry c x (s1.rd (pa + 44) 4)
    if !fixedOk s c pa then s.endStrand c x 5 1 0 0
    else if !fixedFmtOk s pa then s.endStrand c x 5 0x0E 0 0
    else
      let full := was == 2
      match (if full then EntryRead.ok 0 else readEntry s c x (s.rd (pa + 44) 4)) with
      | .wait va => s.askTlb c 0 x (s.asid c x) va false false
      | .bad code va => s.entryFail c x code 0 va
      | .ok v =>
        let e := if full then Live.full (s.hdrOf st).cube else Live.ofNat v
        if (savedChans s pa e).any fun ch => (s.chan c ch).state == 1 then
          s.modCtx c x fun k => { k with frozen := some .sync }
        else
          let t := s.meetAll (e.ranges.map fun r => (pa + r.1, r.2))
          ((restoreChans (restoreCore t c pa e) c x pa e fix).modCtx c x fun k => restoreCtx t k pa e).acquireAll c
  | _, _ => s0

/-! The checkpoint timer. -/

/-- CKPT_TIMER_EXPIRE (R118): a lead strand whose timer has run out ends in state 5. -/
def execCkptTimerExpire (c x : Nat) (s : State) : Host.Outcome State Fault Refusal :=
  if s.hasCore c ∧ x < 2 then
    let k := s.ctx c x
    match k.strand with
    | some st =>
      .next (if k.ckpt = 0 ∧ (s.hdrOf st).ckpti ≠ 0 ∧ !s.isDrone c x ∧ !k.trapm then s.endStrand c x 5 0x11 0 k.rep else s)
    | none => .next s
  else .fault .noUnit

end Sys2Proof.Machine
end

