-- ==== Sys2Proof/Machine/Link.lean ====
section
/-! DEFINITION. What the package sends on the fabric: message channels (R417), reachability (R434), packets (R418, R439), and
the stores and loads of contexts through fabric windows (R415, R416). -/

namespace Sys2Proof.Machine

/-- The CHAN of a copy channel and of a context's stores and reads (R417). -/
def copyChan (c ch : Nat) : Nat := 4 * c + ch
def storeChan (c x : Nat) : Nat := 512 + 4 * c + x

/-- Own rank and its validity (R413). -/
def Pkg.rankNo (p : Pkg) : Nat := bitsOf p.fabId 9 0
def Pkg.rankValid (p : Pkg) : Bool := p.fabId.getLsbD 63

/-- Whether a rank is unreachable (R434). -/
def State.unreachable (s : State) (r : Nat) : Bool :=
  let k := s.rank r
  !k.v || k.fenced || 2 ≤ k.kind || !(s.group k.group).fabricUp

/-- Whether a rank's group refuses new traffic before a personality switch (R436). -/
def State.quiescing (s : State) (r : Nat) : Bool :=
  let k := s.rank r
  let g := s.group k.group
  k.v && !k.fenced && k.kind < 2 && (g.pers == 1 || g.pers == 2) && (g.state == 2 || g.state == 3)

/-- The governor step that packets carry: the largest of the released stacks (R439). -/
def State.ownGstep (s : State) : Nat :=
  (List.range 4).foldl (fun m t => if (s.stk t).released then max m (s.stk t).govStep else m) 0

/-! Packets on the wire (R418). -/

/-- The 32 bytes of a packet's header. -/
def headerBytes (p : Packet) : List (BitVec 8) :=
  toBytes p.opc 1 ++ toBytes (p.flags % 64) 1 ++ toBytes (p.gstep % 8 + p.rop % 8 * 8) 1 ++ toBytes (p.rwin % 64) 1
    ++ toBytes (p.src % 1024) 2 ++ toBytes (p.dst % 1024) 2 ++ toBytes (p.chan % 1024) 2 ++ toBytes p.msgid 2
    ++ toBytes (p.psn % 2 ^ 24) 4 ++ toBytes ((p.len - 1) % 512) 2 ++ toBytes p.steptag 2 ++ toBytes p.offset 5
    ++ toBytes p.reason 1 ++ toBytes 0 6

/-- What follows the header: nothing after a trimmed one, the contributor bitmap of an INCOMPLETE RESULT, or the payload. -/
def bodyBytes (p : Packet) : List (BitVec 8) :=
  if p.flags % 2 = 1 then []
  else if p.opc = 7 ∧ p.flags / 2 % 2 = 1 then toBytes p.bitmap.toNat 32
  else p.payload

/-- A packet as its bytes. -/
def wireBytes (p : Packet) : List (BitVec 8) := headerBytes p ++ bodyBytes p

/-- The packet that bytes carry. An ACK has no length. -/
def packetOf (bs : List (BitVec 8)) : Packet :=
  let f (at' n : Nat) : Nat := ofBytes ((bs.drop at').take n)
  let opc := f 0 1
  let rest := bs.drop 32
  let bm := opc = 7 ∧ f 1 1 / 2 % 2 = 1
  { opc := opc, flags := f 1 1, gstep := f 2 1 % 8, rop := f 2 1 / 8 % 8, rwin := f 3 1 % 64, src := f 4 2 % 1024
    dst := f 6 2 % 1024, chan := f 8 2 % 1024, msgid := f 10 2, psn := f 12 4 % 2 ^ 24
    len := if opc = 5 then 0 else f 16 2 % 512 + 1, steptag := f 18 2, offset := f 20 5, reason := f 25 1
    payload := if bm then [] else rest, bitmap := if bm then BitVec.ofNat 256 (ofBytes rest) else 0 }

/-- The port that a rank entry leads to (R412, R432): a group and, of a two-port group, which of its ports. -/
def State.portVia (s : State) (k : Rank) : Nat := 2 * k.group + (if (s.group k.group).mode = 1 then k.port else 0)

/-- The port that a rank is reached through. -/
def State.portOf (s : State) (r : Nat) : Nat := s.portVia (s.rank r)

/-- The next packet sequence number of a port. -/
def Pkg.nextPsn (p : Pkg) (port : Nat) : Nat := mget 0 p.psn port

/-- A packet leaves, with the next packet sequence number of its port. A REREQ carries the number of the packet that it names, and
takes none (R422). Without a rank of its own the package sends nothing (R413). -/
def State.sendPacketVia (s : State) (p : Packet) (port : Nat) : State :=
  if !s.pkg.rankValid then s
  else
    let n := s.pkg.nextPsn port
    let q : Packet := { p with src := s.pkg.rankNo, gstep := s.ownGstep, psn := if p.opc = 6 then p.psn else n }
    s.modPkg fun k => { k with psn := if p.opc = 6 then k.psn else mset port ((n + 1) % 2 ^ 24) k.psn, out := k.out ++ [q] }

/-- A packet leaves through the port that its rank's entry gives. -/
def State.sendPacket (s : State) (p : Packet) : State := s.sendPacketVia p (s.portOf p.dst)

/-- The packet of a message. -/
def SentMsg.packet (m : SentMsg) (data : List (BitVec 8)) : Packet :=
  { opc := m.opc, flags := if m.untagged then 32 else 0, gstep := 0, rop := m.rop, rwin := m.rwin, src := 0, dst := m.rank
    chan := m.chan, msgid := m.msgid, psn := 0, len := m.len, steptag := m.steptag, offset := m.offset, reason := 0
    payload := data, bitmap := 0 }

/-- Messages of a channel that are not acknowledged. -/
def State.inFlight (s : State) (chan : Nat) : Nat := (s.pkg.sent.filter fun m => m.chan == chan).length

/-- A message sent for the first time. -/
def State.sendFab (s : State) (m : SentMsg) : State :=
  (s.sendPacket (m.packet m.data)).modPkg fun k => 
    { k with sent := k.sent ++ [{ m with psn := s.pkg.nextPsn (s.portOf m.rank), via := s.rank m.rank }] }

/-- Whether message id a precedes b in a channel (R417). -/
def idBefore (a b : Nat) : Bool := let d := (b + 65536 - a) % 65536; 1 ≤ d && d < 32768

/-- The message id that a channel's next message to a rank carries: each peer sees its ids consecutive (R242, R417, log 58). -/
def Pkg.nextId (p : Pkg) (chan r : Nat) : Nat := mget 0 p.nextIds (1024 * r + chan)

/-- That id moves on (R417). -/
def State.passIds (s : State) (chan r next : Nat) : State :=
  if idBefore (s.pkg.nextId chan r) next then s.modPkg fun p => { p with nextIds := mset (1024 * r + chan) next p.nextIds }
  else s

/-- A context's load or store through a fabric window (R415 to R417): sent with the next id of its channel, or waiting while
4,096 messages are unacknowledged. Its request stays in flight until the answer comes. A capture reads the
old word first, and writes when it has come (R219). -/
def State.performFab (s : State) (m : Msg) : State :=
  let chan := storeChan m.core m.x
  let r := fabRank m.pa
  let id := s.pkg.nextId chan r
  let base : SentMsg :=
    { chan := chan, rank := r, msgid := id, opc := 1, rop := 0, rwin := fabWin m.pa, steptag := 0, offset := fabOff m.pa
      len := m.op.len, untagged := false, data := [], src := none, vault := false, sentAt := s.now, tries := 0
      req := some m.id }
  let go (k : SentMsg) : State :=
    if 4096 ≤ s.inFlight chan then s
    else
      ((s.sendFab k).passIds chan r ((id + 1) % 65536)).modMsg m.id fun a => { a with st := .accepted }
  let refused := !s.pkg.rankValid || s.unreachable r
  match m.op with
  | .write bs _ => if refused then s.dropStore m 1 else go { base with untagged := true, data := bs }
  | .read _ => if refused then s.loseRead m 1 else go { base with opc := 3 }
  | .capture _ _ => if refused then s.loseCapture m 1 else go { base with opc := 3 }
  | _ => s

end Sys2Proof.Machine
end

