-- ==== Sys2Proof/Machine/Nest.lean ====
section
/-! DEFINITION. The loop nest of a copy channel: its iterations (R229), destination hull and chunk bitmap (R231), completion
(R238), halts (R246, R247) and claims (R200, R234). -/

namespace Sys2Proof.Machine

/-! Iterations. -/

/-- Count of a level, and length of an iteration (R229). -/
def Chan.n (h : Chan) (l : Nat) : Nat := h.cntOf l + 1
def Chan.len (h : Chan) : Nat := h.lenm1 + 1

/-- Iterations of the nest. -/
def Chan.total (h : Chan) : Nat := ((List.range 6).map h.n).prod

/-- Levels from the most significant, as count, stride and index, of the destination. -/
def Chan.levels (h : Chan) : List (Nat × Int × Nat) := [5, 4, 3, 2, 1, 0].map fun l => (h.n l, h.dstrOf l, h.idxOf l)

/-- Linear addresses of a side: modulo 2^26 in a vault, else 2^64 (R229). -/
def Chan.dstBits (h : Chan) : Nat := if h.dsp = 1 then 26 else 64
def Chan.dstLin (h : Chan) : Int := if h.dsp = 1 then vpLin h.dstb else h.dstb.toNat

/-- The offset that the indices give, with one side's strides. -/
def Chan.offset (h : Chan) (str : Nat → Int) : Int :=
  (List.range 6).foldl (fun a l => a + (h.idxOf l : Int) * str l) 0

/-- The linear destination of the present iteration. -/
def Chan.dst (h : Chan) : Nat := ((h.dstLin + h.offset h.dstrOf) % 2 ^ h.dstBits).toNat

/-- A pointer with an offset added within its vault. -/
def vpAdd (p : BitVec 64) (o : Int) : BitVec 64 := mkVp (vpVault p) (((vpLin p : Int) + o) % 2 ^ 26).toNat

/-- The source address of the present iteration; a gather entry stands for the strides (R241). -/
def Chan.srcAddr (h : Chan) (entry : BitVec 64) : BitVec 64 :=
  let o : Int := if h.gather then entry.toInt else h.offset h.sstrOf
  if h.ssp = 1 then vpAdd h.srcb o else h.srcb + BitVec.ofInt 64 o

/-- Iterations whose fabric messages are not yet acknowledged: their index entries are the first of the queue (R241, R242). -/
def Chan.iters (h : Chan) : Nat := (h.msgs.map (·.idx)).eraseDups.length

/-- The index entry of the present iteration, if it has been pushed. -/
def Chan.entry (h : Chan) : BitVec 64 := (((h.queue.drop h.iters).head?).bind id).getD 0

/-- n index entries leave the queue with their iterations (R241). -/
def Chan.popEntries (h : Chan) (n : Nat) : Chan :=
  match (h.queue.take n).getLast? with
  | some e => { h with queue := h.queue.drop n, last := e }
  | none => h

/-- The destination address of the present iteration. -/
def Chan.dstAddr (h : Chan) : BitVec 64 :=
  if h.dsp = 1 then vpAdd h.dstb (h.offset h.dstrOf) else h.dstb + BitVec.ofInt 64 (h.offset h.dstrOf)

/-- Whether the channel runs its iterations in reverse (R244). -/
def Chan.backward (h : Chan) : Bool := h.dflag && h.rev

/-- The indices after the present ones, least significant level first; none after the last (R229). -/
def nextIdx (n : Nat → Nat) (i : NMap Nat) : Nat → Nat → Option (NMap Nat)
  | 0, _ => none
  | fuel + 1, l =>
    if mget 0 i l + 1 < n l then some (mset l (mget 0 i l + 1) i) else nextIdx n (mset l 0 i) fuel (l + 1)

/-- The indices before the present ones; none before the first. -/
def prevIdx (n : Nat → Nat) (i : NMap Nat) : Nat → Nat → Option (NMap Nat)
  | 0, _ => none
  | fuel + 1, l =>
    if 0 < mget 0 i l then some (mset l (mget 0 i l - 1) i) else prevIdx n (mset l (n l - 1) i) fuel (l + 1)

/-- The next iteration in the channel's order. -/
def Chan.after (h : Chan) : Option (NMap Nat) :=
  if h.backward then prevIdx h.n h.idx 6 0 else nextIdx h.n h.idx 6 0

/-- The first iteration in the channel's order. -/
def Chan.begin (h : Chan) : NMap Nat := (List.range 6).map fun l => (l, if h.backward then h.n l - 1 else 0)

/-! Which bytes a set of iterations writes. -/

/-- Least and greatest offset of levels with all their indices. -/
def nestMin (ls : List (Nat × Int)) : Int := ls.foldl (fun a p => a + min 0 (((p.1 : Int) - 1) * p.2)) 0
def nestMax (ls : List (Nat × Int)) : Int := ls.foldl (fun a p => a + max 0 (((p.1 : Int) - 1) * p.2)) 0

/-- The indices below n whose multiple of a positive stride lies from a to z. -/
def strideHits (n : Nat) (st a z : Int) : List Nat :=
  let lo := (max 0 (-((-a) / st))).toNat
  let hi := (min ((n : Int) - 1) (z / st) + 1).toNat
  (List.range (hi - lo)).map fun i => lo + i

/-- The same for any stride; one index stands for all when the stride is 0. -/
def indexHits (n : Nat) (st a z : Int) : List Nat :=
  if n = 0 then []
  else if st = 0 then [0]
  else if 0 < st then strideHits n st a z
  else strideHits n (-st) (-z) (-a)

/-- Whether some choice of indices brings b into [lo, hi]. -/
def nestHits : List (Nat × Int) → Int → Int → Int → Bool
  | [], b, lo, hi => decide (lo ≤ b) && decide (b ≤ hi)
  | (n, st) :: t, b, lo, hi =>
    (indexHits n st (lo - (b + nestMax t)) (hi - (b + nestMin t))).any fun i => nestHits t (b + i * st) lo hi

/-- Whether some iteration after the given indices, or before them, does. -/
def nestRest (back : Bool) : List (Nat × Int × Nat) → Int → Int → Int → Bool
  | [], _, _, _ => false
  | (n, st, i) :: t, b, lo, hi =>
    let low := t.map fun p => (p.1, p.2.1)
    (if back then nestHits ((i, st) :: low) b lo hi
     else nestHits ((n - 1 - i, st) :: low) (b + ((i : Int) + 1) * st) lo hi)
    || nestRest back t (b + i * st) lo hi

/-- The tests of a range of bytes at every address that falls on it modulo the space (R229). -/
def Chan.wraps (h : Chan) (lo hi : Nat) (test : Int → Int → Bool) : Bool :=
  let m : Int := 2 ^ h.dstBits
  let ls := h.levels.map fun p => (p.1, p.2.1)
  let a : Int := (lo : Int) - h.len + 1
  let first := (h.dstLin + nestMin ls - hi) / m
  let last := (h.dstLin + nestMax ls - a) / m
  (List.range (last - first + 1).toNat).any fun k =>
    test (a + (first + k) * m) ((hi : Int) + (first + k) * m)

/-- Whether some iteration writes a byte of [lo, hi]. -/
def Chan.touches (h : Chan) (lo hi : Nat) : Bool :=
  h.wraps lo hi fun a z => nestHits (h.levels.map fun p => (p.1, p.2.1)) h.dstLin a z

/-- Whether an iteration after the present one does. -/
def Chan.later (h : Chan) (lo hi : Nat) : Bool :=
  h.wraps lo hi fun a z => nestRest h.backward h.levels h.dstLin a z

/-- Whether bytes [d, d + n) and [lo, hi] of a space of m bytes meet. -/
def meetsMod (m d n lo hi : Nat) : Bool := (d ≤ hi && lo < d + n) || (d ≤ hi + m && lo + m < d + n)

/-- Whether the present iteration or one after it does. -/
def Chan.remains (h : Chan) (lo hi : Nat) : Bool :=
  !h.spent && (meetsMod (2 ^ h.dstBits) h.dst h.len lo hi || h.later lo hi)

/-! Hull and bitmap (R231). -/

/-- The least b for which a monotone test holds, of `bits` bits. -/
def leastBit (f : Nat → Bool) : Nat → Nat → Nat
  | 0, r => r
  | k + 1, r => leastBit f k (if f (r + 2 ^ k - 1) then r else r + 2 ^ k)

/-- The greatest b for which an antitone test holds. -/
def greatestBit (f : Nat → Bool) : Nat → Nat → Nat
  | 0, r => r
  | k + 1, r => greatestBit f k (if f (r + 2 ^ k) then r + 2 ^ k else r)

/-- Lowest and highest byte that any iteration writes. -/
def Chan.hullOf (h : Chan) : Nat × Nat :=
  (leastBit (fun b => h.touches 0 b) h.dstBits 0, greatestBit (fun b => h.touches b (2 ^ h.dstBits - 1)) h.dstBits 0)

/-- The chunk base. -/
def Chan.cb (h : Chan) : Nat := h.hull.1 / 512 * 512

/-- First and last byte of chunk j. -/
def Chan.chunkLo (h : Chan) (j : Nat) : Nat := h.cb + 512 * j
def Chan.chunkHi (h : Chan) (j : Nat) : Nat := h.cb + 512 * j + 511

/-- The bits of the chunks for which a test holds. -/
def chunkBits (f : Nat → Bool) : BitVec 512 :=
  BitVec.ofNat 512 ((List.range 512).foldl (fun v j => if f j then v + 2 ^ j else v) 0)

/-- The chunks that the bytes [d, d + n) of a space lie in. -/
def Chan.chunksOf (h : Chan) (d n : Nat) : List Nat :=
  ((List.range (n / 512 + 2)).filterMap fun i =>
    let a := (d + min (512 * i) (n - 1)) % 2 ^ h.dstBits
    if h.cb ≤ a && (a - h.cb) / 512 < 512 then some ((a - h.cb) / 512) else none).eraseDups

/-- The copy's claim: its own live bits, and one for the bytes beyond the bitmap (R234); none for a fabric destination. -/
def Chan.claim (h : Chan) (c ch asid : Nat) : Option ScoreEnt :=
  if h.dsp = 2 then none
  else
    let e : ScoreEnt :=
      { owner := .chan ch, vault := h.dsp == 1, key := if h.dsp = 1 then vaultNum c h.dstb else asid
        base := h.cb / 512, live := (~~~h.bitmap).toNat
        tailLo := h.cb + 2 ^ 18, tailHi := h.hull.2, tail := h.cb + 2 ^ 18 ≤ h.hull.2 && h.remains (h.cb + 2 ^ 18) h.hull.2 }
    if e.live = 0 && !e.tail then none else some e

/-- Chunk bits set, with the live bits of the claim (R231, R238); an entry without live bits retires. -/
def State.setChunks (s : State) (c ch : Nat) (js : List Nat) : State :=
  let h := s.chan c ch
  let bits := js.foldl (fun v j => v ||| BitVec.ofNat 512 (2 ^ j)) h.bitmap
  let tail := h.remains (h.cb + 2 ^ 18) h.hull.2
  (s.setChan c ch { h with bitmap := bits }).modCore c fun k =>
    { k with
      score := (k.score.map fun e =>
        if e.owner = .chan ch then { e with live := (~~~bits).toNat, tail := e.tail && tail } else e).filter fun e =>
        e.live != 0 || e.tail }

/-! Completion and halts. -/

/-- The strand of the context that owns a channel: the slot of its record. -/
def State.ownerSlot (s : State) (c ch : Nat) : Nat :=
  match (s.ctx c (s.chan c ch).owner).strand with
  | some st => st.slot
  | none => 0

/-- A channel halts, with its record and the event of a page fault (R246, R247, R288, R399). -/
def State.chanFault (s : State) (c ch code side : Nat) (addr : BitVec 64) : State :=
  let h := s.chan c ch
  let s1 := (s.haltChan c ch code side addr).trimRecord c ch
  let s2 := if code = 0x0C then s1.stat c h.owner 2 ch 5 1 h.pc else s1
  if code = 8 then
    s2.post ⟨3, ch + 1, c, s.ctxFlags c h.owner, addr, BitVec.ofNat 64 (s.ownerSlot c ch), BitVec.ofNat 64 code, none⟩
  else s2

/-- A gather nest ends at an end marker: its indices are again those of the last iteration performed, if it has performed one
(R238). -/
def Chan.endedByMarker (h : Chan) : Chan :=
  if h.last.isSome then { h with idx := (prevIdx h.n h.idx 6 0).getD h.idx } else h

/-- A channel whose arrival the barrier's unit refuses: Halted at its last iteration, whose index entry is at the head of the
queue again (R238, R241). -/
def State.chanRefused (s : State) (c ch : Nat) (a : BitVec 64) : State :=
  let h := s.chan c ch
  let back : List (Option (BitVec 64)) := match h.last with
    | some e => if h.gather then [some e] else []
    | none => []
  (s.setChan c ch { h with queue := back ++ h.queue }).chanFault c ch 9 1 a

/-- The end of a channel whose arrival, if it makes one, has been made (R238). -/
def State.chanComplete (s : State) (c ch : Nat) : State :=
  (s.setChan c ch { s.chan c ch with state := 3, arriving := false, queue := [] }).trimRecord c ch

/-- Every iteration has been performed: every bit is set, the claim retires, and the arrival is on its way as a release of
all the channel's writes (R238). -/
def State.chanDone (s : State) (c ch : Nat) : State :=
  let h := s.chan c ch
  let s1 := (s.setChan c ch { h with bitmap := BitVec.allOnes 512, spent := true }).modCore c fun k =>
    { k with score := k.score.filter fun e => e.owner != .chan ch }
  if h.arrive then
    let p := BitVec.ofNat 64 h.barp
    ((s1.setChan c ch { (s1.chan c ch) with arriving := true }).send
      { id := 0, core := c, x := h.owner, pa := vaultPa (vaultNum c p) (vpLin p), va := p, op := .arrive ch, dest := .none,
        st := .asked, region := (s.core c).rgCur, tags := [s.relTag c] }).release c
  else s1.chanComplete c ch

/-- After the present iteration has been performed: bits of the chunks that no later iteration writes, and the next
indices. With a fabric destination the bits wait for acknowledgements (R242). -/
def State.chanStep (s : State) (c ch : Nat) : State :=
  let h := s.chan c ch
  let js := if h.dsp = 2 then [] else (h.chunksOf h.dst h.len).filter fun j => !h.later (h.chunkLo j) (h.chunkHi j)
  let h1 : Chan :=
    match h.after with
    | some i => { h.fresh with idx := i }
    | none => { h.fresh with spent := true }
  let s1 := (s.setChan c ch h1).setChunks c ch js
  if h1.spent && h1.msgs.isEmpty then s1.chanDone c ch else s1

/-! Starting (R234, R237). -/

/-- Whether a channel's configuration fails the checks of R234 step 5. -/
def State.chanConfigBad (s : State) (c x : Nat) (h : Chan) : Bool :=
  let p := BitVec.ofNat 64 h.barp
  h.cfgerr || (h.dflag && (h.gather || h.dsp == 2))
    || (h.arrive && (s.badVp c p || vpLin p % 16 != 0 || (!s.supv c x && 8191 * 8192 ≤ vpLin p)))
    || 2 ^ 48 < h.total

/-- A channel that starts with the given indices: its hull, bitmap and claim (R231, R234, R237). Bits in `keep` stay. -/
def State.runChan (s : State) (c x ch : Nat) (h : Chan) (keep : BitVec 512) : State :=
  let h1 : Chan := { h.fresh with hull := h.hullOf, state := 1, spent := false, arriving := false, last := none }
  let h2 : Chan := { h1 with bitmap := keep ||| chunkBits fun j => !h1.remains (h1.chunkLo j) (h1.chunkHi j) }
  (s.setChan c ch h2).modCore c fun k => { k with score := k.score ++ (h2.claim c ch (s.asid c x)).toList }

end Sys2Proof.Machine
end

