-- ==== Sys2Proof/Machine/Scalar.lean ====
section
/-! DEFINITION. The instructions of slot S that act on registers alone (R156 to R168). -/

namespace Sys2Proof.Machine

/-- A register-form integer operation of two sources (R157). -/
def opRR (o : OpR) (s : State) (c x lat : Nat) (f : BitVec 64 → BitVec 64 → BitVec 64) : Sem :=
  let k := s.ctx c x
  { reads := [.s o.sa.toNat, .s o.sb.toNat]
    writes := [.s o.sd.toNat]
    eff := fun s1 => s1.resS c x o.sd (f (k.rs o.sa) (k.rs o.sb)) lat }

/-- An operation with a flag (R16, R31). -/
def opRF (o : OpR) (s : State) (c x lat : Nat) (f : BitVec 64 → BitVec 64 → BitVec 64 × Flags) : Sem :=
  let k := s.ctx c x
  let r := f (k.rs o.sa) (k.rs o.sb)
  { reads := [.s o.sa.toNat, .s o.sb.toNat]
    writes := [.s o.sd.toNat]
    eff := fun s1 => (s1.resS c x o.sd r.1 lat).setFlags c x r.2 }

/-- An immediate-form operation of one source (R158). -/
def opRI (o : OpI) (s : State) (c x : Nat) (f : BitVec 64 → BitVec 64) : Sem :=
  let k := s.ctx c x
  { reads := [.s o.sa.toNat]
    writes := [.s o.sd.toNat]
    eff := fun s1 => s1.resS c x o.sd (f (k.rs o.sa)) 1 }

/-- imm32 sign-extended (R158). -/
def sext32 (i : BitVec 32) : BitVec 64 := i.signExtend 64

/-- Bits 127:64 of a product (R157). -/
def mulHigh (signed : Bool) (a b : BitVec 64) : BitVec 64 :=
  BitVec.ofInt 64 (ival signed 64 a.toNat * ival signed 64 b.toNat / 2 ^ 64)

def divPair (signed : Bool) (a b : BitVec 64) : Nat × Nat × Flags := idiv signed 64 a.toNat b.toNat

/-! Integer operations (R157, R158). -/

def semAdd (o : OpR) (s : State) (c x : Nat) : Sem := opRR o s c x 1 (· + ·)
def semSub (o : OpR) (s : State) (c x : Nat) : Sem := opRR o s c x 1 (· - ·)
def semAddi (o : OpI) (s : State) (c x : Nat) : Sem := opRI o s c x (· + sext32 o.imm)
def semMul (o : OpR) (s : State) (c x : Nat) : Sem := opRR o s c x 3 (· * ·)
def semMulh (o : OpR) (s : State) (c x : Nat) : Sem := opRR o s c x 3 (mulHigh true)
def semMulhn (o : OpR) (s : State) (c x : Nat) : Sem := opRR o s c x 3 (mulHigh false)

def semDiv (o : OpR) (s : State) (c x : Nat) : Sem :=
  opRF o s c x 20 fun a b => (BitVec.ofNat 64 (divPair true a b).1, (divPair true a b).2.2)

def semDivn (o : OpR) (s : State) (c x : Nat) : Sem :=
  opRF o s c x 20 fun a b => (BitVec.ofNat 64 (divPair false a b).1, (divPair false a b).2.2)

def semRem (o : OpR) (s : State) (c x : Nat) : Sem :=
  opRF o s c x 20 fun a b => (BitVec.ofNat 64 (divPair true a b).2.1, (divPair true a b).2.2)

def semRemn (o : OpR) (s : State) (c x : Nat) : Sem :=
  opRF o s c x 20 fun a b => (BitVec.ofNat 64 (divPair false a b).2.1, (divPair false a b).2.2)

def semAnd (o : OpR) (s : State) (c x : Nat) : Sem := opRR o s c x 1 (· &&& ·)
def semOr (o : OpR) (s : State) (c x : Nat) : Sem := opRR o s c x 1 (· ||| ·)
def semXor (o : OpR) (s : State) (c x : Nat) : Sem := opRR o s c x 1 (· ^^^ ·)
def semAndi (o : OpI) (s : State) (c x : Nat) : Sem := opRI o s c x (· &&& sext32 o.imm)
def semOri (o : OpI) (s : State) (c x : Nat) : Sem := opRI o s c x (· ||| sext32 o.imm)
def semXori (o : OpI) (s : State) (c x : Nat) : Sem := opRI o s c x (· ^^^ sext32 o.imm)
def semShl (o : OpR) (s : State) (c x : Nat) : Sem := opRR o s c x 1 fun a b => a <<< (b.toNat % 64)
def semShr (o : OpR) (s : State) (c x : Nat) : Sem := opRR o s c x 1 fun a b => a >>> (b.toNat % 64)
def semSha (o : OpR) (s : State) (c x : Nat) : Sem := opRR o s c x 1 fun a b => a.sshiftRight (b.toNat % 64)
def semShli (o : OpI) (s : State) (c x : Nat) : Sem := opRI o s c x (· <<< (o.imm.toNat % 64))
def semShri (o : OpI) (s : State) (c x : Nat) : Sem := opRI o s c x (· >>> (o.imm.toNat % 64))
def semShai (o : OpI) (s : State) (c x : Nat) : Sem := opRI o s c x (·.sshiftRight (o.imm.toNat % 64))
def semRoti (o : OpI) (s : State) (c x : Nat) : Sem := opRI o s c x (·.rotateRight (o.imm.toNat % 64))
def semMin (o : OpR) (s : State) (c x : Nat) : Sem := opRR o s c x 1 fun a b => if a.toInt ≤ b.toInt then a else b
def semMax (o : OpR) (s : State) (c x : Nat) : Sem := opRR o s c x 1 fun a b => if a.toInt ≤ b.toInt then b else a
def semMinn (o : OpR) (s : State) (c x : Nat) : Sem := opRR o s c x 1 fun a b => if a.toNat ≤ b.toNat then a else b
def semMaxn (o : OpR) (s : State) (c x : Nat) : Sem := opRR o s c x 1 fun a b => if a.toNat ≤ b.toNat then b else a
def semClz (o : OpR) (s : State) (c x : Nat) : Sem := opRR o s c x 1 fun a _ => BitVec.ofNat 64 (clz64 a)
def semPopc (o : OpR) (s : State) (c x : Nat) : Sem := opRR o s c x 1 fun a _ => BitVec.ofNat 64 (popc64 a)
def semMovi (o : OpI) (s : State) (c x : Nat) : Sem := opRI o s c x fun _ => sext32 o.imm

def semMovhi (o : OpI) (s : State) (c x : Nat) : Sem :=
  opRI o s c x fun a => (o.imm.setWidth 64 <<< 32) ||| (a &&& 0xFFFFFFFF)

/-- SEL (R157): the modifier names the mask. -/
def semSel (o : OpR) (s : State) (c x : Nat) : Sem :=
  let k := s.ctx c x
  let m := o.md.setWidth 4
  { reads := [.s o.sa.toNat, .s o.sb.toNat, .k m.toNat]
    writes := [.s o.sd.toNat]
    eff := fun s1 => s1.resS c x o.sd (if (k.rk m).getLsbD 0 then k.rs o.sa else k.rs o.sb) 1 }

/-- BFX (R159). -/
def semBfx (o : OpI) (s : State) (c x : Nat) : Sem :=
  opRI o s c x fun a =>
    let len := bitsOf o.imm 13 8 + 1
    let f := a.toNat / 2 ^ bitsOf o.imm 5 0 % 2 ^ len
    if o.imm.getLsbD 16 then BitVec.ofInt 64 (sgn len f) else BitVec.ofNat 64 f

/-- BFI (R159): the old sd is a source. -/
def semBfi (o : OpI) (s : State) (c x : Nat) : Sem :=
  let k := s.ctx c x
  let mask : BitVec 64 := BitVec.ofNat 64 ((2 ^ (bitsOf o.imm 13 8 + 1) - 1) * 2 ^ bitsOf o.imm 5 0)
  { reads := [.s o.sa.toNat, .s o.sd.toNat]
    writes := [.s o.sd.toNat]
    eff := fun s1 =>
      s1.resS c x o.sd ((k.rs o.sd &&& ~~~mask) ||| ((k.rs o.sa <<< bitsOf o.imm 5 0) &&& mask)) 1 }

/-! Compares (R160). -/

def semCmp (o : OpC) (s : State) (c x : Nat) : Sem :=
  let k := s.ctx c x
  let sb : BitVec 6 := BitVec.ofNat 6 (bitsOf o.rest 35 30)
  { reads := [.s o.sa.toNat, .s sb.toNat]
    writes := [.k o.kd.toNat]
    eff := fun s1 => s1.resK c x o.kd (maskOf (scalarCond o.cond.toNat (k.rs o.sa) (k.rs sb))) }

def semCmpi (o : OpC) (s : State) (c x : Nat) : Sem :=
  let k := s.ctx c x
  { reads := [.s o.sa.toNat]
    writes := [.k o.kd.toNat]
    eff := fun s1 => s1.resK c x o.kd (maskOf (scalarCond o.cond.toNat (k.rs o.sa) (o.rest.signExtend 64))) }

def semFcmp (o : OpC) (s : State) (c x : Nat) : Sem :=
  let k := s.ctx c x
  let sb : BitVec 6 := BitVec.ofNat 6 (bitsOf o.rest 35 30)
  let f (r : BitVec 6) : FVal := Fmt.f32.dec ((k.rs r).toNat % 2 ^ 32)
  let r := fCompare o.cond.toNat (f o.sa) (f sb)
  { reads := [.s o.sa.toNat, .s sb.toNat]
    writes := [.k o.kd.toNat]
    eff := fun s1 => (s1.resK c x o.kd (maskOf r.1)).setFlags c x r.2 }

/-! Scalar floating point (R161, R162). -/

/-- The float type of a modifier (R161). -/
def fmtOf (t : Nat) : Fmt :=
  match t with
  | 0 => .f32
  | 1 => .f16
  | _ => .bf16

/-- A floating operation of two or three scalars under RND. -/
def opF (o : OpR) (s : State) (c x : Nat) (three : Bool) (f : Fmt → RMode → FVal → FVal → FVal → FRes) : Sem :=
  let k := s.ctx c x
  let t := fmtOf (bitsOf o.md 3 0)
  let sc : BitVec 6 := BitVec.ofNat 6 (bitsOf o.md 9 4)
  let v (r : BitVec 6) : FVal := t.dec ((k.rs r).toNat % 2 ^ t.w)
  let r := f t k.mode (v o.sa) (v o.sb) (v sc)
  { reads := [.s o.sa.toNat, .s o.sb.toNat] ++ (if three then [.s sc.toNat] else [])
    writes := [.s o.sd.toNat]
    eff := fun s1 => (s1.resS c x o.sd (BitVec.ofNat 64 r.bits) 4).setFlags c x r.fl }

def semFadd (o : OpR) (s : State) (c x : Nat) : Sem := opF o s c x false fun t m a b _ => fAdd t m a b
def semFmul (o : OpR) (s : State) (c x : Nat) : Sem := opF o s c x false fun t m a b _ => fMul t m a b
def semFfma (o : OpR) (s : State) (c x : Nat) : Sem := opF o s c x true fun t m a b e => fFma t m a b e

/-- FCVT of one value (R162): a conversion to the same float type returns the value, or Canon of a NaN. -/
def cvtScalar (mode : RMode) (src dst : ETy) (same sat : Bool) (a : BitVec 64) : BitVec 64 × Flags :=
  let e := a.toNat % 2 ^ src.w
  let r : FRes :=
    match same, src.flt with
    | true, some f =>
      match f.dec e with
      | .nan sg => f.ofNan sg
      | _ => ⟨e, 0⟩
    | _, _ => convElem src dst mode sat 0 e
  (if dst.flt.isNone && dst.signed then BitVec.ofInt 64 (sgn dst.w r.bits) else BitVec.ofNat 64 r.bits, r.fl)

def semFcvt (o : OpR) (s : State) (c x : Nat) : Sem :=
  let k := s.ctx c x
  let d := bitsOf o.md 3 0
  let sr := bitsOf o.md 7 4
  opRF o s c x 4 fun a _ => cvtScalar k.mode (eTy sr .f32) (eTy d .f32) (d == sr) (o.md.getLsbD 8) a

/-! Masks, shape and time (R163, R164). -/

def semKmov (o : OpR) (s : State) (c x : Nat) : Sem :=
  let k := s.ctx c x
  let kd : BitVec 4 := o.sd.setWidth 4
  { reads := [.s o.sa.toNat], writes := [.k kd.toNat], eff := fun s1 => s1.resK c x kd (k.rs o.sa) }

def semKget (o : OpR) (s : State) (c x : Nat) : Sem :=
  let k := s.ctx c x
  let ka : BitVec 4 := o.sa.setWidth 4
  { reads := [.k ka.toNat], writes := [.s o.sd.toNat], eff := fun s1 => s1.resS c x o.sd (k.rk ka) 1 }

def semKpopc (o : OpR) (s : State) (c x : Nat) : Sem :=
  let k := s.ctx c x
  let ka : BitVec 4 := o.sa.setWidth 4
  { reads := [.k ka.toNat], writes := [.s o.sd.toNat]
    eff := fun s1 => s1.resS c x o.sd (BitVec.ofNat 64 (popc64 (k.rk ka))) 1 }

def semSetshape (o : OpI) (_s : State) (c x : Nat) : Sem :=
  { eff := fun s1 => s1.modCtx c x fun k => { k with shape := o.imm.toNat } }

/-- The cluster's count of reference cycles (R163). -/
def State.refCount (s : State) (c : Nat) : Nat := (s.now - (s.cluster (clusterOf c)).refBase) % 2 ^ 64

/-- The package time counter, which the -S form reads as zero (R163). -/
def State.ptimeNs (s : State) : Nat := match s.form with | .s => 0 | _ => s.pkg.ptime % 2 ^ 64

def semTimer (o : OpR) (s : State) (c x : Nat) : Sem :=
  let k := s.ctx c x
  let v := match o.md.toNat with
    | 0 => k.cyc % 2 ^ 64
    | 1 => s.refCount c
    | _ => s.ptimeNs
  { writes := [.s o.sd.toNat], eff := fun s1 => s1.resS c x o.sd (BitVec.ofNat 64 v) 1 }

/-! Branches and the hardware loop (R165 to R168). -/

/-- A taken branch to an address (R68, R165). -/
def State.branchTo (s : State) (c x : Nat) (a : BitVec 64) : State := s.modCtx c x fun k => { k with target := some a }

/-- The address off bundles from the branching bundle (R52). -/
def relTarget (pc : BitVec 64) (off : BitVec 32) : BitVec 64 := pc + off.signExtend 64 * 64

def semBr (o : OpR) (s : State) (c x : Nat) : Sem :=
  let k := s.ctx c x
  { reads := [.s o.sa.toNat], eff := fun s1 => s1.branchTo c x (k.rs o.sa) }

def semRet (o : OpR) (s : State) (c x : Nat) : Sem :=
  let k := s.ctx c x
  { reads := [.s o.sa.toNat], eff := fun s1 => s1.branchTo c x (k.rs o.sa) }

def semBri (o : OpB) (s : State) (c x : Nat) : Sem :=
  let k := s.ctx c x
  { eff := fun s1 => s1.branchTo c x (relTarget k.pc o.off) }

def semCall (o : OpB) (s : State) (c x : Nat) : Sem :=
  let k := s.ctx c x
  { writes := [.s o.sl.toNat]
    eff := fun s1 => (s1.resS c x o.sl (k.pc + 64) 1).branchTo c x (relTarget k.pc o.off) }

def semLoop (o : OpI) (s : State) (c x : Nat) : Sem :=
  let k := s.ctx c x
  let n := bitsOf (k.rs o.sa) 39 0
  let last := k.pc + BitVec.ofNat 64 (64 * o.imm.toNat)
  { reads := [.s o.sa.toNat]
    eff := fun s1 =>
      let s2 := s1.modCtx c x fun k =>
        { k with loopEnd := last, loopCnt := BitVec.ofNat 64 (o.imm.toNat * 2 ^ 40 + n) }
      if n = 0 then s2.branchTo c x (last + 64) else s2 }

/-! Each instruction alone in a bundle (R144). -/

/-- ADD alone in a bundle, issued by the context in turn. -/
def execAdd (o : OpR) (s : State) : Host.Outcome State Fault Refusal :=
  issueOne .s (.add o) o.g (semAdd o) s

/-- SUB alone in a bundle, issued by the context in turn. -/
def execSub (o : OpR) (s : State) : Host.Outcome State Fault Refusal :=
  issueOne .s (.sub o) o.g (semSub o) s

/-- ADDI alone in a bundle, issued by the context in turn. -/
def execAddi (o : OpI) (s : State) : Host.Outcome State Fault Refusal :=
  issueOne .s (.addi o) o.g (semAddi o) s

/-- MUL alone in a bundle, issued by the context in turn. -/
def execMul (o : OpR) (s : State) : Host.Outcome State Fault Refusal :=
  issueOne .s (.mul o) o.g (semMul o) s

/-- MULH alone in a bundle, issued by the context in turn. -/
def execMulh (o : OpR) (s : State) : Host.Outcome State Fault Refusal :=
  issueOne .s (.mulh o) o.g (semMulh o) s

/-- MULHN alone in a bundle, issued by the context in turn. -/
def execMulhn (o : OpR) (s : State) : Host.Outcome State Fault Refusal :=
  issueOne .s (.mulhn o) o.g (semMulhn o) s

/-- DIV alone in a bundle, issued by the context in turn. -/
def execDiv (o : OpR) (s : State) : Host.Outcome State Fault Refusal :=
  issueOne .s (.div o) o.g (semDiv o) s

/-- DIVN alone in a bundle, issued by the context in turn. -/
def execDivn (o : OpR) (s : State) : Host.Outcome State Fault Refusal :=
  issueOne .s (.divn o) o.g (semDivn o) s

/-- REM alone in a bundle, issued by the context in turn. -/
def execRem (o : OpR) (s : State) : Host.Outcome State Fault Refusal :=
  issueOne .s (.rem o) o.g (semRem o) s

/-- REMN alone in a bundle, issued by the context in turn. -/
def execRemn (o : OpR) (s : State) : Host.Outcome State Fault Refusal :=
  issueOne .s (.remn o) o.g (semRemn o) s

/-- AND alone in a bundle, issued by the context in turn. -/
def execAnd (o : OpR) (s : State) : Host.Outcome State Fault Refusal :=
  issueOne .s (.and o) o.g (semAnd o) s

/-- OR alone in a bundle, issued by the context in turn. -/
def execOr (o : OpR) (s : State) : Host.Outcome State Fault Refusal :=
  issueOne .s (.or o) o.g (semOr o) s

/-- XOR alone in a bundle, issued by the context in turn. -/
def execXor (o : OpR) (s : State) : Host.Outcome State Fault Refusal :=
  issueOne .s (.xor o) o.g (semXor o) s

/-- ANDI alone in a bundle, issued by the context in turn. -/
def execAndi (o : OpI) (s : State) : Host.Outcome State Fault Refusal :=
  issueOne .s (.andi o) o.g (semAndi o) s

/-- ORI alone in a bundle, issued by the context in turn. -/
def execOri (o : OpI) (s : State) : Host.Outcome State Fault Refusal :=
  issueOne .s (.ori o) o.g (semOri o) s

/-- XORI alone in a bundle, issued by the context in turn. -/
def execXori (o : OpI) (s : State) : Host.Outcome State Fault Refusal :=
  issueOne .s (.xori o) o.g (semXori o) s

/-- SHL alone in a bundle, issued by the context in turn. -/
def execShl (o : OpR) (s : State) : Host.Outcome State Fault Refusal :=
  issueOne .s (.shl o) o.g (semShl o) s

/-- SHR alone in a bundle, issued by the context in turn. -/
def execShr (o : OpR) (s : State) : Host.Outcome State Fault Refusal :=
  issueOne .s (.shr o) o.g (semShr o) s

/-- SHA alone in a bundle, issued by the context in turn. -/
def execSha (o : OpR) (s : State) : Host.Outcome State Fault Refusal :=
  issueOne .s (.sha o) o.g (semSha o) s

/-- SHLI alone in a bundle, issued by the context in turn. -/
def execShli (o : OpI) (s : State) : Host.Outcome State Fault Refusal :=
  issueOne .s (.shli o) o.g (semShli o) s

/-- SHRI alone in a bundle, issued by the context in turn. -/
def execShri (o : OpI) (s : State) : Host.Outcome State Fault Refusal :=
  issueOne .s (.shri o) o.g (semShri o) s

/-- SHAI alone in a bundle, issued by the context in turn. -/
def execShai (o : OpI) (s : State) : Host.Outcome State Fault Refusal :=
  issueOne .s (.shai o) o.g (semShai o) s

/-- ROTI alone in a bundle, issued by the context in turn. -/
def execRoti (o : OpI) (s : State) : Host.Outcome State Fault Refusal :=
  issueOne .s (.roti o) o.g (semRoti o) s

/-- MIN alone in a bundle, issued by the context in turn. -/
def execMin (o : OpR) (s : State) : Host.Outcome State Fault Refusal :=
  issueOne .s (.min o) o.g (semMin o) s

/-- MAX alone in a bundle, issued by the context in turn. -/
def execMax (o : OpR) (s : State) : Host.Outcome State Fault Refusal :=
  issueOne .s (.max o) o.g (semMax o) s

/-- MINN alone in a bundle, issued by the context in turn. -/
def execMinn (o : OpR) (s : State) : Host.Outcome State Fault Refusal :=
  issueOne .s (.minn o) o.g (semMinn o) s

/-- MAXN alone in a bundle, issued by the context in turn. -/
def execMaxn (o : OpR) (s : State) : Host.Outcome State Fault Refusal :=
  issueOne .s (.maxn o) o.g (semMaxn o) s

/-- CLZ alone in a bundle, issued by the context in turn. -/
def execClz (o : OpR) (s : State) : Host.Outcome State Fault Refusal :=
  issueOne .s (.clz o) o.g (semClz o) s

/-- POPC alone in a bundle, issued by the context in turn. -/
def execPopc (o : OpR) (s : State) : Host.Outcome State Fault Refusal :=
  issueOne .s (.popc o) o.g (semPopc o) s

/-- MOVI alone in a bundle, issued by the context in turn. -/
def execMovi (o : OpI) (s : State) : Host.Outcome State Fault Refusal :=
  issueOne .s (.movi o) o.g (semMovi o) s

/-- MOVHI alone in a bundle, issued by the context in turn. -/
def execMovhi (o : OpI) (s : State) : Host.Outcome State Fault Refusal :=
  issueOne .s (.movhi o) o.g (semMovhi o) s

/-- SEL alone in a bundle, issued by the context in turn. -/
def execSel (o : OpR) (s : State) : Host.Outcome State Fault Refusal :=
  issueOne .s (.sel o) o.g (semSel o) s

/-- BFX alone in a bundle, issued by the context in turn. -/
def execBfx (o : OpI) (s : State) : Host.Outcome State Fault Refusal :=
  issueOne .s (.bfx o) o.g (semBfx o) s

/-- BFI alone in a bundle, issued by the context in turn. -/
def execBfi (o : OpI) (s : State) : Host.Outcome State Fault Refusal :=
  issueOne .s (.bfi o) o.g (semBfi o) s

/-- CMP alone in a bundle, issued by the context in turn. -/
def execCmp (o : OpC) (s : State) : Host.Outcome State Fault Refusal :=
  issueOne .s (.cmp o) o.g (semCmp o) s

/-- CMPI alone in a bundle, issued by the context in turn. -/
def execCmpi (o : OpC) (s : State) : Host.Outcome State Fault Refusal :=
  issueOne .s (.cmpi o) o.g (semCmpi o) s

/-- FCMP alone in a bundle, issued by the context in turn. -/
def execFcmp (o : OpC) (s : State) : Host.Outcome State Fault Refusal :=
  issueOne .s (.fcmp o) o.g (semFcmp o) s

/-- FADD alone in a bundle, issued by the context in turn. -/
def execFadd (o : OpR) (s : State) : Host.Outcome State Fault Refusal :=
  issueOne .s (.fadd o) o.g (semFadd o) s

/-- FMUL alone in a bundle, issued by the context in turn. -/
def execFmul (o : OpR) (s : State) : Host.Outcome State Fault Refusal :=
  issueOne .s (.fmul o) o.g (semFmul o) s

/-- FFMA alone in a bundle, issued by the context in turn. -/
def execFfma (o : OpR) (s : State) : Host.Outcome State Fault Refusal :=
  issueOne .s (.ffma o) o.g (semFfma o) s

/-- FCVT alone in a bundle, issued by the context in turn. -/
def execFcvt (o : OpR) (s : State) : Host.Outcome State Fault Refusal :=
  issueOne .s (.fcvt o) o.g (semFcvt o) s

/-- KMOV alone in a bundle, issued by the context in turn. -/
def execKmov (o : OpR) (s : State) : Host.Outcome State Fault Refusal :=
  issueOne .s (.kmov o) o.g (semKmov o) s

/-- KGET alone in a bundle, issued by the context in turn. -/
def execKget (o : OpR) (s : State) : Host.Outcome State Fault Refusal :=
  issueOne .s (.kget o) o.g (semKget o) s

/-- KPOPC alone in a bundle, issued by the context in turn. -/
def execKpopc (o : OpR) (s : State) : Host.Outcome State Fault Refusal :=
  issueOne .s (.kpopc o) o.g (semKpopc o) s

/-- SETSHAPE alone in a bundle, issued by the context in turn. -/
def execSetshape (o : OpI) (s : State) : Host.Outcome State Fault Refusal :=
  issueOne .s (.setshape o) o.g (semSetshape o) s

/-- TIMER alone in a bundle, issued by the context in turn. -/
def execTimer (o : OpR) (s : State) : Host.Outcome State Fault Refusal :=
  issueOne .s (.timer o) o.g (semTimer o) s

/-- BR alone in a bundle, issued by the context in turn. -/
def execBr (o : OpR) (s : State) : Host.Outcome State Fault Refusal :=
  issueOne .s (.br o) o.g (semBr o) s

/-- RET alone in a bundle, issued by the context in turn. -/
def execRet (o : OpR) (s : State) : Host.Outcome State Fault Refusal :=
  issueOne .s (.ret o) o.g (semRet o) s

/-- BRI alone in a bundle, issued by the context in turn. -/
def execBri (o : OpB) (s : State) : Host.Outcome State Fault Refusal :=
  issueOne .s (.bri o) o.g (semBri o) s

/-- CALL alone in a bundle, issued by the context in turn. -/
def execCall (o : OpB) (s : State) : Host.Outcome State Fault Refusal :=
  issueOne .s (.call o) o.g (semCall o) s

/-- LOOP alone in a bundle, issued by the context in turn. -/
def execLoop (o : OpI) (s : State) : Host.Outcome State Fault Refusal :=
  issueOne .s (.loop o) o.g (semLoop o) s

end Sys2Proof.Machine
end

