-- ==== Sys2Proof/Machine/Copy.lean ====
section
/-! DEFINITION. The copy engine: the instructions of slot CE (R232 to R241), one iteration of a channel (R229, R240 to R246),
and the channel's part of a restore (R248). -/

namespace Sys2Proof.Machine

/-! Configuration (R233). -/

/-- An instruction that waits while its channel runs. -/
def idleSem (s : State) (c : Nat) (ch : BitVec 2) (reads : List RegName) (f : Chan → Chan) : Sem :=
  { reads := reads
    gate := []
    wait := if (s.chan c ch.toNat).state = 1 then some (.sync, id) else none
    eff := fun t => t.setChan c ch.toNat (f (t.chan c ch.toNat)) }

/-- CEBASE without KEEP: the nest, length, flags and queue at their start, and the channel Idle. -/
def Chan.rebase (h : Chan) : Chan :=
  { h with
    cntm1 := [], sstr := [], dstr := [], idx := [], lenm1 := 0, dflag := false, gather := false, arrive := false
    cfgerr := false, queue := [], state := 0, mark := none }

def semCebase (o : OpCeA) (s : State) (c x : Nat) : Sem :=
  let k := s.ctx c x
  idleSem s c o.ch [.s o.sa.toNat, .s o.sb.toNat] fun h =>
    let h1 : Chan := { h with srcb := k.rs o.sa, dstb := k.rs o.sb, ssp := bitsOf o.imm 0 0, dsp := bitsOf o.imm 2 1 }
    if bitsOf o.imm 3 3 = 1 then h1 else h1.rebase

/-- Whether a scalar is a stride of 40 bits. -/
def strideOk (v : BitVec 64) : Bool := decide (-(2 ^ 39) ≤ v.toInt) && decide (v.toInt < 2 ^ 39)

def semCelvl (o : OpCeA) (s : State) (c x : Nat) : Sem :=
  let k := s.ctx c x
  let l := bitsOf o.imm 2 0
  let n := (k.rs o.sa).toNat
  let okN := 1 ≤ n && n ≤ 2 ^ 24
  let okS := strideOk (k.rs o.sb) && strideOk (k.rs o.sc)
  idleSem s c o.ch [.s o.sa.toNat, .s o.sb.toNat, .s o.sc.toNat] fun h =>
    let h1 : Chan := if okN then { h with cntm1 := mset l (n - 1) h.cntm1 } else { h with cfgerr := true }
    if okS then
      { h1 with sstr := mset l (k.rs o.sb).toInt h1.sstr, dstr := mset l (k.rs o.sc).toInt h1.dstr }
    else { h1 with cfgerr := true }

def semCelen (o : OpCeA) (s : State) (c x : Nat) : Sem :=
  let n := (((s.ctx c x).rs o.sa) + o.imm.setWidth 64).toNat
  idleSem s c o.ch [.s o.sa.toNat] fun h =>
    if 1 ≤ n ∧ n ≤ 65536 then { h with lenm1 := n - 1 } else { h with cfgerr := true }

def semCefab (o : OpCeA) (s : State) (c x : Nat) : Sem :=
  let k := s.ctx c x
  let r := (k.rs o.sa).toNat
  idleSem s c o.ch [.s o.sa.toNat, .s o.sb.toNat] fun h =>
    let h1 : Chan := if r ≤ 1023 then { h with rank := r } else { h with cfgerr := true }
    { h1 with steptag := (k.rs o.sb).toNat % 65536, rwin := bitsOf o.imm 5 0, rop := bitsOf o.imm 8 6 }

/-! Starting, resuming, cancelling, reading. -/

/-- Whether a start needs a scoreboard entry that is not free (R200, R234). -/
def State.scoreFull (s : State) (c dsp : Nat) : Bool := dsp != 2 && 16 ≤ (s.core c).score.length

/-- The configuration fault, without a claim. DESIGN CHOICE: FADDR and FSIDE, which the spec does not give for it, are 0 (log 106). -/
def State.chanConfig (s : State) (c ch : Nat) (h : Chan) : State := (s.setChan c ch h).haltChan c ch 0x80 0 0

/-- CEGO (R234): the copy's accesses follow an acquire that has not returned (R345). -/
def semCego (o : OpCeA) (s : State) (c x : Nat) : Sem :=
  let k := s.ctx c x
  let ch := o.ch.toNat
  { reads := [.s o.sa.toNat]
    gate := []
    wait :=
      if (s.chan c ch).state = 1 then some (.sync, id)
      else if s.scoreFull c (s.chan c ch).dsp then some (.scor, id)
      else if s.acquiring c x then some (.land, id)
      else none
    eff := fun t =>
      let h0 := t.chan c ch
      let h1 : Chan := { h0 with
        dflag := bitsOf o.imm 0 0 == 1, gather := bitsOf o.imm 1 1 == 1, arrive := bitsOf o.imm 2 2 == 1
        barp := (k.rs o.sa).toNat % 2 ^ 33, owner := x, rev := k.rev, mark := k.strand.map (·.slot), fcode := 0
        pc := k.pc, trims := 0, msgs := [], msgid := none }
      let h2 : Chan := { h1 with idx := h1.begin }
      if t.chanConfigBad c x h2 then t.chanConfig c ch h2 else t.runChan c x ch h2 0 }

/-- CERESUME (R237). -/
def semCeresume (o : OpCeA) (s : State) (c x : Nat) : Sem :=
  let k := s.ctx c x
  let ch := o.ch.toNat
  let h := s.chan c ch
  { wait :=
      if h.state = 2 ∧ s.scoreFull c h.dsp then some (.scor, id)
      else if h.state = 2 ∧ s.acquiring c x then some (.land, id)
      else none
    eff := fun t =>
      let h0 := t.chan c ch
      if h0.state = 2 then
        let h1 : Chan := { h0 with owner := x, mark := k.strand.map (·.slot), pc := k.pc, spent := false }
        if t.chanConfigBad c x h1 then t.chanConfig c ch h1
        else t.runChan c x ch h1 (if h1.hullOf = h0.hull then h0.bitmap else 0)
      else t }

/-- CECANCEL (R236): the requests of the channel that have not been performed are discarded, but for those of a D copy's
iteration, which the tape already holds. -/
def semCecancel (o : OpCeA) (s : State) (c _x : Nat) : Sem :=
  let h := s.chan c o.ch.toNat
  { wait := if h.state = 1 ∧ h.dflag ∧ h.sent then some (.sync, id) else none
    eff := fun t => t.idleChan c o.ch.toNat }

/-- The status word of CESTAT (R235). -/
def Chan.status (h : Chan) : Nat :=
  ((List.range 512).filter fun i => h.bitmap.getLsbD i).length * 2 ^ 25 + h.queue.length * 2 ^ 16 + h.fcode % 256 * 2 ^ 8
    + (if h.cfgerr then 8 else 0) + h.state % 8

def semCestat (o : OpCeA) (s : State) (c _x : Nat) : Sem :=
  let h := s.chan c o.ch.toNat
  let w := bitsOf o.imm 4 1
  let v := if w = 0 then h.status else h.bitmap.toNat / 2 ^ (64 * (w - 1))
  { writes := [.s o.sa.toNat]
    trap := if h.state = 2 && bitsOf o.imm 0 0 == 0 then some (0x16, h.faddr) else none
    eff := fun t => t.resS c _x o.sa (BitVec.ofNat 64 v) 1 }

/-! Index queues (R241). -/

/-- A push of entries, which waits for room. -/
def pushSem (s : State) (c : Nat) (ch : BitVec 2) (reads : List RegName) (es : List (Option (BitVec 64))) : Sem :=
  { reads := reads
    gate := []
    wait := if 256 < (s.chan c ch.toNat).queue.length + es.length then some (.sync, id) else none
    eff := fun t =>
      let h := t.chan c ch.toNat
      t.setChan c ch.toNat { h with queue := h.queue ++ es } }

def semCeidx (o : OpCeA) (s : State) (c x : Nat) : Sem :=
  pushSem s c o.ch [.s o.sa.toNat] [some ((s.ctx c x).rs o.sa <<< bitsOf o.imm 2 0)]

/-- Element i of an index vector; beyond the register the value is free (log 8). -/
def ceIndex (s : State) (v : BitVec 2048) (o : OpCeV) (i : Nat) : BitVec 64 :=
  if i * (8 * 2 ^ o.xw.toNat) < 2048 then indexOf v o.xw.toNat o.sh.toNat (o.sg == 1) i
  else Config.freeWord (s.free + i)

def semCeidxv (o : OpCeV) (s : State) (c x : Nat) : Sem :=
  let v := (s.ctx c x).rv o.xv
  let m := pushSem s c o.ch [.v o.xv.toNat] ((List.range o.cnt.toNat).map fun i => some (ceIndex s v o i))
  { m with eff := fun t => { m.eff t with free := t.free + 64 } }

def semCeidxend (o : OpCeA) (s : State) (c _x : Nat) : Sem := pushSem s c o.ch [] [none]

/-! The sides of an iteration (R229). -/

/-- What a side of an iteration comes to: translations it still lacks (whether of a write), a fault with its first byte, or its parts with their
physical addresses. -/
inductive SideRes
  | miss (vas : List (BitVec 64 × Bool))
  | bad (code : Nat) (addr : BitVec 64)
  | ok (ps : List (Piece × Nat))

/-- The parts of n bytes from an address: within its vault, or modulo 2^64. -/
def sidePieces (vault : Bool) (a : BitVec 64) (n : Nat) : List Piece :=
  let ps := cutPieces (if vault then BitVec.ofNat 64 (vpLin a) else a) 0 (n / 64 + 2) n
  if vault then ps.map fun p => { p with ea := mkVp (vpVault a) (p.ea.toNat % 2 ^ 26) } else ps

/-- The translation of an address by a channel (R229). -/
def State.chanXlate (s : State) (c ch : Nat) (va : BitVec 64) (write : Bool) : Xlate :=
  let h := s.chan c ch
  s.xlate c (1 + ch) h.owner (s.asid c h.owner) (s.supv c h.owner) (h.utlb ++ h.xl) va write false

/-- The translation of one part of a side. A part in a failed stack, or of a rank that cannot be reached, halts the channel with
LINK (R246, R379). -/
def State.copyPart (s : State) (c ch : Nat) (vault write : Bool) (p : Piece) : Xlate :=
  if vault then
    if s.badVp c p.ea || (!s.supv c (s.chan c ch).owner && 8191 * 8192 ≤ vpLin p.ea) then .bad 9
    else if s.down (vaultPiecePa c p) then .bad 0x81
    else .ok (vaultPiecePa c p)
  else match s.chanXlate c ch p.ea write with
    | .ok pa =>
      if s.down pa || (isFabric pa && (!s.pkg.rankValid || s.unreachable (fabRank pa))) then .bad 0x81 else .ok pa
    | r => r

/-- Parts of a side translated in order of address: the translations lacked before the first fault, else that fault, which is
the first faulting byte (R247). -/
def State.copySide (s : State) (c ch : Nat) (vault write : Bool) (ps : List Piece) : SideRes :=
  let rs := ps.map fun p => (p, s.copyPart c ch vault write p)
  let good := rs.takeWhile fun r => match r.2 with | .bad _ => false | _ => true
  match (good.filter fun r => r.2 == .miss).map (·.1.ea) with
  | [] =>
    match (rs.drop good.length).head? with
    | some (p, .bad code) => .bad code p.ea
    | _ => .ok (good.map fun r => (r.1, match r.2 with | .ok pa => pa | _ => 0))
  | vas => .miss (vas.map fun va => (va, write))

/-- The base pointer of a vault side, checked before its parts (R187). -/
def baseBad (s : State) (c : Nat) (vault : Bool) (a : BitVec 64) : Bool := vault && s.badVp c a

/-- The misses of a channel go to the cluster. -/
def State.chanAsk (s : State) (c ch : Nat) (vas : List (BitVec 64 × Bool)) : State :=
  let x := (s.chan c ch).owner
  vas.foldl (fun t va => t.askTlb c (1 + ch) x (s.asid c x) va.1 va.2 false) s

/-- Whether a part of a side is reached by a message of the channel: in a vault that the local port does not serve (R332), through a
fabric window, in the register window, or at the customer's package (R384, R415, R447). -/
def State.byMsg (s : State) (c : Nat) (vault : Bool) (p : Piece × Nat) : Bool :=
  isFabric p.2 || isReg p.2 || s.customer p.2 || ((vaultOf p.2).isSome && !(vault && vaultNum c p.1.ea == c))

/-- The errors of the words about to be read at once are met (R377). -/
def State.chanReads (s : State) (c : Nat) (vault : Bool) (ps : List (Piece × Nat)) : State :=
  ps.foldl (fun t p => if s.byMsg c vault p then t else t.meet p.2 p.1.n) s

/-- Whether an earlier message of the core to bytes that a channel is to access at once is on its way: it comes first (R239,
R332). -/
def State.portBusy (s : State) (c : Nat) (vault : Bool) (ps : List (Piece × Nat)) : Bool :=
  (ps.filter fun p => !s.byMsg c vault p).any fun p =>
    s.net.any fun a => a.core == c && a.pends && !a.open && canonPa a.pa < canonPa p.2 + p.1.n && canonPa p.2 < canonPa a.pa + a.op.len

/-- The parts that are read by messages, with their keys: a part's offset from a base. -/
def State.msgParts (s : State) (c : Nat) (vault : Bool) (base : Nat) (ps : List (Piece × Nat)) : List (Nat × Piece × Nat) :=
  (ps.filter (s.byMsg c vault)).map fun p => (base + p.1.off, p)

/-- Where the keys of a D copy's captured units begin. -/
def unitKeys : Nat := 2 ^ 20

/-- Reads sent for them. -/
def State.askParts (s : State) (c ch : Nat) (ps : List (Nat × Piece × Nat)) : State :=
  let h := s.chan c ch
  ps.foldl (fun t p =>
    t.send { id := 0, core := c, x := h.owner, pa := p.2.2, va := p.2.1.ea, op := .read p.2.1.n, dest := .copy ch p.1,
             st := .live, region := (s.core c).rgCur })
    (s.setChan c ch { h with asked := true, got := [] })

/-- What an iteration does before it reads: it asks for what comes by messages, and waits for that and for earlier requests;
none when it may go on. -/
def State.chanAsks (s : State) (c ch : Nat) (asks : List (Nat × Piece × Nat)) (busy : Bool) : Option State :=
  let h := s.chan c ch
  if !asks.isEmpty && !h.asked then some (s.askParts c ch asks)
  else if h.got.length < asks.length || busy then some s
  else none

/-- The first byte of a part that is poisoned, else its first. -/
def State.badByte (s : State) (p : Piece × Nat) : BitVec 64 :=
  p.1.ea + BitVec.ofNat 64 (((List.range p.1.n).find? fun i => s.poisoned (p.2 + i) 1).getD 0)

/-- The bytes of a part as the channel reads them, and their mark with the first byte that has it. -/
def State.partData (s : State) (c ch : Nat) (vault : Bool) (base : Nat) (p : Piece × Nat) :
    List (BitVec 8) × Option (Nat × BitVec 64) :=
  if s.byMsg c vault p then
    match (s.chan c ch).got.find? fun g => g.1 == base + p.1.off with
    | some (_, v, code) =>
      (toBytes v p.1.n, if code = 0 then none else some (code, if code = 0x10 then s.badByte p else p.1.ea))
    | none => (toBytes 0 p.1.n, some (0x10, p.1.ea))
  else
    (toBytes (s.rd p.2 p.1.n) p.1.n,
     if s.poisoned p.2 p.1.n then some (0x10, s.badByte p) else if s.racy c p.2 p.1.n then some (0x0B, p.1.ea) else none)

/-- A fault of an iteration, with the race counted (R353); the data of a bad buffer are discarded (R377). -/
def State.iterFault (s : State) (c ch code side : Nat) (a : BitVec 64) : State :=
  let s1 := if code = 0x0B then s.countRace c else s
  (s1.setChan c ch { s1.chan c ch with bufBad := false }).chanFault c ch code side a

/-- Whether a channel's write must wait for a claim of the core's CUBE (R240). -/
def State.cubeHolds (s : State) (c : Nat) (vault : Bool) (ps : List (Piece × Nat)) : Bool :=
  vault && (s.core c).score.any fun e =>
    (e.owner == .cubeA || e.owner == .cubeB) && ps.any fun p =>
      e.hits true (vaultNum c p.1.ea) (vpLin p.1.ea) (vpLin p.1.ea + p.1.n - 1)

/-- Bytes written by a channel to a part: at once at its owner, or by a message. -/
def State.chanStore (s : State) (c ch : Nat) (vault : Bool) (p : Piece × Nat) (bs : List (BitVec 8)) : State :=
  if s.byMsg c vault p then
    s.send { id := 0, core := c, x := (s.chan c ch).owner, pa := p.2, va := p.1.ea, op := .write bs false,
             dest := .copy ch 0, st := .live, region := (s.core c).rgCur }
  else s.store c (s.core c).rgCur p.2 bs

/-- The writes of an iteration, each with whether it names a vault pointer. Those that travel as messages end it when they have been
performed (R231, R238); local ones cross into the vault die (R371). -/
def State.chanWrite (s : State) (c ch : Nat) (ws : List (Bool × (Piece × Nat) × List (BitVec 8))) : State :=
  let t := (ws.foldl (fun t w => t.chanStore c ch w.1 w.2.1 w.2.2) s).cross c
    (ws.filter fun w => vaultOf w.2.1.2 == some c && !s.byMsg c w.1 w.2.1).length
  if ws.any fun w => s.byMsg c w.1 w.2.1 then t.setChan c ch { t.chan c ch with sent := true } else t.chanStep c ch

/-- The part of the data that belongs to a destination part. -/
def slice (d : List (BitVec 8)) (p : Piece) : List (BitVec 8) := (d.drop p.off).take p.n

/-- The source read and checked: its bytes, or the fault that halts the channel. -/
def State.readSource (s : State) (c ch : Nat) (ps : List (Piece × Nat)) : Except (Nat × BitVec 64) (List (BitVec 8)) :=
  let ds := ps.map fun p => s.partData c ch ((s.chan c ch).ssp == 1) 0 p
  match (s.chan c ch).bufBad, ps.head?, ds.findSome? (·.2) with
  | true, some p, _ => .error (0x10, p.1.ea)
  | _, _, some f => .error f
  | _, _, none => .ok (ds.flatMap (·.1))

/-- What bars a write of parts: a limit of a CXL window (R437), or a race at once (R240), with the first faulting byte; the race of a
write that travels is judged at its owner. -/
def State.writeBar (s : State) (c : Nat) (vault : Bool) (ps : List (Piece × Nat)) : Option (Nat × BitVec 64) :=
  ps.findSome? fun p =>
    if s.cxlFull p.2 p.1.n then
      some (0x82, p.1.ea + BitVec.ofNat 64 (((List.range p.1.n).find? fun i => s.cxlFull (p.2 + i) 1).getD 0))
    else if !s.byMsg c vault p && s.racy c p.2 p.1.n then some (0x0B, p.1.ea)
    else none

/-- The primal byte that a side of a plain reverse-mode copy touches (R245). -/
def State.copyMeets (s : State) (c ch : Nat) (vault : Bool) (ps : List (Piece × Nat)) : Option (BitVec 64) :=
  let h := s.chan c ch
  if h.rev then ps.findSome? fun p => s.primalMeet c h.owner vault p.1 else none

/-- An iteration to a global or vault destination, its translations held (R229, R240, R245, R437). -/
def State.plainIter (s : State) (c ch : Nat) (src dst : List (Piece × Nat)) : State :=
  let h := s.chan c ch
  match s.copyMeets c ch (h.ssp == 1) src, s.copyMeets c ch (h.dsp == 1) dst with
  | some a, _ => s.chanFault c ch 0x0D 0 a
  | none, some a => s.chanFault c ch 0x0D 1 a
  | none, none =>
    let s1 := s.chanReads c (h.ssp == 1) src
    match s1.readSource c ch src, s1.writeBar c (h.dsp == 1) dst with
    | .error (code, a), _ => s1.iterFault c ch code 0 a
    | .ok _, some (code, a) => s1.iterFault c ch code 1 a
    | .ok d, none => s1.chanWrite c ch (dst.map fun p => (h.dsp == 1, p, slice d p.1))

/-! Fabric destinations (R242, R416, R417). -/

/-- The pieces of [o, o + n) cut at 512-byte boundaries: offset within the iteration and length. -/
def fabPieces (o : Nat) : Nat → Nat → Nat → List (Nat × Nat)
  | 0, _, _ => []
  | fuel + 1, off, n =>
    if n = 0 then []
    else
      let m := min n (512 - (o + off) % 512)
      (off, m) :: fabPieces o fuel (off + m) (n - m)

/-- One message of a channel. -/
def Chan.message (h : Chan) (c ch id now : Nat) (d : List (BitVec 8)) (src : BitVec 64) (p : Nat × Nat) : SentMsg :=
  { chan := copyChan c ch, rank := h.rank, msgid := id, opc := if h.rop = 0 then 1 else 2, rop := h.rop, rwin := h.rwin
    steptag := h.steptag, offset := (h.dst + p.1) % 2 ^ 40, len := p.2, untagged := false, data := (d.drop p.1).take p.2
    src := some (if h.ssp = 1 then vpAdd src p.1 else src + BitVec.ofNat 64 p.1), vault := h.ssp == 1, sentAt := now
    tries := 0, req := none }

/-- An iteration to a fabric destination: a message for each piece, unless too many are unacknowledged. -/
def State.fabIter (s : State) (c ch : Nat) (entry : BitVec 64) (src : List (Piece × Nat)) : State :=
  let h := s.chan c ch
  let off := BitVec.ofNat 64 h.dst
  if let some a := s.copyMeets c ch (h.ssp == 1) src then s.chanFault c ch 0x0D 0 a
  else if s.quiescing h.rank then s.chanFault c ch 9 1 off
  else if !s.pkg.rankValid || s.unreachable h.rank then s.chanFault c ch 0x81 1 off
  else
    let ps := fabPieces h.dst (h.len / 512 + 2) 0 h.len
    if 4096 < s.inFlight (copyChan c ch) + ps.length then s
    else
      let s1 := s.chanReads c (h.ssp == 1) src
      match s1.readSource c ch src with
      | .error (code, a) => s1.iterFault c ch code 0 a
      | .ok d =>
        let first := h.msgid.getD (s.pkg.nextId (copyChan c ch) h.rank)
        let next := (first + ps.length) % 65536
        let s2 := ps.zipIdx.foldl (fun t q =>
          t.sendFab (h.message c ch ((first + q.2) % 65536) s.now d (h.srcAddr entry) q.1)) s1
        let ms := ps.zipIdx.map fun q =>
          ({ id := (first + q.2) % 65536, lo := h.dst + q.1.1, hi := h.dst + q.1.1 + q.1.2 - 1, idx := h.idx
             first := first } : ChanMsg)
        ((s2.passIds (copyChan c ch) h.rank next).setChan c ch
          { s2.chan c ch with msgid := some next, msgs := h.msgs ++ ms }).chanStep c ch

/-- A message of a channel is acknowledged: the bits of the chunks whose messages all are, the index entries of the iterations
that this completes, and the end of the channel (R241, R242), which waits while a release is held (R350). -/
def State.chanAck (s : State) (c ch id : Nat) : State :=
  let h := s.chan c ch
  match h.msgs.find? fun m => m.id == id with
  | none => s
  | some m =>
    let msgs := h.msgs.map fun a => if a.id = id then { a with acked := true } else a
    let h1 : Chan := { h with msgs := msgs.dropWhile (·.acked) }
    let h2 := if h.gather then h1.popEntries (h.iters - h1.iters) else h1
    let s1 := s.setChan c ch h2
    if h.state ≠ 1 then s1
    else
      let js := (h.chunksOf m.lo (m.hi + 1 - m.lo)).filter fun j =>
        !h2.remains (h.chunkLo j) (h.chunkHi j)
          && !msgs.any fun a => !a.acked && a.lo ≤ h.chunkHi j && h.chunkLo j ≤ a.hi
      let s2 := s1.setChunks c ch js
      if h.spent && h2.msgs.isEmpty && !(h.arrive && s2.relHeld c) then s2.chanDone c ch else s2

/-- The earliest iteration of a channel that has failed, once every message of the iterations before it is acknowledged (R247): its
first message that has failed. -/
def Chan.failedMsg (h : Chan) : Option ChanMsg :=
  match h.msgs.find? (fun m => !m.acked), h.msgs.find? fun m => m.bad.isSome with
  | some e, some m => if m.idx = e.idx then some m else none
  | _, _ => none

/-- A channel halts at the earliest of its failed iterations, with the ids that its messages had (R247, R417). -/
def State.chanSettle (s : State) (c ch : Nat) : State :=
  let h := s.chan c ch
  match h.failedMsg with
  | some m =>
    if h.state ≠ 1 then s
    else
      match m.bad with
      | some (code, side, addr) =>
        (s.setChan c ch { h with idx := m.idx, msgid := some m.first, spent := false }).chanFault c ch code side addr
      | none => s
  | none => s

/-- A message of a channel fails: its channel issues no later iteration, and halts when the earlier ones are performed (R247). -/
def State.chanMsgFault (s : State) (c ch id code side : Nat) (addr : BitVec 64) : State :=
  let h := s.chan c ch
  (s.setChan c ch
    { h with msgs := h.msgs.map fun m => if m.id = id then { m with bad := some (code, side, addr) } else m }).chanSettle c ch

/-- A message of a channel is acknowledged; the channel halts if only that was waited for. -/
def State.chanAcked (s : State) (c ch id : Nat) : State := (s.chanAck c ch id).chanSettle c ch

/-! Differentiable copies (R243, R244). -/

/-- The region that holds n bytes from an address whole (R243). -/
def Ctx.regionBytes (k : Ctx) (space : Bool) (a : BitVec 64) (n : Nat) : Option DRegion :=
  (k.dreg.find? fun p =>
    p.2.valid && p.2.space == space && p.2.primal.toNat ≤ a.toNat && a.toNat + n ≤ p.2.primal.toNat + p.2.len).map (·.2)

/-- The checks of a differentiable iteration: its regions, or the fault with its side. -/
def dRegions (k : Ctx) (c : Nat) (h : Chan) (src dst : BitVec 64) : Except (Nat × Nat × BitVec 64) (DRegion × DRegion) :=
  let own (vault : Bool) (a : BitVec 64) : BitVec 64 := if vault then ownVp c a else a
  let sv := h.ssp == 1
  let dv := h.dsp == 1
  match k.regionBytes sv (own sv src) h.len, k.regionBytes dv (own dv dst) h.len with
  | none, _ => .error (9, 0, src)
  | some _, none => .error (9, 1, dst)
  | some a, some b =>
    let off (r : DRegion) (v : Bool) (p : BitVec 64) : Bool := ((own v p).toNat - r.primal.toNat) % r.es != 0
    if a.ty ≠ b.ty then .error (9, 1, dst)
    else if h.len % a.es ≠ 0 || off a sv src then .error (if sv then 7 else 9, 0, src)
    else if off b dv dst then .error (if dv then 7 else 9, 1, dst)
    else .ok (a, b)

/-- The captured units of a destination, in entries of at most 63 units (R220, R243). -/
def unitGroups : Nat → List (Piece × Nat) → List (List (Piece × Nat))
  | 0, _ => []
  | fuel + 1, l => if l.isEmpty then [] else l.take 63 :: unitGroups fuel (l.drop 63)

/-- Whole 8-byte units of n bytes from an address. -/
def unitPieces (vault : Bool) (a : BitVec 64) (n : Nat) : List Piece :=
  let lo := a &&& ~~~7
  (List.range ((a.toNat % 8 + n + 7) / 8)).map fun i =>
    ⟨if vault then vpAdd lo ((8 * i : Nat) : Int) else lo + BitVec.ofNat 64 (8 * i), 8, 8 * i⟩

/-- A forward differentiable iteration: capture, push, copy (R243). -/
def State.dIterForward (s : State) (c ch : Nat) (src dst us : List (Piece × Nat)) : State :=
  let h := s.chan c ch
  let x := h.owner
  let gs := unitGroups (us.length + 1) us
  if (s.ctx c x).tapeFull (8 * (us.length + gs.length)) then s.chanFault c ch 0x0C 1 h.dstAddr
  else
    let s1 := (s.chanReads c (h.ssp == 1) src).chanReads c (h.dsp == 1) us
    match s1.readSource c ch src, s1.writeBar c (h.dsp == 1) dst with
    | .error (code, a), _ => s1.iterFault c ch code 0 a
    | .ok _, some (code, a) => s1.iterFault c ch code 1 a
    | .ok d, none =>
      let old (p : Piece × Nat) : List (BitVec 8) × Bool :=
        let r := s1.partData c ch (h.dsp == 1) unitKeys p
        (r.1, match r.2 with | some (code, _) => code == 0x10 | none => false)
      let s2 := gs.foldl (fun t g =>
        let ea := match g.head? with | some p => p.1.ea | none => 0
        t.tapePush c x (g.map old ++ [(toBytes (tapeHeader g.length ea true (h.dsp == 1)) 8, false)])) s1
      s2.chanWrite c ch (dst.map fun p => (h.dsp == 1, p, slice d p.1))

/-- What bars the move of an adjoint cell: no atomic unit at its address (R292), the limit of a CXL window (R437), a refusal by the
customer's package (R447) or poison (R244); the FCODE, and the state. -/
def State.cellBar (s : State) (p : Piece × Nat) : Option Nat × State :=
  let (no, t) := (s.meet p.2 4).refuses p.2
  if s.cxlFull p.2 4 then (some 0x82, t)
  else if !s.customer p.2 && (vaultOf p.2).isNone && !isHbm p.2 then (some 9, t)
  else if no || t.poisoned p.2 4 then (some 0x10, t)
  else (none, t)

/-- The adjoints of the elements moved in order, up to the first cell that bars it (R244), with the flags of the sums (R31, R45): the
state, and the code, side and address of that cell. -/
def State.moveAdjoints (s : State) (c ch : Nat) :
    List ((Piece × Nat) × (Piece × Nat)) → State × Option (Nat × Nat × BitVec 64)
  | [] => (s, none)
  | (a, b) :: t =>
    let (nb, s1) := s.cellBar b
    let (na, s0) := s1.cellBar a
    match nb, na with
    | some code, _ => (s1, some (code, 1, b.1.ea))
    | none, some code => (s0, some (code, 0, a.1.ea))
    | none, none =>
      let x := (s.chan c ch).owner
      let sum (v : Nat) : FRes := fAdd Fmt.f32 0 (Fmt.f32.dec v) (Fmt.f32.dec (s0.rd b.2 4))
      let v := if a.2 = b.2 then sum 0 else sum (s0.rd a.2 4)
      let s2 := ((s0.wr b.2 4 0).wr a.2 4 v.bits).setFlags c x v.fl
      let s3 := if !(Fmt.f32.dec v.bits).isFinite then s2.setNfs c x Nfs.crev else s2
      s3.moveAdjoints c ch t

/-- The tape entries that an iteration pops, oldest last: first word count below the top, units and header of each; none
when the tape runs out (R244). -/
def popEntries (s : State) (c : Nat) : Nat → Ctx → List (Nat × Nat × Nat) → Option (Ctx × List (Nat × Nat × Nat))
  | 0, k, acc => some (k, acc)
  | n + 1, k, acc =>
    match k.tapeTopEntry s c with
    | none => none
    | some (sk, len, hd) =>
      let first := k.tapeTop - BitVec.ofNat 32 (8 * (sk + len + 1))
      popEntries s c n { k with tapeTop := first } (acc ++ [(first.toNat, len, hd)])

/-- The words that the popped entries restore: target access, target word and tape address. -/
def restoreWords (k : Ctx) (c x : Nat) (es : List (Nat × Nat × Nat)) : List (Acc × Piece × Nat) :=
  es.flatMap fun e =>
    let ra := restoreAcc e.2.2 e.2.1 c x
    ra.ps.map fun p => (ra, p, k.tapePa c (e.1 + p.off))

/-- The tape addresses of the words of popped entries, headers among them. -/
def poppedWords (k : Ctx) (c : Nat) (es : List (Nat × Nat × Nat)) : List Nat :=
  es.flatMap fun e => (List.range (e.2.1 + 1)).map fun i => k.tapePa c (e.1 + 8 * i)

/-- What bars a pop: poison or a race of the words read (R223, R240), named by their pointers in the own vault (log 96). -/
def State.popBar (s : State) (c : Nat) (ws : List Nat) : Option (Nat × BitVec 64) :=
  match ws.find? fun w => s.poisoned w 8, ws.find? fun w => s.racy c w 8 with
  | some w, _ => some (0x10, mkVp 127 w)
  | none, some w => some (0x0B, mkVp 127 w)
  | none, none => none

/-- A reverse differentiable iteration (R244). -/
def State.dIterBack (s : State) (c ch : Nat) (cells : List ((Piece × Nat) × (Piece × Nat))) (groups : Nat) : State :=
  let h := s.chan c ch
  let x := h.owner
  let k := s.ctx c x
  let popped := popEntries s c groups k []
  let es := match popped with | some (_, es) => es | none => []
  let sides := (restoreWords k c x es).map fun w => (w, s.copySide c ch w.1.vault true [w.2.1])
  match sides.findSome? fun q => match q.2 with | .bad code a => some (code, a) | _ => none with
  | some (code, a) => s.chanFault c ch code 1 a
  | none =>
    match sides.flatMap fun q => match q.2 with | .miss vas => vas | _ => [] with
    | va :: vas => s.chanAsk c ch (va :: vas)
    | [] =>
      let ts := sides.flatMap fun q => match q.2 with | .ok [p] => [(q.1, p)] | _ => []
      if ts.any fun q => s.portBusy c q.1.1.vault [q.2] || s.cubeHolds c q.1.1.vault [q.2] then s
      else
        let words := poppedWords k c es
        let (s1, bad) := s.moveAdjoints c ch cells
        let s2 := words.foldl (fun t w => t.meet w 8) s1
        let bar := ts.findSome? fun q => s2.writeBar c q.1.1.vault [q.2]
        match bad, popped, s2.popBar c words, bar with
        | some (code, side, a), _, _, _ => s1.chanFault c ch code side a
        | none, none, _, _ => s1.chanFault c ch 0x0C 1 h.dstAddr
        | none, some _, some (code, a), _ => s2.iterFault c ch code 1 a
        | none, some _, none, some (code, a) => s2.iterFault c ch code 1 a
        | none, some (k1, _), none, none =>
          (s2.modCtx c x fun q => { q with tapeTop := k1.tapeTop }).chanWrite c ch
            (ts.map fun q => (q.1.1.vault, q.2, toBytes (s2.rd q.1.2.2 8) 8))

/-- The cells of the elements of one side of an iteration (R214). -/
def cellPieces (c : Nat) (vault : Bool) (r : DRegion) (a : BitVec 64) (n : Nat) : List Piece :=
  let base := r.cell (if vault then ownVp c a else a)
  (List.range n).map fun i => ⟨base + BitVec.ofNat 64 (4 * i), 4, 4 * i⟩

/-- A differentiable iteration: its regions, then its translations, then its effect. Earlier tape traffic of the context
comes first. -/
def State.dIter (s : State) (c ch : Nat) : State :=
  let h := s.chan c ch
  let x := h.owner
  let src := h.srcAddr 0
  let dst := h.dstAddr
  let sv := h.ssp == 1
  let dv := h.dsp == 1
  match dRegions (s.ctx c x) c h src dst with
  | .error (code, side, a) => s.chanFault c ch code side a
  | .ok (ra, rb) =>
    if s.tapeBusy c x then s
    else
      let us := unitPieces dv dst h.len
      let n := h.len / ra.es
      let sp := if h.rev then cellPieces c sv ra src n else sidePieces sv src h.len
      let dp := if h.rev then cellPieces c dv rb dst n else sidePieces dv dst h.len
      match s.copySide c ch sv h.rev sp, s.copySide c ch dv true dp, s.copySide c ch dv true us with
      | .bad code a, _, _ => s.chanFault c ch code 0 a
      | .miss vas, _, _ => s.chanAsk c ch vas
      | .ok _, .bad code a, _ => s.chanFault c ch code 1 a
      | .ok _, .miss vas, _ => s.chanAsk c ch vas
      | .ok _, .ok _, .bad code a => s.chanFault c ch code 1 a
      | .ok _, .ok _, .miss vas => s.chanAsk c ch vas
      | .ok a, .ok b, .ok u =>
        if s.cubeHolds c dv (u ++ if h.rev then b else []) || (h.rev && s.cubeHolds c sv a) then s
        else
          let asks := if h.rev then [] else s.msgParts c sv 0 a ++ s.msgParts c dv unitKeys u
          match s.chanAsks c ch asks (s.portBusy c sv a || s.portBusy c dv (b ++ u)) with
          | some t => t
          | none => if h.rev then s.dIterBack c ch (a.zip b) ((u.length + 62) / 63) else s.dIterForward c ch a b u

/-! One iteration. -/

/-- A plain or gather iteration whose source stands at an address. -/
def State.iterFrom (s : State) (c ch : Nat) (entry : BitVec 64) : State :=
  let h := s.chan c ch
  let src := h.srcAddr entry
  let sv := h.ssp == 1
  let dv := h.dsp == 1
  if baseBad s c sv src then s.chanFault c ch 9 0 src
  else
    match s.copySide c ch sv false (sidePieces sv src h.len) with
    | .bad code a => s.chanFault c ch code 0 a
    | .miss vas => s.chanAsk c ch vas
    | .ok ps =>
      match s.chanAsks c ch (s.msgParts c sv 0 ps) (s.portBusy c sv ps) with
      | some t => t
      | none =>
        if h.dsp = 2 then s.fabIter c ch entry ps
        else if baseBad s c dv h.dstAddr then s.chanFault c ch 9 1 h.dstAddr
        else
          match s.copySide c ch dv true (sidePieces dv h.dstAddr h.len) with
          | .bad code a => s.chanFault c ch code 1 a
          | .miss vas => s.chanAsk c ch vas
          | .ok qs => if s.cubeHolds c dv qs || s.portBusy c dv qs then s else s.plainIter c ch ps qs

/-- The queue's head leaves with its iteration; that of an iteration to a fabric destination when it is acknowledged. -/
def State.popIndex (s : State) (c ch : Nat) (before : Chan) : State :=
  let h := s.chan c ch
  if before.dsp = 2 ∨ h.state = 2 ∨ (h.state = 1 ∧ h.idx = before.idx ∧ !h.spent) then s
  else if h.state = 3 then s.setChan c ch { h with last := before.entry }
  else s.setChan c ch (h.popEntries 1)

/-- Whether a channel has something to do now: it runs, its crossing is not being switched (R153), its arrival is
not on its way, no message of it has failed (R247), and a release that ends it is not held (R350). -/
def State.chanActive (s : State) (c ch : Nat) : Bool :=
  let h := s.chan c ch
  h.state == 1 && (!h.spent || h.msgs.isEmpty) && !h.arriving && (s.core c).copyHold ≤ s.now && !(h.arrive && s.relHeld c)
    && !h.msgs.any (·.bad.isSome)

/-- Whether a write of the channel is on its way as a message. -/
def State.writesOut (s : State) (c ch : Nat) : Bool :=
  s.net.any fun m => m.core == c && (match m.dest, m.op with
    | .copy h _, .write _ _ => h == ch
    | _, _ => false)

/-- One iteration of a channel (R229, R241). -/
def copyIter (s : State) (c ch : Nat) : State :=
  let h := s.chan c ch
  if h.spent then s.chanDone c ch
  else if let some (code, side, a) := h.lost then s.chanFault c ch code side a
  else if h.sent then
    if s.writesOut c ch then s
    else if h.gather then (s.chanStep c ch).popIndex c ch h
    else s.chanStep c ch
  else if h.gather then
    match h.queue.drop h.iters with
    | [] => s
    | none :: _ => if h.msgs.isEmpty then (s.setChan c ch h.endedByMarker).chanDone c ch else s
    | some e :: _ => (s.iterFrom c ch e).popIndex c ch h
  else if h.dflag then s.dIter c ch
  else s.iterFrom c ch 0

/-- COPY_ITERATION. An iteration that faults halts its channel only when the messages of the earlier ones have been
acknowledged, since those are performed in full (R247). -/
def copyStep (s : State) (c ch : Nat) : State :=
  if !s.chanActive c ch then s
  else
    let r := copyIter s c ch
    if (r.chan c ch).state == 2 && !(s.chan c ch).msgs.isEmpty then s else r

def execCopyIteration (c ch : Nat) (s : State) : Host.Outcome State Fault Refusal :=
  if s.hasCore c ∧ ch < 4 then .next (copyStep s c ch) else .fault .noUnit

/-! The copy engine's part of a restore (R248). -/

/-- A restored channel: its hull, the bits of the chunks that no remaining iteration writes, and FADDR. -/
def Chan.fixRestored (h : Chan) : Chan :=
  let h1 : Chan := { h with hull := h.hullOf }
  if h.state = 2 then
    { h1 with
      bitmap := chunkBits fun j => !h1.remains (h1.chunkLo j) (h1.chunkHi j)
      faddr := if h.fside = 1 then h.dstAddr else if h.gather then h.srcb else h.srcAddr 0 }
  else h1

/-- STRAND_RESTORE (R109). -/
def execStrandRestore (c x : Nat) (s : State) : Host.Outcome State Fault Refusal :=
  if s.hasCore c ∧ x < 2 then .next (restoreStep s c x Chan.fixRestored) else .fault .noUnit

/-! Each instruction alone in a bundle (R144). -/

/-- CEBASE alone in a bundle, issued by the context in turn. -/
def execCebase (o : OpCeA) (s : State) : Host.Outcome State Fault Refusal :=
  issueOne .ce (.cebase o) o.g (semCebase o) s

/-- CELVL alone in a bundle, issued by the context in turn. -/
def execCelvl (o : OpCeA) (s : State) : Host.Outcome State Fault Refusal :=
  issueOne .ce (.celvl o) o.g (semCelvl o) s

/-- CELEN alone in a bundle, issued by the context in turn. -/
def execCelen (o : OpCeA) (s : State) : Host.Outcome State Fault Refusal :=
  issueOne .ce (.celen o) o.g (semCelen o) s

/-- CEFAB alone in a bundle, issued by the context in turn. -/
def execCefab (o : OpCeA) (s : State) : Host.Outcome State Fault Refusal :=
  issueOne .ce (.cefab o) o.g (semCefab o) s

/-- CEGO alone in a bundle, issued by the context in turn. -/
def execCego (o : OpCeA) (s : State) : Host.Outcome State Fault Refusal :=
  issueOne .ce (.cego o) o.g (semCego o) s

/-- CERESUME alone in a bundle, issued by the context in turn. -/
def execCeresume (o : OpCeA) (s : State) : Host.Outcome State Fault Refusal :=
  issueOne .ce (.ceresume o) o.g (semCeresume o) s

/-- CECANCEL alone in a bundle, issued by the context in turn. -/
def execCecancel (o : OpCeA) (s : State) : Host.Outcome State Fault Refusal :=
  issueOne .ce (.cecancel o) o.g (semCecancel o) s

/-- CESTAT alone in a bundle, issued by the context in turn. -/
def execCestat (o : OpCeA) (s : State) : Host.Outcome State Fault Refusal :=
  issueOne .ce (.cestat o) o.g (semCestat o) s

/-- CEIDX alone in a bundle, issued by the context in turn. -/
def execCeidx (o : OpCeA) (s : State) : Host.Outcome State Fault Refusal :=
  issueOne .ce (.ceidx o) o.g (semCeidx o) s

/-- CEIDXV alone in a bundle, issued by the context in turn. -/
def execCeidxv (o : OpCeV) (s : State) : Host.Outcome State Fault Refusal :=
  issueOne .ce (.ceidxv o) o.g (semCeidxv o) s

/-- CEIDXEND alone in a bundle, issued by the context in turn. -/
def execCeidxend (o : OpCeA) (s : State) : Host.Outcome State Fault Refusal :=
  issueOne .ce (.ceidxend o) o.g (semCeidxend o) s

end Sys2Proof.Machine
end

