-- ==== Sys2Proof/Machine/Tile.lean ====
section
/-! DEFINITION. Accumulator tiles and the matrix domain: the entry of values into a tile with renormalisation (R37 to R41),
the drain (R43), block scales (R44), face vectors (R250, R251), and what each beat does (R252 to R256, R276 to R283). -/

namespace Sys2Proof.Machine

/-! Values that enter a tile. -/

/-- A value entering a tile element: exact and finite, or a class (R40). -/
inductive TileVal
  | fin (d : Dy)
  | cls (n : Nat)
deriving DecidableEq, Repr

/-- Class of an element after a class enters (R40): 0 finite, 1 +∞, 2 −∞, 3 NaN. -/
def joinCls (a b : Nat) : Nat := if b = 0 then a else if a = 0 then b else if a = b then a else 3

/-- A floating value as it enters a tile. -/
def FVal.tileVal (a : FVal) : TileVal :=
  match a with
  | .nan _ => .cls 3
  | .inf n => .cls (if n then 2 else 1)
  | .fin _ _ _ => .fin a.dy

/-- The exact product of two operands, or its class (R38, R40). -/
def tileProd (a b : FVal) : TileVal :=
  if a.isNan || b.isNan then .cls 3
  else if (a.isInf && b.isZero) || (a.isZero && b.isInf) then .cls 3
  else if a.isInf || b.isInf then .cls (if a.neg != b.neg then 2 else 1)
  else .fin (a.dy.mul b.dy)

/-- The entered value at exponent e (R38); a class adds nothing to the significand. -/
def TileVal.q (e : Int) (v : TileVal) : Int :=
  match v with
  | .fin d => dyRne d e
  | .cls _ => 0

def TileVal.clsOf (v : TileVal) : Nat :=
  match v with
  | .fin _ => 0
  | .cls n => n

/-! Tiles. -/

/-- The exponent of a tile; 16 is accS (R37). -/
def Core.tileExp (k : Core) (t : Nat) : Int := mget (-80) k.tileE t

/-- The listed elements of a tile by position 128 × row + column. -/
def Core.tile (k : Core) (t : Nat) : NMap Elem :=
  (k.elems.filter fun p => p.1 / 16384 == t).map fun p => (p.1 % 16384, p.2)

/-- Elements with their keys rising and none that is the default. -/
def inOrder (l : NMap Elem) : NMap Elem := l.foldr (fun p m => if p.2 = {} then mdel p.1 m else mset p.1 p.2 m) []

/-- The elements and exponent of a tile replaced. -/
def Core.setTile (k : Core) (t : Nat) (e : Int) (l : NMap Elem) : Core :=
  { k with
    tileE := mset t e k.tileE
    elems := (k.elems.filter fun p => p.1 / 16384 < t)
      ++ ((inOrder l).map fun p => (t * 16384 + p.1, p.2))
      ++ k.elems.filter fun p => t < p.1 / 16384 }

/-- Step 1 of a renormalisation (R39): every finite significand becomes Rne(SIG / 16). -/
def renormElems (l : NMap Elem) : NMap Elem :=
  l.map fun p => (p.1, if p.2.cls = 0 then { p.2 with sig := dyRne ⟨p.2.sig, 0⟩ 4 } else p.2)

/-- Values that enter one element, by its position. -/
abbrev Entering := Nat × List TileVal

/-- The element an entry meets, finite zero where it replaces it, and its sum at exponent e (R41). -/
def entrySum (e : Int) (l : NMap Elem) (rep : Bool) (p : Entering) : Elem × Int :=
  let b : Elem := if rep then {} else mget {} l p.1
  (b, p.2.foldl (fun a v => a + v.q e) b.sig)

/-- Whether a finite element would reach 2^54 (R39). -/
def entryOver (e : Int) (l : NMap Elem) (rep : Bool) (p : Entering) : Bool :=
  let (b, n) := entrySum e l rep p
  b.cls == 0 && decide (2 ^ 54 ≤ n.natAbs)

/-- Renormalisations until no element would reach 2^54 or the exponent cannot rise (R39): the exponent, the elements and
how many there were. -/
def headroom (rep : Bool) (ps : List Entering) : Nat → Int → NMap Elem → Nat → Int × NMap Elem × Nat
  | 0, e, l, r => (e, l, r)
  | fuel + 1, e, l, r =>
    if (ps.any (entryOver e l rep)) && decide (e + 4 ≤ 32767) then headroom rep ps fuel (e + 4) (renormElems l) (r + 1)
    else (e, l, r)

/-- The element after its values entered (R39, R40). -/
def entryElem (e : Int) (l : NMap Elem) (rep : Bool) (p : Entering) : Elem :=
  let (b, n) := entrySum e l rep p
  let c0 := if entryOver e l rep p then (if 0 < n then 1 else 2) else b.cls
  let c := p.2.foldl (fun a v => joinCls a v.clsOf) c0
  { cls := c, sig := if c = 0 then n else 0 }

/-- What a step does to a tile: its exponent and elements after, renormalisations, elements that the exponent's limit made
infinite, and elements that became non-finite. -/
structure TileRes where
  e : Int
  elems : NMap Elem
  renorms : Nat
  sat : Nat
  nonfin : Nat

/-- Values entering a tile in one step (R38 to R41, R279). -/
def enterTile (e0 : Int) (l0 : NMap Elem) (rep : Bool) (ps : List Entering) : TileRes :=
  let (e, l, r) := headroom rep ps ((32767 - e0).toNat / 4 + 1) e0 l0 0
  { e := e
    elems := ps.foldl (fun m p => mset p.1 (entryElem e l rep p) m) l
    renorms := r
    sat := (ps.filter (entryOver e l rep)).length
    nonfin := (ps.filter fun p => (mget ({} : Elem) l p.1).cls == 0 && (entryElem e l rep p).cls != 0).length }

/-- Records of n equal events appended one by one (R289). -/
def State.stats (s : State) (x obj event : Nat) (c : Nat) (pc : BitVec 64) (n : Nat) : State :=
  (List.range n).foldl (fun t _ => t.stat c x 0 obj event 1 pc) s

/-- Values entering tile t of core c by a beat, with its records (R288) and NFS bits (R32, R39): `bit` is set when an
element becomes non-finite. The renormalisations come first. -/
def State.enter (s : State) (c : Nat) (b : Beat) (t : Nat) (rep : Bool) (ps : List Entering) (bit : BitVec 5) :
    Nat × State :=
  let k := s.core c
  let r := enterTile (k.tileExp t) (k.tile t) rep ps
  let s1 := (s.modCore c fun k => k.setTile t r.e r.elems).stats b.x t 2 c b.pc r.renorms
  let s2 := if r.sat = 0 then s1 else (s1.stat c b.x 0 t 4 r.sat b.pc).setNfs c b.x 1
  let s3 := if r.nonfin = 0 then s2 else (s2.stat c b.x 0 t 1 r.nonfin b.pc).setNfs c b.x bit
  (r.renorms, s3)

/-! Operand formats (R250, R251). -/

/-- The format register value that a format code reads. -/
def mxFmt (code : Nat) (fa fb : BitVec 32) : BitVec 32 := if code = 3 then fb else fa

/-- Products per beat of a format code: g of R250, which tells the width classes apart. -/
def widthG (code : Nat) (fa fb : BitVec 32) : Nat :=
  if code ≤ 1 then 1
  else if code ≤ 3 then (if (Fmt.ofReg (mxFmt code fa fb)).w = 4 then 4 else 2)
  else 2

/-- The format weight of a width class (R250). -/
def weightOf (g : Nat) : Nat := 4 / g

/-- An integer as an exact value. -/
def FVal.ofInt (i : Int) : FVal := .fin (decide (i < 0)) i.natAbs 0

/-- Sub-element h of a group of 16 bits (R251). -/
def groupVal (code : Nat) (fa fb : BitVec 32) (grp h : Nat) : FVal :=
  let f := Fmt.ofReg (mxFmt code fa fb)
  let byte := grp / 256 ^ h % 256
  match code with
  | 0 => Fmt.bf16.dec grp
  | 1 => Fmt.f16.dec grp
  | 4 => FVal.ofInt (sgn 8 byte)
  | 5 => FVal.ofInt byte
  | _ => if f.w = 4 then f.dec (grp / 16 ^ h % 16) else f.dec (byte % 2 ^ f.w)

/-- Group i of a face vector. -/
def faceGroup (v : BitVec 2048) (i : Nat) : Nat := v.toNat / 2 ^ (16 * i) % 65536

/-- The values that row or column i takes from the face vectors of a step, in the order of the product slots; `used` says
which of them the reduction length covers (R260). -/
def lineVals (code : Nat) (fa fb : BitVec 32) (g : Nat) (vs : List (BitVec 2048)) (used : Nat → Bool) (i : Nat) :
    List FVal :=
  vs.zipIdx.flatMap fun (v, j) =>
    ((List.range g).filter fun h => used (j * g + h)).map fun h => groupVal code fa fb (faceGroup v i) h

/-- The products of a step by element (R251, R260), for m < M and n < N. -/
def stepEntries (m n : Nat) (rows cols : Nat → List FVal) : List Entering :=
  (List.range m).flatMap fun i => (List.range n).map fun j => (128 * i + j, List.zipWith tileProd (rows i) (cols j))

/-- The active layers of a mask, in increasing order. -/
def layersOf (mask : Nat) : List Nat := (List.range 8).filter fun l => mask / 2 ^ l % 2 == 1

/-! Derived quantities of a CUBE (R260). -/

def CubeDesc.g (d : CubeDesc) : Nat := widthG d.af d.fa d.fb
def CubeDesc.fw (d : CubeDesc) : Nat := weightOf d.g
def CubeDesc.groups (d : CubeDesc) : Nat := (d.k + d.g - 1) / d.g
def CubeDesc.layers (d : CubeDesc) : Nat := (layersOf d.mask).length
def CubeDesc.steps (d : CubeDesc) : Nat := (d.groups + d.layers - 1) / d.layers

/-- The tile that a CUBE updates. -/
def CubeDesc.target (d : CubeDesc) : Nat := if d.mode = 2 then 16 else d.tile

/-- The entries of step s of a CUBE from its face vectors. -/
def CubeDesc.entries (d : CubeDesc) (s : Nat) (a b : List (BitVec 2048)) : List Entering :=
  let used (i : Nat) : Bool := s * d.layers * d.g + i < d.k
  stepEntries d.m d.n (lineVals d.af d.fa d.fb d.g a used) (lineVals d.bf d.fa d.fb d.g b used)

/-! Blocks and drains. -/

/-- Rows and columns of a block of `count` elements under SHAPE (R169). -/
def blockRows (shape : Nat) : Nat := 2 ^ shape
def blockCols (count shape : Nat) : Nat := count / 2 ^ shape

/-- Whether a block lies within the tile and the register. -/
def blockOk (count shape row col : Nat) : Bool :=
  blockRows shape ≤ count && row + blockRows shape ≤ 128 && col + blockCols count shape ≤ 128

/-- The tile positions of a block, by register element. -/
def blockPos (count shape row col : Nat) : List Nat :=
  (List.range count).map fun i => 128 * (row + i / blockCols count shape) + (col + i % blockCols count shape)

/-- The value of an element (R37). -/
def Elem.val (a : Elem) (e : Int) : FVal :=
  match a.cls with
  | 0 => .fin (decide (a.sig < 0)) a.sig.natAbs e
  | 1 => .inf false
  | 2 => .inf true
  | _ => .nan false

/-- An element converted to a format (R43). -/
def Elem.drain (a : Elem) (e : Int) (f : Fmt) (mode : RMode) (sat : Bool) (z : Nat) : FRes :=
  if a.cls = 0 ∧ a.sig = 0 then ⟨0, 0⟩ else f.ofVal mode sat z (a.val e)

/-- A result of the matrix domain sent to its register: it lands `lat` core cycles after issue, later by the time its beat
was held back (R252); a change of divisor does not move it (R383). -/
def State.landBeat (s : State) (c : Nat) (b : Beat) (id lat : Nat) (v : BitVec 2048) (mk : Option Mark) : State :=
  let k := s.core c
  let due := b.tick + lat + (s.now - (b.time + k.mat) + k.cor - 1) / k.cor
  s.modCtx c b.x fun q =>
    { q with pend := q.pend.map fun p =>
        if p.due = .reply id then
          { p with val := v, mark := mk, due := .cycle (q.cyc + (due - k.tick)) due }
        else p }

/-- The key of element p of a tile among the marks. -/
def elemKey (t p : Nat) : Nat := t * 16384 + p

/-- The first mark among some elements of a tile (R377). -/
def Core.elemMark (k : Core) (t : Nat) (ps : List Nat) : Option Mark :=
  if k.tileMarks.isEmpty then none
  else ps.findSome? fun p => (k.tileMarks.find? fun m => m.1 == elemKey t p).map (·.2)

/-- Elements of a tile marked, or good again. -/
def Core.markElems (k : Core) (t : Nat) (ps : List Nat) (m : Mark) : Core :=
  { k with tileMarks := ps.foldl (fun l p => mset (elemKey t p) m l) k.tileMarks }
def Core.goodElems (k : Core) (t : Nat) (ps : List Nat) : Core :=
  if k.tileMarks.isEmpty then k else { k with tileMarks := ps.foldl (fun l p => mdel (elemKey t p) l) k.tileMarks }

/-- A block drained into a register with its flags, NFS.DRAIN and record (R43, R278, R280). -/
def State.drain (s : State) (c : Nat) (b : Beat) (t row col shape id : Nat) (ty : ETy) (f : Fmt) (mode : RMode)
    (sat : Bool) (seed : BitVec 64) : State :=
  let k := s.core c
  let e := k.tileExp t
  let l := k.tile t
  let rs := (blockPos ty.count shape row col).map fun p => (mget {} l p).drain e f mode sat (rstZ seed p)
  let lost := (rs.filter fun r => r.fl &&& Flags.fovf != 0 && !sat).length
  let s1 := s.landBeat c b id 6 (joinElems ty.w (rs.map (·.bits)))
    (k.elemMark t (blockPos ty.count shape row col))
  let s2 := s1.setFlags c b.x (rs.foldl (fun fl r => fl ||| r.fl) 0)
  let s3 := if lost ≠ 0 ∨ rs.any (fun r => ty.nonFinite r.bits) then s2.setNfs c b.x 4 else s2
  if lost = 0 then s3 else s3.stat c b.x 0 t 3 lost b.pc

/-- A tile cleared with an exponent (R42); its elements are good again. -/
def Core.zeroTile (k : Core) (t : Nat) (e : Int) : Core :=
  { k.setTile t e [] with tileMarks := k.tileMarks.filter fun m => m.1 / 16384 != t }

/-! Beats. -/

/-- The face slice of a layer (R251, R254). -/
def Core.face (k : Core) (north : Bool) (l : Nat) : BitVec 2048 := mget 0 (if north then k.north else k.west) l

/-- Key of 8 bytes of a face slice among the marks. -/
def faceKey (north : Bool) (l i : Nat) : Nat := 64 * l + (if north then 32 else 0) + i

/-- The elements of a tile that bytes of a face slice, by their key, enter: four rows from the west, four columns from the
north (R251). -/
def faceElems (key : Nat) : List Nat :=
  let i := key % 32
  (List.range 4).flatMap fun a => (List.range 128).map fun b =>
    if key / 32 % 2 = 0 then 128 * (4 * i + a) + b else 128 * b + 4 * i + a

/-- The elements of a tile that marked bytes of the active layers enter are marked (R377). -/
def Core.markFaces (k : Core) (t : Nat) (ls : List Nat) : Core :=
  (k.faceMarks.filter fun p => ls.contains (p.1 / 64)).foldl (fun a p => a.markElems t (faceElems p.1) p.2) k

/-- A slice pushed (R254). -/
def Core.pushFace (k : Core) (north : Bool) (l : Nat) (v : BitVec 2048) : Core :=
  let k1 := { k with faceMarks := k.faceMarks.filter fun p => p.1 / 32 != faceKey north l 0 / 32 }
  if north then { k1 with north := mset l v k1.north } else { k1 with west := mset l v k1.west }

/-- An MSTEP (R251, R255). -/
def State.mstep (s : State) (c : Nat) (b : Beat) (t mask af bf : Nat) (fa fb : BitVec 32) : Nat × State :=
  let k := s.core c
  let ls := layersOf mask
  let g := widthG af fa fb
  let a := ls.map (k.face false)
  let n := ls.map (k.face true)
  let used (_ : Nat) : Bool := true
  (s.modCore c fun q => q.markFaces t ls).enter c b t false
    (stepEntries 128 128 (lineVals af fa fb g a used) (lineVals bf fa fb g n used)) 1

/-- Values of the entry vector of an MOUTER with the rows they cover (R277). -/
def outerVals (ty : ETy) (half : Bool) (v : BitVec 2048) : List (Nat × FVal) :=
  let n := ty.count
  if n = 256 then (List.range 128).map fun m => (m, ty.val (elem ty.w ((if half then 128 else 0) + m) v))
  else if n = 128 then (List.range 128).map fun m => (m, ty.val (elem ty.w m v))
  else (List.range 64).map fun i => ((if half then 64 else 0) + i, ty.val (elem ty.w i v))

/-- The entries of an MOUTER. -/
def outerEntries (ty : ETy) (ha hb : Bool) (a b : BitVec 2048) : List Entering :=
  let bs := outerVals ty hb b
  (outerVals ty ha a).flatMap fun p => bs.map fun q => (128 * p.1 + q.1, [tileProd p.2 q.2])

/-- An MWRACC's entries (R279). -/
def wraccEntries (ty : ETy) (row col shape : Nat) (v : BitVec 2048) : List Entering :=
  (blockPos ty.count shape row col).zipIdx.map fun (p, i) => (p, [(ty.val (elem ty.w i v)).tileVal])

/-- The scaled value of an element of accS (R44). -/
def scaled (a : Elem) (e : Int) (sa sb : Nat) : TileVal :=
  if sa = 255 ∨ sb = 255 then .cls 3
  else if a.cls ≠ 0 then .cls a.cls
  else .fin ⟨a.sig, e + ((sa : Int) - 127) + ((sb : Int) - 127)⟩

/-- An MSCACC's entries (R281). -/
def scaccEntries (k : Core) (ha hb : Bool) (a b : BitVec 2048) : List Entering :=
  let l := k.tile 16
  let e := k.tileExp 16
  (List.range 128).flatMap fun i =>
    let sa := elem 8 ((if ha then 128 else 0) + i) a
    (List.range 128).map fun j =>
      (128 * i + j, [scaled (mget {} l (128 * i + j)) e sa (elem 8 ((if hb then 128 else 0) + j) b)])

/-- MRENORM (R282). -/
def State.mrenorm (s : State) (c : Nat) (b : Beat) (t : Nat) : State :=
  let k := s.core c
  let e := k.tileExp t
  if 32767 < e + 4 then s
  else (s.modCore c fun k => k.setTile t (e + 4) (renormElems (k.tile t))).stat c b.x 0 t 2 1 b.pc

/-- The block of an MRDACC with CLR becomes finite zero (R278). -/
def Core.clearBlock (k : Core) (t row col shape : Nat) : Core :=
  (k.setTile t (k.tileExp t) ((blockPos 64 shape row col).foldl (fun l p => mdel p l) (k.tile t))).goodElems t
    (blockPos 64 shape row col)

/-- Elements of accS that are marked mark those of the tile that they enter (R281, R377). -/
def Core.markScaled (k : Core) (t : Nat) : Core :=
  (k.tileMarks.filter fun m => m.1 / 16384 == 16).foldl (fun a m => a.markElems t [m.1 % 16384] m.2) k

/-- The first beat of a CUBE clears its tile in modes 1 and 2 (R266). -/
def State.cubeClear (s : State) (c : Nat) (d : CubeDesc) (clear : Bool) : State :=
  if clear then s.modCore c fun k => k.zeroTile d.target d.e0 else s

/-- MX.PROG.STEP after a step beat (R268), in the strand that issued the CUBE, while MX.PROG describes it. -/
def State.noteStep (s : State) (c : Nat) (d : CubeDesc) (n : Nat) : State :=
  s.modCtx c d.x fun k =>
    if k.cubeId == d.id && k.strand.any fun st => st.slot == d.slot then { k with mx := { k.mx with step := n + 1 } } else k

/-- A beat performed: how many renormalisation beats it took besides, and the state after it (R252). -/
def State.performBeat (s : State) (c : Nat) (b : Beat) : Nat × State :=
  match b.op with
  | .push north l v => (0, s.modCore c fun k => k.pushFace north l v)
  | .step t mask af bf fa fb => s.mstep c b t mask af bf fa fb
  | .cubeStep d n a v =>
    let (r, s1) := s.enter c b d.target false (d.entries n a v) 1
    (r, s1.noteStep c d n)
  | .cubeOther d clear => (0, s.cubeClear c d clear)
  | .drain t row col ty fmt sat mode shape seed id =>
    let e := eTy ty (Fmt.ofReg fmt)
    (0, match e.flt with
      | some f => s.drain c b t row col shape id e f mode sat seed
      | none => s)
  | .zero t e => (0, s.modCore c fun k => k.zeroTile t e)
  | .outer t ty ha hb a v => s.enter c b t false (outerEntries (eTy ty Fmt.f32) ha hb a v) 1
  | .rdacc t row col clr shape id =>
    let s1 := s.drain c b t row col shape id (eTy 0 Fmt.f32) Fmt.f32 0 false 0
    (0, if clr then s1.modCore c fun k => k.clearBlock t row col shape else s1)
  | .wracc t row col ty add shape v =>
    let es := wraccEntries (eTy ty Fmt.f32) row col shape v
    let s0 := if add then s else s.modCore c fun k => k.goodElems t (es.map (·.1))
    let (r, s1) := s0.enter c b t (!add) es 0
    (r, if es.any fun p => p.2.any fun v => v.clsOf != 0 then s1.setNfs c b.x 1 else s1)
  | .scacc t ha hb a v =>
    (s.modCore c fun k => k.markScaled t).enter c b t false (scaccEntries (s.core c) ha hb a v) 8
  | .renorm t => (0, s.mrenorm c b t)
  | .expRead t id =>
    (0, s.landBeat c b id 2 (BitVec.ofInt 2048 ((s.core c).tileExp t)) none)
  | .expWrite t e => (0, s.modCore c fun k => { k with tileE := mset t e k.tileE })

/-- MATRIX_BEAT (R152, R252): the matrix domain takes the oldest beat and performs it, unless the governor holds the column
paused (R374). A renormalisation costs one beat more. DEDUCED: a beat is in the array for the five beats that a drain's
latency leaves it (log 92). DESIGN CHOICE: the STAT and NFS bits of a beat that waited in the FIFO are set when it is performed,
in its context, whichever strand that then holds (log 110). -/
def execMatrixBeat (c : Nat) (s : State) : Host.Outcome State Fault Refusal :=
  if s.hasCore c then
    match (s.core c).fifo with
    | [] => .next s
    | b :: t =>
      if s.paused c then .next s
      else
        let (r, s1) := (s.modCore c fun k => { k with fifo := t }).performBeat c b
        .next (s1.modCore c fun k =>
          { k with nextBeat := s.now + (1 + r) * k.mat, arrayUntil := mset b.x (s.now + (5 + r) * k.mat) k.arrayUntil })
  else .fault .noUnit

end Sys2Proof.Machine
end

