-- ==== Sys2Proof/Machine/Cube.lean ====
section
/-! DEFINITION. The instructions of slot MX (R252 to R285), the cube sequencer (R258 to R274) and the heat-token bucket
(R275). -/

namespace Sys2Proof.Machine

/-! What every MX operation shares (R253). -/

/-- The traps of every MX operation, in the order of R269: MXDRONE, PERM, MXBUSY. -/
def mxTrap (s : State) (c x : Nat) : Option (Nat × BitVec 64) :=
  let k := s.ctx c x
  let cube := match k.strand with | some st => (s.hdrOf st).cube | none => false
  if s.isDrone c x then some (6, 0)
  else if !cube then some (9, 0)
  else if k.mx.phase = 1 || k.restart then some (5, 0)
  else none

/-- The tile that a layout names; TS = 1 is accS. -/
def tileNo (ts : BitVec 1) (tile : BitVec 4) : Nat := if ts = 1 then 16 else tile.toNat

/-- A beat enters the beat FIFO; in a column with a failed layer its context takes POISON (R152, R365). -/
def State.pushBeat (s : State) (c x : Nat) (pc : BitVec 64) (op : BeatOp) : State :=
  let s1 := s.modCore c fun q => { q with fifo := q.fifo ++ [⟨x, pc, s.now, q.tick, op⟩] }
  if (s.stk (stackOf c)).rtFail / 2 ^ (c % 24) % 2 = 1 then
    s1.modCtx c x fun k => if k.trapNext.isNone then { k with trapNext := some ⟨0x10, 3, 0⟩ } else k
  else s1

/-- An operation of the matrix domain: registers, a check that traps ILLOP, heat tokens, and the beat with whatever it does
at issue besides. The heat it waits for does not depend on the registers it reads (R139). -/
def beatSem (s : State) (c x : Nat) (reads writes : List RegName) (ill : Bool) (heat : Nat) (pre : State → State)
    (op : BeatOp) : Sem :=
  { reads := reads
    gate := []
    writes := writes
    trap0 := match mxTrap s c x with
      | some t => some t
      | none => if ill then some (1, 0) else none
    wait := if (s.core c).heat < heat then some (.heat, id) else none
    eff := fun t =>
      ((pre t).modCore c fun q => { q with heat := q.heat - heat }).pushBeat c x (s.ctx c x).pc op }

/-- The number that a result of the matrix domain will carry, and the destination it is pending on. -/
def State.awaitBeat (d : Dst) (c x id : Nat) (t : State) : State :=
  ({ t with nextId := t.nextId + 1 }).modCtx c x fun k => k.pending d 0 (.reply id) none

def semMpusha (o : OpPush) (s : State) (c x : Nat) : Sem :=
  beatSem s c x [.v o.vs.toNat] [] false 0 id (.push false o.l.toNat ((s.ctx c x).rv o.vs))

def semMpushb (o : OpPush) (s : State) (c x : Nat) : Sem :=
  beatSem s c x [.v o.vs.toNat] [] false 0 id (.push true o.l.toNat ((s.ctx c x).rv o.vs))

/-- MSTEP (R255). -/
def semMstep (o : OpStep) (s : State) (c x : Nat) : Sem :=
  let k := s.ctx c x
  let fa := k.rf o.fa.toNat
  let fb := k.rf o.fb.toNat
  let ga := widthG o.af.toNat fa fb
  let heat := (layersOf o.mask.toNat).length * weightOf ga
  beatSem s c x [] [] (ga != widthG o.bf.toNat fa fb) heat id
    (.step (tileNo o.ts o.tile) o.mask.toNat o.af.toNat o.bf.toNat fa fb)

/-- MDRAIN (R280). -/
def semMdrain (o : OpDrain) (s : State) (c x : Nat) : Sem :=
  let k := s.ctx c x
  let fmt := k.rf o.fr.toNat
  let n := (eTy o.ty.toNat (Fmt.ofReg fmt)).count
  beatSem s c x [] [.v o.vd.toNat] (!blockOk n k.shape o.row.toNat o.col.toNat) 0
    (fun t => (t.awaitBeat (.v o.vd.toNat) c x s.nextId).advanceSeed c x k.srseed)
    (.drain (tileNo o.ts o.tile) o.row.toNat o.col.toNat o.ty.toNat fmt (o.sat == 1) o.mode.toNat k.shape k.srseed
      s.nextId)

def semMzero (o : OpZero) (s : State) (c x : Nat) : Sem :=
  beatSem s c x [] [] false 0 id (.zero (tileNo o.ts o.tile) o.e.toInt)

/-- MOUTER (R277). -/
def semMouter (o : OpOuter) (s : State) (c x : Nat) : Sem :=
  let k := s.ctx c x
  let t := o.ty.toNat
  beatSem s c x [.v o.va.toNat, .v o.vb.toNat] [] false (if t = 5 ∨ t = 8 then 2 else 4) id
    (.outer (tileNo o.ts o.tile) t (o.ha == 1) (o.hb == 1) (k.rv o.va) (k.rv o.vb))

/-- MRDACC (R278). -/
def semMrdacc (o : OpRdAcc) (s : State) (c x : Nat) : Sem :=
  let k := s.ctx c x
  beatSem s c x [] [.v o.vd.toNat] (!blockOk 64 k.shape o.row.toNat o.col.toNat) 0
    (fun t => t.awaitBeat (.v o.vd.toNat) c x s.nextId)
    (.rdacc (tileNo o.ts o.tile) o.row.toNat o.col.toNat (o.clr == 1) k.shape s.nextId)

/-- MWRACC (R279). -/
def semMwracc (o : OpWrAcc) (s : State) (c x : Nat) : Sem :=
  let k := s.ctx c x
  let n := (eTy o.ty.toNat Fmt.f32).count
  beatSem s c x [.v o.vs.toNat] [] (!blockOk n k.shape o.row.toNat o.col.toNat) 0 id
    (.wracc (tileNo o.ts o.tile) o.row.toNat o.col.toNat o.ty.toNat (o.add == 1) k.shape (k.rv o.vs))

/-- MSCACC (R281). -/
def semMscacc (o : OpScAcc) (s : State) (c x : Nat) : Sem :=
  let k := s.ctx c x
  beatSem s c x [.v o.va.toNat, .v o.vb.toNat] [] false 0 id
    (.scacc o.tile.toNat (o.ha == 1) (o.hb == 1) (k.rv o.va) (k.rv o.vb))

def semMrenorm (o : OpTile) (s : State) (c x : Nat) : Sem :=
  beatSem s c x [] [] false 0 id (.renorm (tileNo o.ts o.tile))

/-- MEXP (R283). -/
def semMexp (o : OpExp) (s : State) (c x : Nat) : Sem :=
  beatSem s c x [] [.s o.sd.toNat] false 0 (fun t => t.awaitBeat (.s o.sd.toNat) c x s.nextId)
    (.expRead (tileNo o.ts o.tile) s.nextId)

def semMexpW (o : OpExp) (s : State) (c x : Nat) : Sem :=
  beatSem s c x [.s o.sa.toNat] [] false 0 id
    (.expWrite (tileNo o.ts o.tile) (sgn 16 ((s.ctx c x).rs o.sa).toNat))

/-- MFMT (R284). -/
def semMfmt (o : OpFmt) (s : State) (c x : Nat) : Sem :=
  let v := (s.ctx c x).rs o.sa
  { reads := [.s o.sa.toNat]
    trap0 := mxTrap s c x
    trap := if bitsOf v 63 32 != 0 || !fmtLegal (v.setWidth 32) then some (0x0E, 0) else none
    eff := fun t => t.modCtx c x fun k => { k with f := mset o.fd.toNat (v.setWidth 32) k.f } }

/-- MPROG (R285). -/
def semMprog (o : OpProg) (s : State) (c x : Nat) : Sem :=
  { writes := [.s o.sd.toNat]
    trap0 := mxTrap s c x
    eff := fun t =>
      let v := match o.sel.toNat with
        | 0 => (t.ctx c x).mx.word
        | 1 => (t.core c).heat
        | _ => (t.core c).statq.length
      t.resS c x o.sd (BitVec.ofNat 64 v) 1 }

/-! The descriptor of a CUBE (R258, R259). -/

/-- The descriptor in the scalars from sd on. -/
def readDesc (s : State) (c x : Nat) (p : MxProg) : CubeDesc :=
  let k := s.ctx c x
  let r (i : Nat) : BitVec 64 := k.rs (BitVec.ofNat 6 (p.sd + i))
  { x := x, pc := k.pc, tile := p.tile, mask := p.mask, af := p.af, bf := p.bf, mode := p.mode
    k := bitsOf (r 0) 47 32, n := bitsOf (r 0) 31 16, m := bitsOf (r 0) 15 0
    aptr := r 1, akstr := bitsOf (r 2) 31 16, apitch := bitsOf (r 2) 15 0
    bptr := r 3, bkstr := bitsOf (r 4) 31 16, bpitch := bitsOf (r 4) 15 0
    e0 := sgn 16 (bitsOf (r 5) 31 16)
    fa := k.rf (bitsOf (r 5) 4 2), fb := k.rf (bitsOf (r 5) 7 5)
    ta := (r 5).getLsbD 0, tb := (r 5).getLsbD 1
    slot := match k.strand with | some st => st.slot | none => 0 }

/-- The fields that a descriptor requires to be zero. -/
def descZero (k : Ctx) (sd : Nat) : Bool :=
  let r (i : Nat) : BitVec 64 := k.rs (BitVec.ofNat 6 (sd + i))
  bitsOf (r 0) 63 48 == 0 && bitsOf (r 2) 63 32 == 0 && bitsOf (r 4) 63 32 == 0 && bitsOf (r 5) 63 32 == 0
    && bitsOf (r 5) 15 8 == 0

/-- The value ranges of a descriptor. -/
def CubeDesc.inRange (d : CubeDesc) : Bool :=
  1 ≤ d.k && d.k ≤ 4096 && 1 ≤ d.n && d.n ≤ 128 && 1 ≤ d.m && d.m ≤ 128 && (d.ta || d.apitch == 0)
    && (d.tb || d.bpitch == 0) && widthG d.af d.fa d.fb == widthG d.bf d.fa d.fb

/-! The fetch stream (R261, R262). -/

/-- An item of the stream: the rows of a block of an operand (B if `b`), or the face vectors of a step. -/
inductive FetchItem
  | load (b : Bool) (blk i : Nat)
  | fetch (s : Nat)
deriving DecidableEq, Repr

/-- Operand quantities: dimension, unit of the pointer, strides, layout. -/
def CubeDesc.dim (d : CubeDesc) (b : Bool) : Nat := if b then d.n else d.m
def CubeDesc.ptr (d : CubeDesc) (b : Bool) : BitVec 64 := if b then d.bptr else d.aptr
def CubeDesc.kstr (d : CubeDesc) (b : Bool) : Nat := if b then d.bkstr else d.akstr
def CubeDesc.pitch (d : CubeDesc) (b : Bool) : Nat := if b then d.bpitch else d.apitch
def CubeDesc.trans (d : CubeDesc) (b : Bool) : Bool := if b then d.tb else d.ta

/-- The unit that holds block `blk` of row r of a transposed operand. -/
def CubeDesc.rowUnit (d : CubeDesc) (b : Bool) (blk r : Nat) : Nat :=
  (bitsOf (d.ptr b) 25 6 + r * d.pitch b + blk * d.kstr b) % 2 ^ 20

/-- Unit i of face vector u of a face-major operand. -/
def CubeDesc.faceUnit (d : CubeDesc) (b : Bool) (u i : Nat) : Nat :=
  (bitsOf (d.ptr b) 25 6 + u * d.kstr b + i) % 2 ^ 20

/-- The blocks that step s needs of a transposed operand and no step from `start` on before it did. -/
def CubeDesc.newBlocks (d : CubeDesc) (start s : Nat) : List Nat :=
  let lo := s * d.layers / 32
  let hi := (min (s * d.layers + d.layers) d.groups - 1) / 32
  let all := if lo = hi then [lo] else [lo, hi]
  if s = start then all else all.filter fun b => (s * d.layers - 1) / 32 < b

/-- The load items of a step for one operand. -/
def CubeDesc.loads (d : CubeDesc) (b : Bool) (start s : Nat) : List FetchItem :=
  if d.trans b then
    (d.newBlocks start s).flatMap fun blk => (List.range ((d.dim b + 31) / 32)).map fun i => .load b blk i
  else []

/-- The stream F from a step on. -/
def CubeDesc.stream (d : CubeDesc) (start : Nat) : List FetchItem :=
  (List.range (d.steps - start)).flatMap fun i =>
    d.loads false start (start + i) ++ d.loads true start (start + i) ++ [.fetch (start + i)]

/-- The face vectors of step s: those of the k-groups that exist. -/
def CubeDesc.stepGroups (d : CubeDesc) (s : Nat) : List Nat :=
  (List.range d.layers).filterMap fun j => if s * d.layers + j < d.groups then some (s * d.layers + j) else none

/-- The units that an item reads, with the operand of each, in the order of R262. -/
def CubeDesc.itemUnits (d : CubeDesc) (it : FetchItem) : List (Bool × Nat) :=
  match it with
  | .load b blk i =>
    (List.range (min 32 (d.dim b - 32 * i))).map fun r => (b, d.rowUnit b blk (32 * i + r))
  | .fetch s =>
    [false, true].flatMap fun b =>
      if d.trans b then []
      else (d.stepGroups s).flatMap fun u => (List.range ((d.dim b + 31) / 32)).map fun i => (b, d.faceUnit b u i)

/-- The pointer of a unit of an operand. -/
def CubeDesc.unitPtr (d : CubeDesc) (u : Bool × Nat) : BitVec 64 := mkVp (vpVault (d.ptr u.1)) (64 * u.2)

/-- The first unit that falls in a bank of an earlier, different unit of its item (R263). -/
def itemConf (us : List Nat) : Option Nat :=
  (us.zipIdx.find? fun (u, i) => (us.take i).any fun v => v != u && v % 128 == u % 128).map (·.1)

/-- The traps of a descriptor in the order of R259 and R263. DESIGN CHOICE: of two bad pointers A's is recorded, of several units
in row 8,191 or in a bank of another the first in stream order (log 115). -/
def descTrap (s : State) (c x sd : Nat) (d : CubeDesc) (start : Nat) : Option (Nat × BitVec 64) :=
  let bad (p : BitVec 64) : Bool := bitsOf p 63 33 != 0 || vaultNum c p != c
  if !descZero (s.ctx c x) sd || !d.inRange then some (1, 0)
  else if bad d.aptr then some (9, d.aptr)
  else if bad d.bptr then some (9, d.bptr)
  else if bitsOf d.aptr 5 0 ≠ 0 then some (7, d.aptr)
  else if bitsOf d.bptr 5 0 ≠ 0 then some (7, d.bptr)
  else
    let its := d.stream start
    let high := its.findSome? fun it => (d.itemUnits it).find? fun u => 8191 * 128 ≤ u.2
    match if s.supv c x then none else high with
    | some u => some (9, d.unitPtr u)
    | none =>
      (its.findSome? fun it => itemConf ((d.itemUnits it).map (·.2))).map fun u => (3, mkVp 127 (64 * u))

/-! Claims (R264). -/

/-- The chunks of an operand that the items read. -/
def CubeDesc.chunks (d : CubeDesc) (b : Bool) (its : List FetchItem) : List Nat :=
  its.flatMap fun it => ((d.itemUnits it).filter fun u => u.1 == b).map fun u => u.2 / 8

/-- The live bits of chunks from a base. -/
def liveBits (base : Nat) (chunks : List Nat) : Nat := chunks.foldl (fun v k => v ||| 2 ^ (k - base)) 0

/-- The claim of an operand; none when no item reads it. -/
def CubeDesc.claim (d : CubeDesc) (c : Nat) (b : Bool) (its : List FetchItem) : Option ScoreEnt :=
  match d.chunks b its with
  | [] => none
  | k :: t =>
    let base := t.foldl min k
    some { owner := if b then .cubeB else .cubeA, vault := true, key := c, base := base, live := liveBits base (k :: t)
           tailLo := 0, tailHi := 0, tail := false }

/-- The hull of an operand in bytes. -/
def CubeDesc.hull (d : CubeDesc) (b : Bool) (its : List FetchItem) : Option (Nat × Nat) :=
  match d.chunks b its with
  | [] => none
  | k :: t => some (512 * t.foldl min k, 512 * t.foldl max k + 511)

/-- Whether a CUBE's claims must wait (R264): two entries, and no live chunk of a copy in either hull. -/
def claimWaits (s : State) (c : Nat) (d : CubeDesc) (its : List FetchItem) : Bool :=
  let sc := (s.core c).score
  14 < sc.length || [false, true].any fun b =>
    match d.hull b its with
    | none => false
    | some (lo, hi) => sc.any fun e => (match e.owner with | .chan _ => true | _ => false) && e.hits true c lo hi

/-- The claims as they stand when only the given items are left; an entry without live chunks retires. -/
def Core.updateClaims (k : Core) (d : CubeDesc) (its : List FetchItem) : Core :=
  { k with
    score := (k.score.map fun e =>
      if e.owner = .cubeA then { e with live := liveBits e.base (d.chunks false its) }
      else if e.owner = .cubeB then { e with live := liveBits e.base (d.chunks true its) }
      else e).filter fun e => e.live != 0 || e.tail }

/-! Starting (R266, R273). -/

/-- The sequencer set going from a step; a CUBE with no step left is complete. -/
def State.startSeq (s : State) (c x : Nat) (d : CubeDesc) (p : MxProg) (start : Nat) (clear : Bool) : State :=
  let its := d.stream start
  let s1 := s.modCtx c x fun k =>
    { k with mx := { p with phase := if its.isEmpty then 0 else 1 }, restart := false }
  if its.isEmpty then s1.modCore c fun q => q.clearFaces d.mask
  else s1.modCore c fun q =>
    { q with
      score := q.score ++ (d.claim c false its).toList ++ (d.claim c true its).toList
      seq := some { d := d, start := start, beat := 0, buf := [], ready := [], clear := clear, born := s.now } }

/-- The scalars that hold a descriptor. -/
def descRegs (sd : Nat) : List RegName := (List.range 6).map fun i => .s (sd + i)

/-- CUBE (R257 to R269). A stopped CUBE is abandoned, and the slices of its layers are zero (R256, R272). -/
def semCube (o : OpCube) (s : State) (c x : Nat) : Sem :=
  let p : MxProg := { phase := 1, sd := o.sd.toNat, tile := o.tile.toNat, af := o.af.toNat, bf := o.bf.toNat,
                      mode := o.mode.toNat, mask := o.mask.toNat, step := 0 }
  let d := readDesc s c x p
  let heat := d.steps * d.layers * d.fw
  { reads := descRegs p.sd
    trap0 := mxTrap s c x
    trap := descTrap s c x p.sd d 0
    wait :=
      if (s.core c).heat < heat then some (.heat, id)
      else if claimWaits s c d (d.stream 0) then some (.scor, id)
      else if s.acquiring c x then some (.land, id)
      else none
    eff := fun t =>
      let old := (t.ctx c x).mx
      let n := t.nextId
      let t1 : State := { t with nextId := n + 1 }
      let t2 := (t1.modCtx c x fun k => { k with cubeId := n }).modCore c fun q =>
        { (if old.phase = 2 then q.clearFaces old.mask else q) with heat := q.heat - heat }
      t2.startSeq c x { d with id := n } p 0 (d.mode != 0) }

/-- The step from which a stopped CUBE goes on: MX.PROG.STEP, past its steps whose beats have yet to be performed. -/
def restartStep (s : State) (c x : Nat) : Nat :=
  (s.core c).fifo.foldl (fun n b => match b.op with
    | .cubeStep d i _ _ => if d.x = x ∧ d.id = (s.ctx c x).cubeId then max n (i + 1) else n
    | _ => n) (s.ctx c x).mx.step

/-- A restart of the stopped CUBE of a context (R273). DESIGN CHOICE: it performs no clear, of a CUBE that was stopped before its
first beat either (log 114). -/
def restartSem (s : State) (c x : Nat) : Sem :=
  let p := (s.ctx c x).mx
  let d := readDesc s c x p
  let start := restartStep s c x
  let legal := p.sd ≤ 58 && p.mask != 0 && p.af ≤ 5 && p.bf ≤ 5 && p.mode ≤ 2 && (p.mode != 2 || p.tile == 0)
  { reads := descRegs p.sd
    trap0 := if legal then none else some (1, 0)
    trap := descTrap s c x p.sd d start
    wait :=
      if claimWaits s c d (d.stream start) then some (.scor, id)
      else if s.acquiring c x then some (.land, id)
      else none
    eff := fun t => t.startSeq c x { d with id := (t.ctx c x).cubeId } p start false }

/-- MRESUME (R274). -/
def semMresume (_o : OpAb) (s : State) (c x : Nat) : Sem :=
  match mxTrap s c x with
  | some t => { trap0 := some t }
  | none => if (s.ctx c x).mx.phase = 2 then restartSem s c x else {}

/-- MRESUME with AB = 1 (R274). -/
def semMresumeAbandon (_o : OpAb) (s : State) (c x : Nat) : Sem :=
  { trap0 := mxTrap s c x
    eff := fun t =>
      let k := t.ctx c x
      if k.mx.phase = 2 then
        (t.modCore c fun q => q.clearFaces k.mx.mask).modCtx c x fun q => { q with mx := { q.mx with phase := 0 } }
      else t }

/-! Sequencer beats (R262, R267, R268, R270). -/

/-- Key of a loaded row of a block. -/
def bufKey (b : Bool) (blk r : Nat) : Nat := (if b then 2 ^ 40 else 0) + blk * 128 + r

/-- A unit of the own vault. -/
def ownUnit (s : State) (c u : Nat) : BitVec 512 := BitVec.ofNat 512 (s.rd (vaultPa c (64 * u)) 64)

/-- A load item's units in the buffer. -/
def Seq.load (q : Seq) (s : State) (c : Nat) (b : Bool) (blk i : Nat) : Seq :=
  { q with buf := (List.range (min 32 (q.d.dim b - 32 * i))).foldl (fun m r =>
      mset (bufKey b blk (32 * i + r)) (ownUnit s c (q.d.rowUnit b blk (32 * i + r))) m) q.buf }

/-- Face vector u of an operand, from memory or from the loaded blocks (R261). -/
def Seq.faceVec (q : Seq) (s : State) (c : Nat) (b : Bool) (u : Nat) : BitVec 2048 :=
  let d := q.d
  if d.trans b then
    BitVec.ofNat 2048 ((List.range (d.dim b)).foldl (fun v r =>
      v + (mget 0 q.buf (bufKey b (u / 32) r)).toNat / 2 ^ (16 * (u % 32)) % 65536 * 2 ^ (16 * r)) 0)
  else
    BitVec.ofNat 2048 ((List.range ((d.dim b + 31) / 32)).foldl (fun v i =>
      v + (ownUnit s c (d.faceUnit b u i)).toNat * 2 ^ (512 * i)) 0)

/-- What an item's reads come to: a unit that is uncorrectable or a race (R270). -/
def fetchFault (s : State) (c : Nat) (d : CubeDesc) (it : FetchItem) : Option (Nat × BitVec 64) :=
  (d.itemUnits it).findSome? fun u =>
    let pa := vaultPa c (64 * u.2)
    if s.poisoned pa 64 then some (0x10, d.unitPtr u)
    else if s.racy c pa 64 then some (0x0B, d.unitPtr u)
    else none

/-- An item performed. -/
def Seq.perform (q : Seq) (s : State) (c : Nat) (it : FetchItem) : Seq :=
  match it with
  | .load b blk i => q.load s c b blk i
  | .fetch n =>
    let us := q.d.stepGroups n
    { q with ready := q.ready ++ [(q.beat + 8, n, us.map (q.faceVec s c false), us.map (q.faceVec s c true))] }

/-- The beat that a sequencer enters: the step whose fetch was eight beats ago, or a beat without a step. -/
def Seq.op (q : Seq) : BeatOp :=
  match q.ready.find? fun r => r.1 == q.beat with
  | some (_, n, a, b) => .cubeStep q.d n a b
  | none => .cubeOther q.d q.clear

/-- The end of a CUBE (R268). DESIGN CHOICE: the face slices of its layers are zero from then on, whatever pushes and steps stand
in the beat FIFO before its beats (log 116). -/
def State.endSeq (s : State) (c : Nat) (d : CubeDesc) : State :=
  (s.modCore c fun k => { (k.dropCubeClaims).clearFaces d.mask with seq := none, seqUse := [] }).modCtx c d.x fun k =>
    { k with mx := { k.mx with phase := 0 } }

/-- The sequencer's next beat; its item's units meet the errors of their words (R377). -/
def State.seqBeat (s0 : State) (c : Nat) (q : Seq) : State :=
  let its := q.d.stream q.start
  let it := its[q.beat]?
  let s := s0.meetAll (match it with
    | some i => (q.d.itemUnits i).map fun u => (vaultPa c (64 * u.2), 64)
    | none => [])
  match it.bind (fetchFault s c q.d) with
  | some (code, ptr) =>
    let s1 := if code = 0x0B then s.countRace c else s
    (s1.stopCube c q.d.x 2).modCtx c q.d.x fun k =>
      if k.trapNext.isNone then { k with trapNext := some ⟨code, 3, ptr⟩ } else k
  | none =>
    let q1 := match it with | some i => q.perform s c i | none => q
    let q2 := { q1 with beat := q.beat + 1, clear := false, ready := q1.ready.filter fun r => r.1 != q.beat }
    let s1 := (s.cross c (match it with | some i => (q.d.itemUnits i).length | none => 0)).pushBeat c q.d.x q.d.pc q1.op
    if q.beat + 1 = its.length + 8 then s1.endSeq c q.d
    else s1.modCore c fun k => { k.updateClaims q.d (its.drop (q.beat + 1)) with seq := some q2 }

/-- Whether the sequencer emits in this cycle (R267): after the cycle in which its bundle retired, when its context advanced
its cycle count or is frozen on synchronisation or the scoreboard. -/
def State.seqRuns (s : State) (c : Nat) (q : Seq) : Bool :=
  let k := s.ctx c q.d.x
  q.born < s.now && (k.issued || k.frozen == some .sync || k.frozen == some .scor)

/-- CUBE_SEQ_BEAT (R267). A beat that cannot enter is a core freeze (R152). -/
def execCubeSeqBeat (c : Nat) (s : State) : Host.Outcome State Fault Refusal :=
  if s.hasCore c then
    match (s.core c).seq with
    | none => .next s
    | some q =>
      if s.seqRuns c q then
        match s.beatStop c with
        | some f => .next (s.modCore c f)
        | none => .next (s.seqBeat c q)
      else .next s
  else .fault .noUnit

/-- HEAT_REFILL (R275): the refill of one nanosecond. -/
def execHeatRefill (c : Nat) (s : State) : Host.Outcome State Fault Refusal :=
  if s.hasCore c then
    let g := (s.stk (stackOf c)).govStep
    .next (s.modCore c fun k => { k with heat := min (2 ^ 20) (k.heat + 4 * (8 - g)) })
  else .fault .noUnit

/-! Each instruction alone in a bundle (R144). -/

/-- MPUSHA alone in a bundle, issued by the context in turn. -/
def execMpusha (o : OpPush) (s : State) : Host.Outcome State Fault Refusal :=
  issueOne .mx (.mpusha o) o.g (semMpusha o) s

/-- MPUSHB alone in a bundle, issued by the context in turn. -/
def execMpushb (o : OpPush) (s : State) : Host.Outcome State Fault Refusal :=
  issueOne .mx (.mpushb o) o.g (semMpushb o) s

/-- MSTEP alone in a bundle, issued by the context in turn. -/
def execMstep (o : OpStep) (s : State) : Host.Outcome State Fault Refusal :=
  issueOne .mx (.mstep o) o.g (semMstep o) s

/-- MDRAIN alone in a bundle, issued by the context in turn. -/
def execMdrain (o : OpDrain) (s : State) : Host.Outcome State Fault Refusal :=
  issueOne .mx (.mdrain o) o.g (semMdrain o) s

/-- MZERO alone in a bundle, issued by the context in turn. -/
def execMzero (o : OpZero) (s : State) : Host.Outcome State Fault Refusal :=
  issueOne .mx (.mzero o) o.g (semMzero o) s

/-- MOUTER alone in a bundle, issued by the context in turn. -/
def execMouter (o : OpOuter) (s : State) : Host.Outcome State Fault Refusal :=
  issueOne .mx (.mouter o) o.g (semMouter o) s

/-- MRDACC alone in a bundle, issued by the context in turn. -/
def execMrdacc (o : OpRdAcc) (s : State) : Host.Outcome State Fault Refusal :=
  issueOne .mx (.mrdacc o) o.g (semMrdacc o) s

/-- MWRACC alone in a bundle, issued by the context in turn. -/
def execMwracc (o : OpWrAcc) (s : State) : Host.Outcome State Fault Refusal :=
  issueOne .mx (.mwracc o) o.g (semMwracc o) s

/-- MSCACC alone in a bundle, issued by the context in turn. -/
def execMscacc (o : OpScAcc) (s : State) : Host.Outcome State Fault Refusal :=
  issueOne .mx (.mscacc o) o.g (semMscacc o) s

/-- MRENORM alone in a bundle, issued by the context in turn. -/
def execMrenorm (o : OpTile) (s : State) : Host.Outcome State Fault Refusal :=
  issueOne .mx (.mrenorm o) o.g (semMrenorm o) s

/-- MEXP alone in a bundle, issued by the context in turn. -/
def execMexp (o : OpExp) (s : State) : Host.Outcome State Fault Refusal :=
  issueOne .mx (.mexp o) o.g (semMexp o) s

/-- MEXP_W alone in a bundle, issued by the context in turn. -/
def execMexpW (o : OpExp) (s : State) : Host.Outcome State Fault Refusal :=
  issueOne .mx (.mexpW o) o.g (semMexpW o) s

/-- MFMT alone in a bundle, issued by the context in turn. -/
def execMfmt (o : OpFmt) (s : State) : Host.Outcome State Fault Refusal :=
  issueOne .mx (.mfmt o) o.g (semMfmt o) s

/-- MPROG alone in a bundle, issued by the context in turn. -/
def execMprog (o : OpProg) (s : State) : Host.Outcome State Fault Refusal :=
  issueOne .mx (.mprog o) o.g (semMprog o) s

/-- CUBE alone in a bundle, issued by the context in turn. -/
def execCube (o : OpCube) (s : State) : Host.Outcome State Fault Refusal :=
  issueOne .mx (.cube o) o.g (semCube o) s

/-- MRESUME alone in a bundle, issued by the context in turn. -/
def execMresume (o : OpAb) (s : State) : Host.Outcome State Fault Refusal :=
  issueOne .mx (.mresume o) o.g (semMresume o) s

/-- MRESUME_ABANDON alone in a bundle, issued by the context in turn. -/
def execMresumeAbandon (o : OpAb) (s : State) : Host.Outcome State Fault Refusal :=
  issueOne .mx (.mresumeAbandon o) o.g (semMresumeAbandon o) s

end Sys2Proof.Machine
end

