-- ==== Sys2Proof/Machine/Launch.lean ====
section
/-! DEFINITION. Page-table walks (R389), launch headers and their checks (R83 to R87), launch queues (R393, R394), and what
a release that does not wait does with its context's earlier accesses. -/

namespace Sys2Proof.Machine

/-! Walks. -/

/-- The end of a walk (R330). -/
inductive WalkEnd
  | fill (e : TlbEnt)
  | fault
  | poison (pa : Nat)
deriving DecidableEq, Repr

/-- The entries of a contiguous group of leaves n levels from the bottom, and the size of the page of one (R389). -/
def groupLen (n : Nat) : Nat := if n = 1 then 16 else if n = 2 then 32 else 1
def pageSize (n : Nat) : Nat := if n = 1 then 2 ^ 12 else if n = 2 then 2 ^ 21 else 2 ^ 30

/-- The address that an entry holds. -/
def entryPa (e : Nat) : Nat := e % 2 ^ 52 / 2 ^ 12 * 2 ^ 12

/-- Whether leaf e, at address a, belongs to a contiguous group whose entries are as the driver is required to give them
(R389). -/
def State.groupWhole (s : State) (a n e : Nat) : Bool :=
  let k := groupLen n
  let z := pageSize n
  e / 64 % 2 == 1 && 1 < k && (List.range k).all fun j =>
    let f := s.rd (a / (8 * k) * (8 * k) + 8 * j) 8
    f % 2 == 1 && f / 64 % 2 == 1 && (n == 1 || f / 32 % 2 == 1) && f / 4 % 8 == e / 4 % 8
      && entryPa f / z == entryPa e / (k * z) * k + j

/-- The page of `size` bytes that leaf e maps. -/
def leafOf (asid va size e : Nat) : TlbEnt :=
  { asid := asid, va := va / size * size, size := size, pa := entryPa e / size * size
    w := e / 4 % 2 == 1, u := e / 8 % 2 == 1, x := e / 16 % 2 == 1 }

/-- A walk with n levels still to read, from the table at physical address `table`. DESIGN CHOICE: a page of a contiguous group
that breaks the rule of R389 is translated by its own entry (log 94). -/
def State.walkFrom (s : State) (asid va : Nat) : Nat → Nat → WalkEnd
  | 0, _ => .fault
  | n + 1, table =>
    let a := table + 8 * (va / 2 ^ (12 + 9 * n) % 512)
    if s.poisoned a 8 then .poison a
    else
      let e := s.rd a 8
      let leaf := n == 0 || e / 32 % 2 == 1
      if e % 2 = 0 then .fault
      else if leaf then
        (if 3 ≤ n then .fault
         else .fill (leafOf asid va (pageSize (n + 1) * (if s.groupWhole a (n + 1) e then groupLen (n + 1) else 1)) e))
      else s.walkFrom asid va n (entryPa e)

/-- The walk of a virtual address of an address space, bits 56:0, from a root. -/
def State.walkRoot (s : State) (root : BitVec 64) (asid va : Nat) : WalkEnd :=
  if root.getLsbD 0 then s.walkFrom asid (va % 2 ^ 57) 5 (bitsOf root 51 12 * 4096) else .fault

/-- The entries that a walk reads, with n levels still to read. -/
def State.walkPath (s : State) (va : Nat) : Nat → Nat → List (Nat × Nat)
  | 0, _ => []
  | n + 1, table =>
    let a := table + 8 * (va / 2 ^ (12 + 9 * n) % 512)
    let e := s.rd a 8
    (a, 8) :: (if s.poisoned a 8 || e % 2 == 0 || n == 0 || e / 32 % 2 == 1 then [] else s.walkPath va n (entryPa e))

/-- The walk of a virtual address from a root meets the errors of the entries it reads (R377). -/
def State.walkMeets (s : State) (root : BitVec 64) (va : Nat) : State :=
  if s.latent.isEmpty || !root.getLsbD 0 then s else s.meetAll (s.walkPath (va % 2 ^ 57) 5 (bitsOf root 51 12 * 4096))

/-- The walk from the root as it stands. -/
def State.walk (s : State) (asid va : Nat) : WalkEnd := s.walkRoot (mget 0 s.pkg.roots asid) asid va

/-- The physical address of a virtual address as the tables stand, with a permission. -/
def State.lookup (s : State) (asid : Nat) (supv write : Bool) (va : BitVec 64) : Option Nat :=
  if !canonical va then none
  else match s.walk asid (bitsOf va 56 0) with
    | .fill e =>
      let pa := e.pa + (bitsOf va 56 0 - e.va)
      if permitted e supv write false && s.mapped pa then some pa else none
    | _ => none

/-! Headers. -/

/-- The header at a physical address (R83). -/
def State.readHeader (s : State) (pa : Nat) : Header :=
  let w (o : Nat) : BitVec 64 := BitVec.ofNat 64 (s.rd (pa + o) 8)
  { entry := w 0, traph := w 8, lcfg := w 16, extm1 := w 24, spill := w 32, live := w 40, dtab := w 48,
    ckpti := s.rd (pa + 56) 4, step0 := s.rd (pa + 60) 2, spillsz := s.rd (pa + 62) 2,
    win := (List.range 8).map fun n => (n, w (64 + 8 * n)) }

/-- The limit on a gang's size (R86). -/
def Header.gangLimit (h : Header) : Nat :=
  let one := h.glev ≤ h.clev
  if h.cube || h.filler then (if one then 4 else 24) else (if one then 8 else 48)

/-- The physical base of the spill pool, when the whole pool is mapped writable in HBM and contiguous (R86, R87). -/
def State.poolOf (s : State) (asid : Nat) (h : Header) : Option Nat :=
  match s.lookup asid true true h.spill with
  | none => none
  | some pa =>
    let n := h.nslot * h.spillsz
    if (List.range n).all fun i =>
        isHbm (pa + 4096 * i) && s.lookup asid true true (h.spill + BitVec.ofNat 64 (4096 * i)) == some (pa + 4096 * i)
    then some pa else none

/-- The number of the first check of R86 that a header fails, 0 when it is valid. -/
def State.headerCheck (s : State) (asid : Nat) (h : Header) : Nat :=
  let widths := (List.range 6).map h.width
  if bitsOf h.entry 5 0 != 0 || bitsOf h.traph 5 0 != 0 || bitsOf h.spill 11 0 != 0 || bitsOf h.live 6 0 != 0
      || bitsOf h.lcfg 47 46 != 0 then 1
  else if 64 < widths.sum || bitsOf h.extm1 63 0 / 2 ^ widths.sum != 0 then 2
  else if 6 < h.glev || 6 < h.clev then 3
  else if h.cube && h.filler then 4
  else if h.gangLimit < h.gang || h.nslot < h.gang then 5
  else if h.spillsz = 0 || h.nslot = 0 || (s.poolOf asid h).isNone then 6
  else 0

/-- The header that a queue entry or SPAWN names: its physical address and the header, when it can be read. -/
def State.headerAt (s : State) (asid : Nat) (supv : Bool) (va : BitVec 64) : Option (Nat × Header) :=
  (s.lookup asid supv false va).map fun pa => (pa, s.readHeader pa)

/-! Launch queues (R393, R394). -/

def State.queue (s : State) (q : Nat) : Queue := mget {} s.pkg.queues q

def State.setQueue (s : State) (q : Nat) (k : Queue) : State := s.modPkg fun p => { p with queues := mset q k p.queues }

/-- Entries of a queue's ring (R393). -/
def Queue.size (k : Queue) : Nat := 2 ^ (if k.log2 = 0 then 1 else k.log2)

/-- Entries published and not read. -/
def Queue.held (k : Queue) : Nat := (k.prod + 65536 - k.cons) % 65536

/-- Address of entry n. -/
def Queue.entryPa (k : Queue) (n : Nat) : Nat := k.base.toNat + 32 * (n % k.size)

/-! Earlier accesses of a context that are performed at once. -/

/-- A race report reaches its context (R353). A context that a save holds in FRZ.SYNC leaves it for the trap: the save is given
up (log 91). -/
def State.deliverRace (s : State) (m : Msg) : State :=
  match m.op with
  | .raceReport a =>
    (s.dropMsg m.id).modCtx m.core m.x fun k =>
      if k.strand.isSome && k.trapNext.isNone then { k with trapNext := some ⟨0x0B, 5, a⟩, save := none } else k
  | _ => s

/-- What a context has on its way is performed, in order, with what must precede it, and its race reports come (R113, R119,
R353): what a release does about the accesses of its own bundle. What waits for its unit, a register or a peer stays. -/
def State.drainAll (s : State) (c x : Nat) : State :=
  let one (t : State) (i : Nat) : State :=
    match t.msg i with
    | some m => match m.op with
      | .raceReport _ => if m.x = x then t.deliverRace m else t
      | _ => t.performNow m
    | none => t
  let go (t : State) : State :=
    match (t.net.filter fun m => m.owed c x).getLast? with
    | none => t
    | some last =>
      ((t.net.filter fun m => m.core == c && m.st.waiting && !m.open && m.id ≤ last.id).map (·.id)).foldl one t
  go (go s)

/-- The same for a release that may not freeze: a vector atomic that its unit has refused is performed too. DESIGN CHOICE: the
spec gives such a release no freeze and names no moment for it (log 105). -/
def State.drainForce (s : State) (c x : Nat) : State :=
  ((s.net.filter fun m => m.owed c x).map (·.id)).foldl (fun t i => match t.msg i with
    | some m => (match m.op with
      | .vatom _ _ _ =>
        let u := t.unit (ownerOf m.pa)
        (t.setUnit (ownerOf m.pa)
          { order := u.order.filter (· != m.requester), resv := u.resv.filter fun p => p.1 != m.requester }).performVatom m
      | _ => t.performAny m)
    | none => t) (s.drainAll c x)

end Sys2Proof.Machine
end

