-- ==== Sys2Proof/Machine/Net.lean ====
section
/-! DEFINITION. The steps of messages: what banks, controllers and units do with a request (R292, R293, R297 to R304, R307,
R332, R333, R445), how answers reach their registers and landing slots (R69, R141), and translation (R329, R330). -/

namespace Sys2Proof.Machine

/-! Answers. -/

/-- The mark of a value made of parts: the first that came. -/
def firstMark (a b : Option Mark) : Option Mark := match a with | some m => some m | none => b

/-- n bytes of a value at a byte offset. -/
def placeBytes (v : BitVec 2048) (n off : Nat) : BitVec 2048 := BitVec.ofNat 2048 (v.toNat % 2 ^ (8 * n) * 2 ^ (8 * off))

/-- Element i of a vector of 32-bit elements replaced. -/
def setElem32 (v : BitVec 2048) (i n : Nat) : BitVec 2048 :=
  (v &&& ~~~(placeBytes (BitVec.allOnes 2048) 4 (4 * i))) ||| placeBytes (BitVec.ofNat 2048 n) 4 (4 * i)

/-- Data of a read arrive at a landing slot that still waits for them (R141). -/
def La.arrive (l : La) (rid n off : Nat) (v : BitVec 2048) (mark : Option Mark) : La :=
  if l.st = .pending ∧ l.rid = rid then
    { l with data := l.data ||| placeBytes v n off, mark := firstMark l.mark mark, need := l.need - 1
             st := if l.need ≤ 1 then .full else .pending }
  else l

/-- A part of a register result arrives: the value so far, and the flags of an adjoint sum and whether it is non-finite
(R223). -/
def partArrives (v : BitVec 2048) (n off kind : Nat) (w : BitVec 2048) : BitVec 2048 × Flags × Bool :=
  if kind = 4 then
    let r := fAdd Fmt.f32 0 (Fmt.f32.dec (elem 32 (off / 4) v)) (Fmt.f32.dec (w.toNat % 2 ^ 32))
    (setElem32 v (off / 4) r.bits, r.fl, !(Fmt.f32.dec r.bits).isFinite)
  else (v ||| placeBytes w n off, 0, false)

/-- Whether parts of register result `id` are still to arrive. -/
def State.moreParts (s : State) (c x id : Nat) : Bool :=
  s.net.any fun a => a.core == c && a.x == x && (match a.dest with
    | .reg i _ _ => i == id
    | _ => false)

/-- A part of register result `id` arrives; with the last, the register is written (R69). -/
def State.landReg (s : State) (c x id n off kind : Nat) (v : BitVec 2048) (mark : Option Mark) : State :=
  match (s.ctx c x).pend.find? fun p => p.due == Due.reply id with
  | none => s
  | some p =>
    let (w, fl, bad) := partArrives p.val n off kind v
    let q : Pend := { p with val := w, mark := firstMark p.mark mark }
    let s0 := s.setFlags c x fl
    let s1 := if bad then s0.setNfs c x Nfs.crev else s0
    if s.moreParts c x id then
      s1.modCtx c x fun k => { k with pend := k.pend.map fun a => if a.due = .reply id then q else a }
    else
      s1.modCtx c x fun k =>
        { ({ k with pend := k.pend.filter fun a => a.due != Due.reply id }).put q.dst (widen kind 64 q.val) q.mark with
          stat := k.stat ||| widenFlags kind 64 q.val }

/-- The answer of a message reaches its place. The old word of a fabric window goes to the tape, and the write follows it
(R219). -/
def State.landMsg (s : State) (m : Msg) : State :=
  match m.st with
  | .replied v mark =>
    let s1 := s.dropMsg m.id
    let n := if m.op.len = 0 then 8 else m.op.len
    match m.op with
    | .capture off bs =>
      (s.modMsg (m.id + 1) fun a => { a with op := .write (toBytes v.toNat 8) mark.isSome, st := .live }).modMsg m.id fun a =>
        { a with op := .write bs false, pa := m.pa + off, st := .live, seq := 0 }
    | _ =>
    match m.dest with
    | .none => s1
    | .la slot rid off =>
      s1.modCtx m.core m.x fun k => { k with la := mset slot ((k.slot slot).arrive rid n off v mark) k.la }
    | .reg id off kind => s1.landReg m.core m.x id (if kind = 5 then 8 else n) off kind v mark
    | .wait slot off => s1.modCtx m.core m.x fun k => k.answer slot off n v mark
    | .copy ch off =>
      let h := s1.chan m.core ch
      s1.setChan m.core ch { h with got := h.got ++ [(off, v.toNat % 2 ^ (8 * n), match mark with | some k => k.code | none => 0)] }
  | _ => s

/-- LANDING_ARRIVAL (R141): the data of an answered message arrive, behind earlier answers of their unit (R362, R385). -/
def execLandingArrival (m : Nat) (s : State) : Host.Outcome State Fault Refusal :=
  match s.arrived m with
  | some a => .next (if s.replyBehind a then s else s.landMsg a)
  | none => .next s

/-- Whether a message is the answer to a register result or a waiting slot of a context. -/
def Msg.answersReg (m : Msg) (c x : Nat) : Bool :=
  m.core == c && m.x == x
    && (match m.st with
        | .replied _ _ => true
        | _ => false)
    && (match m.dest with
        | .reg _ _ _ => true
        | .wait _ _ => true
        | _ => false)

/-- RESULT_LAND (R69): results whose latency has elapsed or whose data have come are written. -/
def execResultLand (c x : Nat) (s : State) : Host.Outcome State Fault Refusal :=
  if s.hasCore c ∧ x < 2 then
    .next ((s.net.filter fun m => m.answersReg c x && !s.bridgeHeld m).foldl
      (fun t m => if t.replyBehind m then t else t.landMsg m) (settle s c x))
  else .fault .noUnit

/-! Reads and writes. -/

/-- Whether a message is a plain read or write. -/
def MsgOp.plain (op : MsgOp) : Bool :=
  match op with
  | .read _ => true
  | .write _ _ => true
  | .tapeTop => true
  | .capture _ _ => true
  | _ => false

/-- VAULT_NET_REQUEST (R332, R333): a bank's network port serves a read or write. -/
def execVaultNetRequest (m : Nat) (s : State) : Host.Outcome State Fault Refusal :=
  match s.arrived m with
  | some a =>
    .next (if a.st = .live ∧ a.op.plain ∧ (vaultOf a.pa).isSome ∧ s.eligible a then s.performRw a else s)
  | none => .next s

/-- A read or write of memory that is no vault's: an HBM controller's, the host's, or through a CXL or fabric window. -/
def State.performOutside (s : State) (m : Msg) : State :=
  if s.customer m.pa then s.performCustomer m
  else if isFabric m.pa then s.performFab m
  else if isCxl m.pa then s.performCxl m
  else s.performRw m

/-- HBM_REQUEST (R445): the owner of an address outside the vaults and the register window performs a read or write. -/
def execHbmRequest (m : Nat) (s : State) : Host.Outcome State Fault Refusal :=
  match s.arrived m with
  | some a =>
    .next (if a.st = .live ∧ a.op.plain ∧ (vaultOf a.pa).isNone ∧ !isReg a.pa ∧ s.eligible a then s.performOutside a
      else s)
  | none => .next s

/-! Atomic units. -/

/-- The unit's turn at a live request, and the entry that falls free (R293). -/
def State.serveUnit (s : State) (m : Msg) (f : State → State) : State :=
  if s.eligible m then (f s).reserve (ownerOf m.pa) else s

/-- ATOMIC_REQUEST (R293, R296): acceptance or refusal of a request, or the operation of one whose bundle has retired. -/
def State.atomicStep (s : State) (m : Msg) : State :=
  match m.st with
  | .asked =>
    if s.heldBack m then s
    else
      let (ok, s1) := s.offer m
      if ok then (s1.accept m .accepted).tellAccepted m 0 else s1
  | .live => s.serveUnit m fun t => t.performUnit m
  | _ => s

def execAtomicRequest (m : Nat) (s : State) : Host.Outcome State Fault Refusal :=
  match s.arrived m with
  | some a =>
    .next (match a.op with
      | .atomic _ _ _ _ _ => s.atomicStep a
      | _ => s)
  | none => .next s

/-- ATOMIC_RETRY (R293): a refused request is made again once its unit's retry interval has passed. -/
def execAtomicRetry (m : Nat) (s : State) : Host.Outcome State Fault Refusal :=
  match s.arrived m with
  | some a =>
    .next (match a.st with
      | .nacked t => if t ≤ s.now then s.modMsg m fun b => { b with st := .asked } else s
      | _ => s)
  | none => .next s

/-- Whether u numbers an atomic unit: an HBM controller or a bank. -/
def State.hasUnit (s : State) (u : Nat) : Bool := u < 8 || (16 ≤ u && s.hasCore ((u - 16) / 128))

/-- ATOMIC_RESERVATION_EXPIRE (R293): a reservation held for 2 µs is released, and its requester leaves the queue. -/
def execAtomicReservationExpire (u r : Nat) (s : State) : Host.Outcome State Fault Refusal :=
  if s.hasUnit u ∧ r < 576 then
    let a := s.unit u
    if a.resv.any fun p => p.1 == r && p.2 ≤ s.now then
      .next ((s.setUnit u { order := a.order.filter (· != r), resv := a.resv.filter fun p => p.1 != r }).reserve u)
    else .next s
  else .fault .noUnit

/-- VECTOR_ATOMIC_ELEMENT (R298): one element is accepted or refused, or applied. -/
def execVectorAtomicElement (m : Nat) (s : State) : Host.Outcome State Fault Refusal :=
  match s.arrived m with
  | some a =>
    .next (match a.op, a.st with
      | .vatom _ _ _, .asked =>
        if s.heldBack a then s
        else
          let (ok, s1) := s.offer a
          if ok then s1.accept a .live else s1
      | .vatom _ _ _, .live => s.serveUnit a fun t => t.performVatom a
      | _, _ => s)
  | none => .next s

/-- ADJOINT_ACCUMULATE (R45, R222). -/
def execAdjointAccumulate (m : Nat) (s : State) : Host.Outcome State Fault Refusal :=
  match s.arrived m with
  | some a =>
    .next (match a.op with
      | .accum _ => if a.st = .live ∧ s.eligible a then s.performAccum a else s
      | _ => s)
  | none => .next s

/-- ADJOINT_EXCHANGE (R223). -/
def execAdjointExchange (m : Nat) (s : State) : Host.Outcome State Fault Refusal :=
  match s.arrived m with
  | some a =>
    .next (match a.op with
      | .exch => if a.st = .live ∧ s.eligible a then s.performExch a else s
      | _ => s)
  | none => .next s

/-! Barriers (R300 to R304, R238). -/

/-- What an object that is unusable does to a request that finds it so on acceptance: the trap code, 0 for none. One that
holds uncorrectable data is found usable. -/
def State.barrierCode (s : State) (m : Msg) : Nat :=
  let ok := s.poisoned m.pa 16 || (s.barrier m.pa).usable
  match m.op with
  | .barr _ | .arrive _ | .bwait _ => if ok then 0 else 9
  | _ => 0

/-- An operation on an object; a channel's arrival ends its channel. -/
def State.barrierDo (s : State) (m : Msg) : State :=
  let s1 := s.performUnit m
  match m.op with
  | .arrive ch => s1.chanComplete m.core ch
  | _ => s1

/-- A request that stands in the buffer of its barrier's unit, once what was accepted before it is performed (R292, R300): its
object is looked at. An arrival waits for no bundle and a waiter's read is judged at once: the entry falls free again (R293). -/
def State.barrierAccepted (s : State) (m : Msg) : State :=
  let code := s.barrierCode m
  if s.unitBusy m then s
  else if code ≠ 0 then
    (match m.op with
    | .arrive ch => (s.dropMsg m.id).chanRefused m.core ch m.va
    | _ => (s.dropMsg m.id).tellAccepted m code).reserve (ownerOf m.pa)
  else
    match m.op with
    | .bwait _ => (s.readPhase m).reserve (ownerOf m.pa)
    | .arrive _ => (s.barrierDo m).reserve (ownerOf m.pa)
    | _ => s.tellAccepted m 0

/-- Whether an arrival must wait for writes of its channel (R238). -/
def State.arrivalWaits (s : State) (m : Msg) : Bool :=
  match m.op with
  | .arrive ch => s.net.any fun a => a.core == m.core && a.id != m.id && (match a.dest with
      | .copy h _ => h == ch
      | _ => false)
  | _ => false

/-- Whether an operation is a barrier's but a waiter's read. -/
def MsgOp.onBarrier (op : MsgOp) : Bool :=
  match op with
  | .binit _ _ _ _ => true
  | .barr _ => true
  | .arrive _ => true
  | _ => false

/-- Whether the bundle that made a request knows of its acceptance. -/
def State.told (s : State) (m : Msg) : Bool :=
  match (s.ctx m.core m.x).waiting 7 with
  | some w => w.id == m.id && w.done
  | none => true

/-- BARRIER_REQUEST: acceptance or refusal, the look at the object in the request's turn, and the operation. -/
def State.barrierStep (s : State) (m : Msg) : State :=
  match m.st with
  | .asked =>
    if s.heldBack m || s.arrivalWaits m then s
    else
      let (ok, s1) := s.offer m
      if ok then (s1.accept m .accepted).barrierAccepted { m with st := .accepted, seq := s1.nextId } else s1
  | .accepted =>
    match m.op with
    | .bwait _ | .arrive _ => s.barrierAccepted m
    | _ => if s.told m then s else s.barrierAccepted m
  | .live => if m.op.onBarrier then s.serveUnit m fun t => t.barrierDo m else s
  | _ => s

def execBarrierRequest (m : Nat) (s : State) : Host.Outcome State Fault Refusal :=
  match s.arrived m with
  | some a =>
    .next (match a.op with
      | .bwait _ => s.barrierStep a
      | _ => if a.op.onBarrier then s.barrierStep a else s)
  | none => .next s

/-- BARRIER_PHASE_REPORT (R303, R351): a remote waiter is released, with the phase's tags. -/
def execBarrierPhaseReport (m : Nat) (s : State) : Host.Outcome State Fault Refusal :=
  match s.arrived m with
  | some a =>
    .next (match a.op with
      | .phaseReport _ slack =>
        if s.replyBehind a then s
        else
          ((s.acquireTags a.core a.tags).dropMsg m).modWaiter a fun w => { w with done := true, aux := 0, slack := slack }
      | _ => s)
  | none => .next s

/-- Whether an earlier contribution of the same core is still on its way (R385). -/
def State.gredBehind (s : State) (m : Msg) : Bool :=
  (s.earlier m.id).any fun a => a.core == m.core && (match a.op with
    | .gred _ _ _ _ => true
    | _ => false)

/-- GRED_CONTRIBUTION (R307, R308). -/
def execGredContribution (m : Nat) (s : State) : Host.Outcome State Fault Refusal :=
  match s.arrived m with
  | some a =>
    .next (match a.op with
      | .gred _ _ _ _ => if s.gredBehind a then s else s.performGred a
      | _ => s)
  | none => .next s

/-- RACE_REPORT (R353). -/
def execRaceReport (m : Nat) (s : State) : Host.Outcome State Fault Refusal :=
  match s.arrived m with
  | some a => .next (if s.replyBehind a then s else s.deliverRace a)
  | none => .next s

/-! Translation (R329, R330). -/

/-- Whether the part has cluster q. -/
def State.hasCluster (s : State) (q : Nat) : Bool := s.hasCore (4 * q)

/-- A TLB of n entries with one more: another translation of the page goes, and the oldest entry of a full TLB. -/
def tlbAdd (n : Nat) (tlb : List TlbEnt) (e : TlbEnt) : List TlbEnt :=
  e :: (tlb.filter fun a => !(a.asid == e.asid && a.va < e.va + e.size && e.va < a.va + a.size)).take (n - 1)

/-- The µTLB of a miss takes an entry (R329), and the bundle or iteration that waits for it keeps it (log 102). -/
def State.fillUtlb (s : State) (m : Miss) (e : TlbEnt) : State :=
  if m.unit = 0 then
    (s.modCore m.core fun k => { k with utlb := tlbAdd 64 k.utlb e }).modCtx m.core m.x fun k =>
      { k with xl := if m.exec then k.xl else e :: k.xl }
  else
    let h := s.chan m.core (m.unit - 1)
    s.setChan m.core (m.unit - 1) { h with utlb := tlbAdd 32 h.utlb e, xl := e :: h.xl }

/-- The address of a miss. -/
def Miss.va (m : Miss) : Nat := 4096 * m.vpn

/-- The misses that a condition holds of leave the cluster. -/
def State.dropMiss (s : State) (q : Nat) (f : Miss → Bool) : State :=
  s.modCluster q fun k => { k with misses := k.misses.filter fun m => !f m }

/-- The page that a walk of a miss finds as the tables stand, or its 4 KiB: misses of one page share a walk (R329). -/
def State.pageOf (s : State) (m : Miss) : Nat × Nat × Nat :=
  match s.walkRoot m.root m.asid m.va with
  | .fill e => (m.asid, e.va, e.size)
  | _ => (m.asid, m.va, 4096)

/-- The walks in progress in a cluster, by page. -/
def State.walks (s : State) (q : Nat) : List (Nat × Nat × Nat) :=
  (((s.cluster q).misses.filter (·.walking)).map s.pageOf).eraseDups

/-- TLB_FILL (R329): the oldest miss that no walk serves looks the cluster TLB up; a hit fills its µTLB, and a miss starts a
walk from the root of its address space (R410) or shares one, or waits while 16 walks are in progress (R330). A walk that
starts again is no new miss (R357). -/
def execTlbFill (q : Nat) (s : State) : Host.Outcome State Fault Refusal :=
  if s.hasCluster q then
    let k := s.cluster q
    match k.misses.find? fun m => !m.walking && m.fail.isNone with
    | none => .next s
    | some m =>
      match findTlb k.tlb m.asid m.va with
      | some e => .next ((s.fillUtlb m e).dropMiss q fun a => a == m)
      | none =>
        let w : Miss := { m with walking := true, root := mget 0 s.pkg.roots m.asid }
        let v : Miss := match k.misses.find? fun a => a.walking && s.pageOf a == s.pageOf { m with root := a.root } with
          | some a => { w with root := a.root }
          | none => w
        if (s.walks q).contains (s.pageOf v) || (s.walks q).length < 16 then
          .next (s.modCluster q fun k =>
            { k with misses := k.misses.map fun a => if a = m then v else a
                     tlbMiss := if m.again then k.tlbMiss else (k.tlbMiss + 1) % 2 ^ 64 })
        else .next s
  else .fault .noUnit

/-- The privilege of the context of a miss. -/
def State.missSupv (s : State) (m : Miss) : Bool := s.supv m.core m.x

/-- What the end of a walk is to one miss that waits for it: a fill, or a failure. -/
def State.endMiss (s : State) (q : Nat) (m : Miss) (w : WalkEnd) : State :=
  let fail (code : Nat) : State :=
    s.modCluster q fun k =>
      { k with misses := k.misses.map fun a => if a = m then { a with walking := false, fail := some code } else a }
  match w with
  | .fill e =>
    if permitted e (s.missSupv m) m.write m.exec then
      ((s.fillUtlb m e).modCluster q fun k => { k with tlb := tlbAdd 4096 k.tlb e }).dropMiss q fun a => a == m
    else fail 9
  | .fault => fail 8
  | .poison _ => fail 0x10

/-- PAGE_WALK_DONE (R330): the oldest walk ends for every miss that shares it. -/
def execPageWalkDone (q : Nat) (s : State) : Host.Outcome State Fault Refusal :=
  if s.hasCluster q then
    match (s.cluster q).misses.find? (·.walking) with
    | none => .next s
    | some m =>
      let w := s.walkRoot m.root m.asid m.va
      let all := (s.cluster q).misses.filter fun a => a.walking && a.root == m.root && s.pageOf a == s.pageOf m
      let s1 := (s.walkMeets m.root m.va).modCluster q fun k => { k with tlbWalk := (k.tlbWalk + 1) % 2 ^ 64 }
      let s2 := match w with
        | .poison pa =>
          s1.mcheck (q / 6) m.core (if m.unit = 0 then s.ctxFlags m.core m.x else 0) (BitVec.ofNat 64 (3 * 2 ^ 62 + pa)) 3
        | _ => s1
      .next (all.foldl (fun t a => t.endMiss q a w) s2)
  else .fault .noUnit

end Sys2Proof.Machine
end

