-- ==== Sys2Proof/Machine/Rail.lean ====
section
/-! DEFINITION. Divisors, thresholds and the cluster's rail: R150, R151, R310 to R312, R337 and R371. -/

namespace Sys2Proof.Machine

/-- The fused values of a cluster (R328, log 1). -/
def State.fuse (s : State) (q : Nat) : Fuse :=
  mget { rank := q, ceil := 80, floor := 0, th4 := 40, th5 := 20, cth2 := 30, cth3 := 10 } s.fuses q

/-- The threshold code of a core, vector or matrix divisor (R151, R328). -/
def Fuse.thr (f : Fuse) (d : Nat) : Nat := if d = 4 then f.th4 else if d = 5 then f.th5 else 0

/-- The threshold code of a copy divisor. -/
def Fuse.thrCpy (f : Fuse) (d : Nat) : Nat := if d = 2 then f.cth2 else if d = 3 then f.cth3 else 0

/-- Divisors in the layout of CORE.DIV (R150). -/
def divCor (v : Nat) : Nat := v % 16
def divVec (v : Nat) : Nat := v / 16 % 16
def divMat (v : Nat) : Nat := v / 256 % 16
def divCpy (v : Nat) : Nat := v / 4096 % 16

/-- CORE.DIV (R150). -/
def Core.divReg (k : Core) : Nat := k.cpy * 4096 + k.mat * 256 + k.vec * 16 + k.cor

/-- A field of a new divisor set: 0 keeps the present divisor (R311). -/
def divNew (field old : Nat) : Nat := if field = 0 then old else field

/-- The divisors a core would run at under a request. -/
def Core.withDiv (k : Core) (v : Nat) : Core :=
  { k with cor := divNew (divCor v) k.cor, vec := divNew (divVec v) k.vec, mat := divNew (divMat v) k.mat
           cpy := divNew (divCpy v) k.cpy }

/-- Whether every nonzero field is in range (R150). -/
def divInRange (v : Nat) : Bool :=
  (divCor v == 0 || 4 ≤ divCor v) && (divVec v == 0 || 4 ≤ divVec v) && (divMat v == 0 || 4 ≤ divMat v)
    && (divCpy v == 0 || 2 ≤ divCpy v)

/-- Whether a core's divisors are permitted at a voltage code (R151). -/
def Core.divPermitted (k : Core) (f : Fuse) (code : Nat) : Bool :=
  f.thr k.cor ≤ code && f.thr k.vec ≤ code && f.thr k.mat ≤ code && f.thrCpy k.cpy ≤ code

/-- The charge of the copy channels that run (R154). -/
def Core.copyCharge (k : Core) : Nat := 3 * (k.chans.filter fun p => p.2.state == 1).length

/-- A cycle's charge entered in the window, with what it leaves in the counters (R155, R314): `w` without ballast. The
window keeps one cycle more than IWIN shows, for a read during the cycle (R136). -/
def Core.charge (k : Core) (w ballast : Nat) : Core :=
  let win := (w + ballast) :: k.win.take 32
  { k with win := win, iwinMax := max k.iwinMax (win.take 32).sum, balSum := k.balSum + w, balCyc := k.balCyc + 1
           balCnt := (k.balCnt + ballast) % 2 ^ 64, tick := k.tick + 1 }

/-- One core cycle of a crossing's hold: a core freeze counted in FRZ.CLK that charges the copy channels alone, in which no
latency runs on (R155, R371, R383). -/
def Core.hold (k : Core) : Core :=
  { k.charge k.copyCharge 0 with tick := k.tick, frzClk := (k.frzClk + 1) % 2 ^ 64, holdCyc := k.holdCyc - 1 }

/-- The hold of a crossing of n requests, which leave one per vault-die cycle; the wait for the vault-die edge is free (R371,
log 83). -/
def State.drainTime (s : State) (c : Nat) : Nat × State :=
  let (a, s1) := s.pick 4
  (4 * (s.core c).xing + a, s1)

/-- New divisors of a core from a reference edge on: a change of COR holds the core while its crossing drains, for as many
core cycles of the new divisor as the drain spans, a change of CPY holds its copy channels (R153, R371). -/
def State.switchDiv (s : State) (c v : Nat) : State :=
  let k := s.core c
  let n := k.withDiv v
  let (h1, s1) := if n.cor = k.cor then (0, s) else s.drainTime c
  let (h2, s2) := if n.cpy = k.cpy then (0, s1) else s1.drainTime c
  s2.setCore c
    { n with
      holdUntil := if h1 = 0 then k.holdUntil else s.now + h1
      holdCyc := if h1 = 0 then k.holdCyc else (h1 + n.cor - 1) / n.cor
      nextCore := if h1 = 0 then k.nextCore else s.now + n.cor
      copyHold := if n.cpy = k.cpy then k.copyHold else s.now + h2 }

/-- The cores of a cluster. -/
def coresOf (q : Nat) : List Nat := (List.range 4).map fun i => 4 * q + i

/-- The voltage code of a request: 127 keeps the present one (R311). -/
def codeOf (q : Cluster) (t : Nat) : Nat := let c := t / 65536 % 128; if c = 127 then q.vnow else c

/-- Whether a request fails the floor check against the divisors in use (R310, R311). -/
def State.belowFloor (s : State) (q t : Nat) : Bool :=
  let code := codeOf (s.cluster q) t
  let f := s.fuse q
  code < f.floor || (coresOf q).any fun c => !((s.core c).withDiv (t % 65536)).divPermitted f code

/-- A move starts (R310, R337): its divisor step, at the end of this reference cycle, comes first unless the voltage rises.
`railAt` is the time of the next code, 0 in the divisor step of a move that did not rise. -/
def State.startMove (s : State) (q t : Nat) : State :=
  let k := s.cluster q
  let code := codeOf k t
  if k.vnow < code then
    s.modCluster q fun k => { k with vtgt := code, move := t, mstate := 1, railAt := s.now + 4000 }
  else
    s.modCluster q fun k => { k with vtgt := code, move := t, mstate := 2, railAt := 0, divPend := true }

/-- Each core's divisors of the move in progress, at one reference edge (R310). -/
def State.moveDivisors (s : State) (q : Nat) : State :=
  (coresOf q).foldl (fun a c => a.switchDiv c ((s.cluster q).move % 65536))
    (s.modCluster q fun k => { k with divPend := false, divAt := s.now })

/-- The divisor steps of this reference cycle: they follow the CLKDIVs of the same edge (R338). -/
def State.divSteps (s : State) : State :=
  ((s.clusters.filter fun p => p.2.divPend).map (·.1)).foldl State.moveDivisors s

/-- A move ends; a pending request is taken in the same cycle (R310, R337). -/
def State.endMove (s : State) (q : Nat) : State :=
  let s1 := s.modCluster q fun k => { k with mstate := 0, last := 5 }
  match (s1.cluster q).mbox with
  | none => s1
  | some t =>
    let s2 := s1.modCluster q fun k => { k with mbox := none }
    if s2.belowFloor q t then s2.modCluster q fun k => { k with last := 2 } else s2.startMove q t

/-- TUNE's checks and effect (R311): the status and the state that follows. -/
def State.tune (s : State) (q : Nat) (v : BitVec 64) : Nat × State :=
  let t := v.toNat % 2 ^ 23
  let k := s.cluster q
  let raw := t / 65536
  let (st, s1) :=
    if !divInRange (t % 65536) || bitsOf v 63 23 != 0 || (81 ≤ raw && raw ≤ 126) then (4, s)
    else if (s.fuse q).ceil < codeOf k t then (3, s)
    else if s.belowFloor q t then (2, s)
    else if k.mstate = 0 then (0, s.startMove q t)
    else if k.mbox.isSome then
      (1, s.modCluster q fun k => { k with mbox := some t, nrepl := min 255 (k.nrepl + 1) })
    else (0, s.modCluster q fun k => { k with mbox := some t })
  (st, s1.modCluster q fun k => { k with last := st })

/-- CLKDIV's checks and effect (R312). -/
def State.clkdiv (s : State) (c : Nat) (v : BitVec 64) : Nat × State :=
  let q := clusterOf c
  let k := s.cluster q
  let d := v.toNat % 65536
  let code := if k.mstate = 0 then k.vnow else min k.vnow k.vtgt
  if bitsOf v 63 16 != 0 || !divInRange d || !((s.core c).withDiv d).divPermitted (s.fuse q) code then (4, s)
  else (0, s.switchDiv c d)

end Sys2Proof.Machine
end

