-- ==== Sys2Proof/Machine/Window.lean ====
section
/-! DEFINITION. The receiver's side of the fabric: receive windows (R425, R426), the placing of messages (R420, R427), their
completion (R421, R429), holes (R419, R422), and step tags (R428). -/

namespace Sys2Proof.Machine

/-- The live state of a receive window. -/
def State.rwin (s : State) (w : Nat) : RWin := mget {} s.pkg.wins w

def State.modWin (s : State) (w : Nat) (f : RWin → RWin) : State :=
  s.modPkg fun p => { p with wins := mset w (f (s.rwin w)) p.wins }

/-- Bytes 24 to 63 of a window's table entry written from its live state (R425). -/
def State.rwStore (s : State) (w : Nat) : State :=
  let k := s.rwin w
  let a := s.pkg.rwBase.toNat + 64 * w
  let fl := (if k.incomplete then 1 else 0) + (if k.refused then 2 else 0)
  ((s.wr (a + 24) 8 (k.steptag.toNat + fl * 2 ^ 16 + k.wlate % 2 ^ 32 * 2 ^ 32)).wr (a + 32) 32 k.cbmp.toNat)

/-! Completion (R421, R429). -/

/-- FLAGS bits of a packet (R418). -/
def flagTrim : Nat := 1
def flagIncomplete : Nat := 2
def flagLate : Nat := 4
def flagDup : Nat := 8
def flagRefuse : Nat := 16
def flagUntagged : Nat := 32

/-- Whether a packet carries a flag. -/
def hasFlag (p : Packet) (f : Nat) : Bool := p.flags / f % 2 == 1

/-- An acknowledgement (R418, R421). -/
def State.sendAck (s : State) (dst chan msgid flags reason : Nat) : State :=
  s.sendPacket { opc := 5, flags := flags, gstep := 0, rop := 0, rwin := 0, src := 0, dst := dst, chan := chan, msgid := msgid
                 psn := 0, len := 0, steptag := 0, offset := 0, reason := reason, payload := [], bitmap := 0 }

/-- The stack at whose unit an address is served. -/
def stackAt (pa : Nat) : Nat :=
  match vaultOf pa with
  | some v => stackOf v
  | none => if isHbm pa then (canonPa pa - 0x8000000000) / 2 ^ 37 else 0

/-- The physical address of a virtual address of a window's address space, where a message may write (R426). -/
def State.winPa (s : State) (asid : Nat) (va : BitVec 64) : Option Nat :=
  (s.lookup asid true true va).filter fun pa => !isReg pa && !isFabric pa && s.windowOpen pa

/-- The bytes of a part below the limit of a CXL window, which the device takes. DESIGN CHOICE: it refuses the others, and they are
dropped (R437, log 107). -/
def State.below (s : State) (pa : Nat) (bs : List (BitVec 8)) : List (BitVec 8) :=
  if s.cxlFull pa bs.length then bs.take ((s.group (cxlGroup pa)).limit - cxlOff pa) else bs

/-- The completion counter of a window gains n (R429): an atomic at the unit that owns it. -/
def State.addCounter (s : State) (w n : Nat) : State :=
  let k := s.rwin w
  if k.caddr = 0 then s
  else match s.winPa k.asid k.caddr with
    | none => s
    | some pa =>
      if s.cxlFull pa 8 then s
      else if s.poisoned pa 8 then (s.meet pa 8).mcheck (stackAt pa) 0xFF 0 (ueMem pa) 5 else (s.meet pa 8).wr pa 8 ((s.rd pa 8 + n) % 2 ^ 64)

/-- The completed ids kept for the recognition of duplicates: the last 8,192 of each channel. -/
def keepIds (src chan id : Nat) (l : List (Nat × Nat × Nat)) : List (Nat × Nat × Nat) :=
  (l.filter fun p => !(p.1 == src && p.2.1 == chan && 8192 ≤ (id + 65536 - p.2.2) % 65536)) ++ [(src, chan, id)]

/-- The id from which a channel's messages are still to complete: its first at reset, and none of a rank whose history has been
discarded until a message of it completes (R435, log 58). -/
def Pkg.dueId (k : Pkg) (src chan : Nat) : Option Nat :=
  match k.due.find? fun p => p.1 == 1024 * src + chan with
  | some p => some p.2
  | none => if k.anew.contains src then none else some 0

/-- Whether a message has been heard of: it has a hole, waits, is placed or has completed. -/
def Pkg.heard (k : Pkg) (src chan id : Nat) : Bool :=
  (k.holes.any fun h => h.src == src && h.chan == chan && h.msgid == id && !h.resp)
    || (k.waiting.any fun h => h.src == src && h.chan == chan && h.msgid == id)
    || (k.placed.any fun h => h.src == src && h.chan == chan && h.msgid == id)
    || k.complete.contains (src, chan, id)

/-- Whether some earlier message of the channel has not been heard of. -/
def Pkg.unheard (k : Pkg) (src chan id : Nat) : Bool :=
  match k.dueId src chan with
  | none => false
  | some d => idBefore d id && (List.range ((id + 65536 - d) % 65536)).any fun i => !k.heard src chan ((d + i) % 65536)

/-- The id from which a channel's messages are still to complete moves past those that have. -/
def Pkg.passDue (k : Pkg) (src chan : Nat) : Nat → Pkg
  | 0 => k
  | fuel + 1 =>
    match k.dueId src chan with
    | some d =>
      if k.complete.contains (src, chan, d) then
        ({ k with due := mset (1024 * src + chan) ((d + 1) % 65536) k.due }).passDue src chan fuel
      else k
    | none => k

/-- A message id of a channel has completed; the first of a rank without history is the one from which the others follow
(R435, log 58). -/
def Pkg.completeId (k : Pkg) (src chan id : Nat) : Pkg :=
  let k1 : Pkg := { k with
    complete := keepIds src chan id k.complete
    due := if (k.dueId src chan).isNone then mset (1024 * src + chan) id k.due else k.due }
  k1.passDue src chan k1.complete.length

/-- A message completes (R421). -/
def State.completeOne (s : State) (m : Placed) : State :=
  let s1 := s.modPkg fun p => ({ p with placed := p.placed.filter (· != m) }).completeId m.src m.chan m.msgid
  let s2 := if m.placed then s1.addCounter m.rwin m.len else s1
  s2.sendAck m.src m.chan m.msgid m.flags m.reason

/-- Whether a placed message's turn has come: every earlier message of its channel has completed. -/
def Pkg.turn (p : Pkg) (m : Placed) : Bool :=
  !p.unheard m.src m.chan m.msgid
    && !(p.holes.any fun h => h.src == m.src && h.chan == m.chan && !h.resp && idBefore h.msgid m.msgid)
    && !(p.waiting.any fun h => h.src == m.src && h.chan == m.chan && idBefore h.msgid m.msgid)
    && !(p.placed.any fun h => h.src == m.src && h.chan == m.chan && idBefore h.msgid m.msgid)

/-- Every message of a channel whose turn has come completes, in order. -/
def State.completeChan (s : State) (src chan : Nat) : Nat → State
  | 0 => s
  | fuel + 1 =>
    match s.pkg.placed.find? fun m => m.src == src && m.chan == chan && s.pkg.turn m with
    | none => s
    | some m => (s.completeOne m).completeChan src chan fuel

def State.completeAll (s : State) (src chan : Nat) : State := s.completeChan src chan s.pkg.placed.length

/-! Acceptance (R426, R428). -/

/-- What a window makes of an arrival. -/
inductive Judge
  | late
  | refuse (reason : Nat)
  | ok (ps : List (Piece × Nat))
deriving DecidableEq, Repr

/-- Element size of a reduction (R427). -/
def ropSize (rop : Nat) : Nat := if rop = 2 then 2 else 4

/-- The target bytes of an arrival with their physical addresses; none when a translation faults. -/
def State.winParts (s : State) (k : RWin) (off n : Nat) : Option (List (Piece × Nat)) :=
  (cutPieces (k.base + BitVec.ofNat 64 off) 0 (n / 64 + 2) n).mapM fun p => (s.winPa k.asid p.ea).map fun pa => (p, pa)

/-- The checks of an arrival, with the reduction it applies (0 none) and whether its tag is compared. -/
def State.judge (s : State) (p : Packet) (rop : Nat) (tagged : Bool) : Judge :=
  let k := s.rwin (p.rwin % 64)
  if !k.bound || !k.en then .refuse 1
  else if tagged && k.tagchk && (hasFlag p flagUntagged || p.steptag % 65536 != k.steptag.toNat) then .late
  else if k.size < p.offset + p.len then .refuse 2
  else match s.winParts k p.offset p.len with
    | none => .refuse 3
    | some ps =>
      if rop ≠ 0 ∧ (p.offset % ropSize rop ≠ 0 ∨ p.len % ropSize rop ≠ 0) then .refuse 4
      else if rop ≠ 0 ∧ ps.any (fun q => s.poisoned q.2 q.1.n) then .refuse 5
      else .ok ps

/-! Placing (R420, R427). -/

/-- One element of a reduction. -/
def reduceElem (rop old v : Nat) : Nat :=
  match rop with
  | 1 => (fAdd Fmt.f32 0 (Fmt.f32.dec old) (Fmt.f32.dec v)).bits
  | 2 => (fAdd Fmt.bf16 0 (Fmt.bf16.dec old) (Fmt.bf16.dec v)).bits
  | 3 => (old + v) % 2 ^ 32
  | 4 => (fMinMax Fmt.f32 true old v).bits
  | _ => (fMinMax Fmt.f32 false old v).bits

/-- The elements of one part reduced. -/
def State.reducePart (s : State) (rop pa : Nat) (bs : List (BitVec 8)) : State :=
  let es := ropSize rop
  (List.range (bs.length / es)).foldl (fun t i =>
    t.wr (pa + es * i) es (reduceElem rop (t.rd (pa + es * i) es) (ofBytes ((bs.drop (es * i)).take es)))) s

/-- The payload placed: written as a write from a fabric peer, which clears stamps, or reduced. -/
def State.placeBytes (s : State) (rop : Nat) (ps : List (Piece × Nat)) (d : List (BitVec 8)) : State :=
  ps.foldl (fun t q =>
    let bs := s.below q.2 ((d.drop q.1.off).take q.1.n)
    if rop = 0 then t.store 255 0 q.2 bs else t.reducePart rop q.2 bs) s

/-- A refused arrival: REFUSED and its event (R426, R443). -/
def State.refuse (s : State) (p : Packet) (reason : Nat) : State :=
  let w := p.rwin % 64
  (s.modWin w fun k => { k with refused := true }).post
    ⟨0x42, w, 0xFF, 0, BitVec.ofNat 64 p.src, BitVec.ofNat 64 reason, BitVec.ofNat 64 p.offset, none⟩

/-- A late arrival counted (R428). -/
def State.countLate (s : State) (p : Packet) : State :=
  (s.modWin (p.rwin % 64) fun k => { k with wlate := min (2 ^ 32 - 1) (k.wlate + 1) }).modPkg fun k => { k with late := k.late + 1 }

/-- Whether two ranges of one window overlap. -/
def overlap (w1 o1 n1 w2 o2 n2 : Nat) : Bool := w1 == w2 && o1 < o2 + n2 && o2 < o1 + n1

/-- The later messages of an arrival's channel that are placed already on bytes of its range, in the order of their ids. -/
def Pkg.placedOver (k : Pkg) (p : Packet) : List Placed :=
  (k.placed.filter fun m =>
    m.src == p.src && m.chan == p.chan && m.placed && idBefore p.msgid m.msgid
      && overlap m.rwin m.offset m.len (p.rwin % 64) p.offset p.len).insertionSort fun a b => idBefore a.msgid b.msgid

/-- The bytes of a placed message in [lo, hi) of its window, placed again. -/
def State.replace (s : State) (m : Placed) (lo hi : Nat) : State :=
  let a := max lo m.offset
  let d := (m.data.drop (a - m.offset)).take (min hi (m.offset + m.len) - a)
  match s.winParts (s.rwin m.rwin) a d.length with
  | some ps => s.placeBytes m.rop ps d
  | none => s

/-- An arrival placed as if before the later messages of its channel that are placed already (R420): a write, and they on it again; of
a reduction the elements that no later write covers. DESIGN CHOICE: two reductions of one element are then applied in the order in
which they came (log 58). -/
def State.placeUnder (s : State) (p : Packet) (rop : Nat) (ps : List (Piece × Nat)) : State :=
  let later := s.pkg.placedOver p
  if later.isEmpty then s.placeBytes rop ps p.payload
  else if rop = 0 then later.foldl (fun t m => t.replace m p.offset (p.offset + p.len)) (s.placeBytes 0 ps p.payload)
  else
    let es := ropSize rop
    (List.range (p.len / es)).foldl (fun t i =>
      let o := p.offset + es * i
      if later.any fun m => m.rop == 0 && m.offset < o + es && o < m.offset + m.len then t
      else match t.winParts (t.rwin (p.rwin % 64)) o es with
        | some qs => t.placeBytes rop qs ((p.payload.drop (es * i)).take es)
        | none => t) s

/-- An arrival judged and placed, dropped or refused: the state, and the record of what became of it. -/
def State.takeArrival (s0 : State) (p : Packet) (rop : Nat) : State × Placed :=
  let s := if rop = 0 then s0 else
    match s0.winParts (s0.rwin (p.rwin % 64)) p.offset p.len with
    | some ps => s0.meetAll (ps.map fun q => (q.2, q.1.n))
    | none => s0
  let m (placed : Bool) (flags reason : Nat) : Placed :=
    { src := p.src, chan := p.chan, msgid := p.msgid, rwin := p.rwin % 64, len := p.len, placed := placed, flags := flags
      reason := reason, offset := p.offset, rop := rop, data := if placed then p.payload else [] }
  match s.judge p rop true with
  | .late => (s.countLate p, m false flagLate 0)
  | .refuse r => (s.refuse p r, m false flagRefuse r)
  | .ok ps => (s.placeUnder p rop ps, m true 0 0)

/-- The reduction that an arriving message applies: a REDUCE's (R418). -/
def ropOf (p : Packet) : Nat := if p.opc = 2 then p.rop else 0

/-- A message taken in its channel's order of placement, and what can then complete. -/
def State.takeOne (s : State) (p : Packet) : State :=
  let (s1, m) := s.takeArrival p (ropOf p)
  (s1.modPkg fun k => { k with placed := k.placed ++ [m] }).completeAll p.src p.chan

/-- Whether an earlier message of the channel that is known and still to be placed overlaps a message (R420). -/
def Pkg.behind (k : Pkg) (p : Packet) : Bool :=
  (k.holes.any fun h => h.src == p.src && h.chan == p.chan && !h.resp && idBefore h.msgid p.msgid
      && overlap h.rwin h.offset h.len (p.rwin % 64) p.offset p.len)
    || (k.waiting.any fun h => h.src == p.src && h.chan == p.chan && idBefore h.msgid p.msgid
      && overlap (h.rwin % 64) h.offset h.len (p.rwin % 64) p.offset p.len)

/-- Messages that waited behind an overlapping one are taken as they come free. -/
def State.takeWaiting (s : State) (src chan : Nat) : Nat → State
  | 0 => s
  | fuel + 1 =>
    match s.pkg.waiting.find? fun p => p.src == src && p.chan == chan && !s.pkg.behind p with
    | none => s
    | some p =>
      ((s.modPkg fun k => { k with waiting := k.waiting.filter (· != p) }).takeOne p).takeWaiting src chan fuel

/-- What a channel's messages come to after one of its holes has ended. -/
def State.afterHole (s : State) (src chan : Nat) : State :=
  (s.takeWaiting src chan s.pkg.waiting.length).completeAll src chan

/-! Holes. -/

/-- The greatest age in ns of holes that end, in the 32 bits of HOLE.MAXAGE (R424). -/
def holeAge (now : Nat) (hs : List Hole) (old : Nat) : Nat :=
  hs.foldl (fun a h => max a (min (2 ^ 32 - 1) ((now - h.born) / 4))) old

/-- A hole's end, with its age (R422, R424). -/
def State.endHole (s : State) (h : Hole) : State :=
  s.modPkg fun p => { p with holes := p.holes.filter (· != h), holeMax := holeAge s.now [h] p.holeMax }

/-- The hole of a message, or of the answer to one. -/
def Pkg.holeOf (k : Pkg) (resp : Bool) (src chan msgid : Nat) : Option Hole :=
  k.holes.find? fun h => h.src == src && h.chan == chan && h.msgid == msgid && h.resp == resp

/-- The hole of an arrival, if any, ends. -/
def State.fillHole (s : State) (p : Packet) : State :=
  match s.pkg.holeOf (p.opc == 4) p.src p.chan p.msgid with
  | some h => s.endHole h
  | none => s

/-! Step tags (R428). -/

/-- A hole whose message carries a tag that has gone is given up: acknowledged as late. -/
def State.giveUpHole (s : State) (h : Hole) : State :=
  ((s.endHole h).modPkg fun p => p.completeId h.src h.chan h.msgid).sendAck h.src h.chan h.msgid flagLate 0

/-- A tag write (R428), and the entry in memory (R425). -/
def State.setStepTag (s : State) (w : Nat) (tag : BitVec 16) : State :=
  let old := (s.rwin w).steptag.toNat
  let s1 := s.modWin w fun k =>
    { k with steptag := tag, incomplete := false, refused := false, cbmp := BitVec.allOnes 256 }
  let hs := s.pkg.holes.filter fun h => h.rwin == w && h.steptag == old && !h.resp
  let s2 := hs.foldl State.giveUpHole s1
  (hs.foldl (fun t h => t.afterHole h.src h.chan) s2).rwStore w

end Sys2Proof.Machine
end

