-- ==== Sys2Proof/Machine/Sync.lean ====
section
/-! DEFINITION. The instructions of synchronisation and power in slot SY (R292 to R321): atomics, barriers, CEWAIT, FENCE,
GRED, TUNE, CLKDIV, BALLAST, TRAP, ERET, STATQ, WAITT, EVENT and STEPTAG. -/

namespace Sys2Proof.Machine

/-! Requests to atomic units. -/

/-- The answered request of slot SY once its time has come. -/
def State.ready7 (s : State) (c x : Nat) : Option WaitRec :=
  match (s.ctx c x).waiting 7 with
  | some w => if w.done && w.aux ≤ (s.core c).tick then some w else none
  | none => none

/-- A request sent once, its number noted for slot SY. -/
def State.askOnce (s : State) (m : Msg) : State :=
  if ((s.ctx m.core m.x).waiting 7).isSome then s else (s.noteWait m.core m.x 7 1).send m

/-- The address of a scalar atomic or barrier instruction (R295). -/
def syAddr (o : OpSyA) (k : Ctx) : BitVec 64 :=
  if o.sp = 1 then vaultEA (k.rs o.base) (o.off.signExtend 64) 0 0 else k.rs o.base + o.off.signExtend 64

/-- A trap of a global atomic before retirement (R292, R295): misaligned, or at an address without an atomic unit. -/
def atomicLate (s : State) (a : Acc) (w : Nat) : Option (Nat × BitVec 64) :=
  if a.vault then none
  else
    match a.ps.find? fun p => p.ea.toNat % w != 0 with
    | some p => some (9, p.ea)
    | none =>
      match a.lateTrap s with
      | some t => some t
      | none => a.unitless s

/-- A local access at its bank's unit: after the context's own earlier accesses to its bytes (R198) and what the unit has
accepted before (R292); it meets the errors of its words (R377). -/
def Acc.atUnit (a : Acc) (s : State) : State :=
  let t := a.drain s
  a.meets (match a.ps.head? with
    | some p => t.drainUnit (ownerOf (vaultPiecePa a.c p)) t.net.length
    | none => t)

/-- Whether its unit still holds requests accepted before a local access, or own messages to its bytes are on their way. -/
def Acc.unitHeld (a : Acc) (s : State) : Bool :=
  let t := a.atUnit s
  a.ps.any fun p =>
    (t.nextAt (ownerOf (vaultPiecePa a.c p))).isSome || t.net.any (ownAt a.c a.x (vaultPiecePa a.c p) p.n)

/-- A release of a context: its region tag moves on (R350). -/
def State.releaseIf (s : State) (c : Nat) (rel : Bool) : State := if rel then s.release c else s

/-- A release performs the accesses of its own bundle's earlier slots first (R339, R342); those through a fabric window or to a
register stay on their way. -/
def State.drainIf (s : State) (c x : Nat) (rel : Bool) : State := if rel then s.drainAll c x else s

/-- A local request done at once at its unit: the value lands 12 cycles after its issue (R297). -/
def unitNow (m : Msg) (sd : BitVec 6) (t : State) : State :=
  let (v, mark, t1) := unitDo t m
  if sd = 0 then (if mark.isSome then t1.atomicCheck m else t1)
  else t1.modCtx m.core m.x fun q =>
    q.pending (.s sd.toNat) (v.setWidth 2048) (.cycle (q.cyc + 12) ((t.core m.core).tick + 12)) mark

/-- A request whose bundle retires, behind every message that its bundle has sent (R58, R339): its value lands when its answer
comes. -/
def unitSent (m : Msg) (sd : BitVec 6) (t : State) : State :=
  let (n, t1) := t.fresh
  let t2 := t1.send { m with st := .live, dest := if sd = 0 then .none else .reg n 0 5 }
  if sd = 0 then t2 else t2.modCtx m.core m.x fun q => q.pending (.s sd.toNat) 0 (.reply n) none

/-- What every scalar request to an atomic unit does (R292 to R297). A local one is performed at issue, or waits in its unit
behind what the unit has accepted; a release waits for
the context's earlier accesses first. Another, once nothing else holds its bundle, waits in FRZ.LAND for its unit's acceptance,
and the bundle's retirement makes it live. `addr` are its address registers, `data` the others; `bad` is the trap of a local
request that its unit turns away (R300), which is known once the unit comes to it. -/
def unitSem (s : State) (a : Acc) (addr data : List RegName) (base : BitVec 64) (w : Nat) (sd : BitVec 6) (rel acq : Bool)
    (op : MsgOp) (bad : Option (Option (Nat × BitVec 64))) : Sem :=
  let c := a.c
  let x := a.x
  let ea := match a.ps.head? with | some p => p.ea | none => 0
  let pa := match a.ps.head? with | some p => a.pa s p | none => 0
  let m : Msg := { id := 0, core := c, x := x, pa := pa, va := ea, op := op, dest := .wait 7 0, st := .asked,
                   region := (s.core c).rgCur, rel := rel }
  let early := atomicLate s a w
  let m0 := a.sem s addr base w
  { m0 with
    reads := addr ++ data
    writes := if sd = 0 then [] else [.s sd.toNat]
    wait :=
      if rel && s.relHeld c then some (.sync, id)
      else match m0.wait with
        | some f => some f
        | none =>
          if early.isNone && a.isLocal && ((rel && s.unperformed c x) || (bad.isSome && a.unitHeld s)) then some (.land, id)
          else none
    final := if early.isSome || a.isLocal || (s.ready7 c x).isSome then none else some (.land, fun t => t.askOnce m)
    late := orTrap early
      (if a.isLocal then bad.getD none else (s.ready7 c x).bind fun r => r.mark.map fun q => (q.code, q.addr))
    eff := fun t =>
      let q : Msg := { m with acq := acq, tags := if rel then [t.relTag c] else [] }
      (if a.isLocal then
        let t0 := t.drainIf c x rel
        if a.unitHeld t0 || (rel && t0.unperformed c x) then unitSent { q with seq := t0.nextId + 1 } sd t0
        else unitNow q sd (a.atUnit t0)
      else
        match (t.ctx c x).waiting 7 with
        | some r => unitSent { q with seq := (match t.msg r.id with | some b => b.seq | none => 0) } sd (t.dropMsg r.id)
        | none => t).releaseIf c rel }

/-! Scalar atomics (R294 to R297). -/

def atomicSem (op : Nat) (o : OpSyA) (s : State) (c x : Nat) : Sem :=
  let k := s.ctx c x
  let w := if o.w = 1 then 8 else 4
  let ea := syAddr o k
  let a : Acc := ⟨o.sp == 1, [⟨ea, w, 0⟩], true, true, false, c, x⟩
  let rel := o.ord == 2 || o.ord == 3
  let acq := o.ord == 1 || o.ord == 3
  unitSem s a [.s o.base.toNat] (.s o.sb.toNat :: if op = 7 then [.s o.sd.toNat] else []) (k.rs o.base) w o.sd rel acq
    (.atomic op w (k.rs o.sb) (k.rs o.sd) (o.sd == 0)) none

def semAadd (o : OpSyA) (s : State) (c x : Nat) : Sem := atomicSem 0 o s c x
def semAmin (o : OpSyA) (s : State) (c x : Nat) : Sem := atomicSem 1 o s c x
def semAmax (o : OpSyA) (s : State) (c x : Nat) : Sem := atomicSem 2 o s c x
def semAand (o : OpSyA) (s : State) (c x : Nat) : Sem := atomicSem 3 o s c x
def semAor (o : OpSyA) (s : State) (c x : Nat) : Sem := atomicSem 4 o s c x
def semAxor (o : OpSyA) (s : State) (c x : Nat) : Sem := atomicSem 5 o s c x
def semAswp (o : OpSyA) (s : State) (c x : Nat) : Sem := atomicSem 6 o s c x
def semAcas (o : OpSyA) (s : State) (c x : Nat) : Sem := atomicSem 7 o s c x

/-! Vector atomics (R298, R299). -/

/-- The traps of a vector atomic's elements in a vault (R188, R190, R295): the base, then the first misaligned element. -/
def vatomicSem (op : Nat) (o : OpSyV) (s : State) (c x : Nat) : Sem :=
  let k := s.ctx c x
  let t := eTy o.ty.toNat Fmt.f32
  let b := t.w / 8
  let vault := o.sp == 1
  let offs := k.rv o.vo
  let ea (i : Nat) : BitVec 64 :=
    let off := BitVec.ofInt 64 (sgn t.w (elem t.w i offs))
    if vault then vaultEA (k.rs o.base) off 0 0 else k.rs o.base + off
  let a : Acc := ⟨vault, (List.range t.count).map fun i => ⟨ea i, b, b * i⟩, true, true, false, c, x⟩
  let rel := o.ord == 2
  let m0 := a.sem s [.s o.base.toNat, .v o.vo.toNat] (k.rs o.base) b
  { m0 with
    reads := [.s o.base.toNat, .v o.vo.toNat, .v o.vs.toNat]
    units := []
    near := a.isLocal
    wait := if rel && s.relHeld c then some (.sync, id) else m0.wait
    late := atomicLate s a b
    eff := fun t0 =>
      let t1 := a.ps.foldl (fun u p =>
        u.send { id := 0, core := c, x := x, pa := a.pa s p, va := p.ea,
                 op := .vatom op o.ty.toNat (BitVec.ofNat 64 (elem t.w (p.off / b) (k.rv o.vs))), dest := .none,
                 st := if a.isLocal then .live else .asked, region := (s.core c).rgCur, rel := rel
                 seq := if a.isLocal then u.nextId else 0 }) t0
      t1.releaseIf c rel }

def semVaadd (o : OpSyV) (s : State) (c x : Nat) : Sem := vatomicSem 0 o s c x
def semVaor (o : OpSyV) (s : State) (c x : Nat) : Sem := vatomicSem 1 o s c x

/-! Barriers (R300 to R304). -/

/-- The access of a barrier instruction: 16 bytes of a vault, not judged by R224. -/
def barrierAcc (o : OpSyA) (s : State) (c x : Nat) : Acc :=
  ⟨true, [⟨syAddr o (s.ctx c x), 16, 0⟩], true, false, false, c, x⟩

/-- The trap of a local request whose object is unusable when its unit comes to it (R300); of one that holds uncorrectable
data none. -/
def barrierBad (a : Acc) (s : State) : Option (Nat × BitVec 64) :=
  if a.isLocal && a.unitHeld s then none
  else match a.ps.head? with
  | some p =>
    let pa := a.pa s p
    let t := if a.isLocal then a.atUnit s else s
    if (t.barrier pa).usable || t.poisoned pa 16 then none else some (9, p.ea)
  | none => none

def semBinit (o : OpSyA) (s : State) (c x : Nat) : Sem :=
  let k := s.ctx c x
  let v := k.rs o.sb
  let lvl := bitsOf v 34 32
  let count := if lvl = 7 then bitsOf v 31 0 else
    match k.strand with
    | some st => (s.hdrOf st).groupSize lvl
    | none => 0
  let bad := bitsOf v 63 35 != 0 || count == 0 || 2 ^ 32 ≤ count
  unitSem s (barrierAcc o s c x) [.s o.base.toNat] [.s o.sb.toNat] (k.rs o.base) 16 o.sd true false
    (.binit count lvl bad (o.sd == 0)) none

def semBarr (o : OpSyA) (s : State) (c x : Nat) : Sem :=
  let k := s.ctx c x
  let a := barrierAcc o s c x
  unitSem s a [.s o.base.toNat] [] (k.rs o.base) 16 o.sd true false (.barr (o.sd == 0)) (some (barrierBad a s))

/-- Cycles of the freeze that ends count as collective slack when its cause is another package's traffic (R438). -/
def State.countSlack (s : State) (c x : Nat) : State :=
  let n := (s.ctx c x).syncRun
  let s1 := s.modCtx c x fun k => { k with syncRun := 0, slackWait := true }
  if s.isDrone c x then s1 else s1.modCluster (clusterOf c) fun q => { q with slackCyc := q.slackCyc + n }

/-- BWAIT (R303): a read at the object's unit, answered once the phase differs from the parity. -/
def semBwait (o : OpSyA) (s : State) (c x : Nat) : Sem :=
  let k := s.ctx c x
  let a := { barrierAcc o s c x with write := false }
  let ea := syAddr o k
  let pa := vaultPiecePa c ⟨ea, 16, 0⟩
  let par := if (k.rs o.sb).getLsbD 0 then 1 else 0
  let m : Msg := { id := 0, core := c, x := x, pa := pa, va := ea, op := .bwait par, dest := .wait 7 0,
                   st := if a.isLocal then .live else .asked }
  let ask (t : State) : State :=
    if ((t.ctx c x).waiting 7).isSome then t
    else if a.isLocal then
      (if a.unitHeld t then t else ((a.atUnit t).askOnce m).readPhase { m with id := (a.atUnit t).nextId })
    else t.askOnce m
  let got := s.ready7 c x
  let m0 := a.sem s [.s o.base.toNat] (k.rs o.base) 16
  { m0 with
    reads := [.s o.base.toNat, .s o.sb.toNat]
    wait := if k.landed [.s o.base.toNat, .s o.sb.toNat] then
        (match m0.wait with
        | some f => some f
        | none => if got.isSome || (a.isLocal && (barrierBad a s).isSome) then none else some (.sync, ask))
      else m0.wait
    late := if a.isLocal && (k.waiting 7).isNone then barrierBad a s
      else got.bind fun r => r.mark.map fun q => (q.code, q.addr)
    eff := fun t =>
      let t1 := match got.bind fun r => t.msg r.id with
        | some w => (t.acquireTags c w.tags).dropMsg w.id
        | none => t
      if got.any (·.slack) then t1.countSlack c x else t1 }

/-! Channels, fences and reductions. -/

/-- The chunk bits that a CEWAIT wants (R305). -/
def wantedBits (o : OpSyC) (k : Ctx) : BitVec 512 :=
  if o.all = 1 then BitVec.allOnes 512 else (k.rv o.mask).setWidth 512

/-- A cycle of a wait for another package's traffic counts as collective slack at once, unless the context is a drone (R438). -/
def State.slackCycle (s : State) (c x : Nat) : State :=
  if s.isDrone c x then s else s.modCluster (clusterOf c) fun q => { q with slackCyc := q.slackCyc + 1 }

def semCewait (o : OpSyC) (s : State) (c x : Nat) : Sem :=
  let k := s.ctx c x
  let ch := mget {} (s.core c).chans o.ch.toNat
  let want := wantedBits o k
  let met := ch.state != 1 || want &&& ~~~ch.bitmap == 0
  let regs : List RegName := if o.all = 1 then [] else [.v o.mask.toNat]
  { reads := regs
    gate := []
    trap := if ch.state = 2 then some (0x16, ch.faddr) else none
    wait := if met || !k.landed regs then none
      else some (.sync, fun t => if ch.dsp = 2 then t.slackCycle c x else t)
    eff := fun t =>
      if ch.dsp = 2 && 0 < k.syncRun then t.modCtx c x fun k => { k with syncRun := 0, slackWait := true } else t }

/-- A fence of a context as its bundle retires: the accesses of its bundle's earlier slots are performed, or hold back what the
context issues next (R306, R339); an acquire and a release. -/
def State.fence (s : State) (c x : Nat) : State := (((s.drainAll c x).holdOwed c x).acquireAll c).release c

/-- FENCE (R306): the context's earlier accesses are performed in the whole package and beyond before it retires, which is
more than a narrow scope asks. -/
def semFence (_o : OpSy) (s : State) (c x : Nat) : Sem :=
  { wait := if s.relHeld c || s.unperformed c x then some (.sync, id) else none
    eff := fun t => t.fence c x }

/-- The answered contribution of a context once its time has come. -/
def State.gredReady (s : State) (c x : Nat) : Option WaitRec :=
  match (s.ctx c x).gred with
  | some w => if w.done && w.aux ≤ (s.core c).tick then some w else none
  | none => none

/-- GRED (R307, R308). DESIGN CHOICE: it contributes while its bundle is frozen, which starts no store (R140, R144): the accesses
that it releases are those of earlier bundles (log 104). -/
def semGred (o : OpSy) (s : State) (c x : Nat) : Sem :=
  let k := s.ctx c x
  let level := bitsOf o.imm 6 4
  let op := bitsOf o.imm 2 0
  let uns := bitsOf o.imm 3 3 == 1
  let glev := match k.strand with | some st => (s.hdrOf st).glev | none => 0
  let child := match k.strand with | some st => st.pjoin != 0 | none => true
  let perm : Option (Nat × BitVec 64) := if glev < level || child then some (9, 0) else none
  if level = 0 then
    { reads := [.s o.sa.toNat], gate := [], writes := [.s o.sd.toNat], trap := perm
      eff := fun t => t.resS c x o.sd (k.rs o.sa) 1 }
  else
    let got := s.gredReady c x
    let ask (t : State) : State :=
      if (t.ctx c x).gred.isSome then t
      else
        ((t.modCtx c x fun q => { q with gred := some { id := t.nextId } }).send
          { id := 0, core := c, x := x, pa := 0xF000000000000, va := 0, op := .gred op level uns (k.rs o.sa),
            dest := .none, st := .live, tags := [t.relTag c] }).release c
    { reads := [.s o.sa.toNat]
      gate := []
      writes := [.s o.sd.toNat]
      trap := perm
      wait := if k.gred.isNone && (s.unperformed c x || s.relHeld c) then some (.sync, id) else none
      final := if got.isSome then none else some (.sync, ask)
      eff := fun t =>
        let v := match got with | some w => w.val.setWidth 64 | none => 0
        let t1 := (t.modCtx c x fun q => { q with gred := none }).resS c x o.sd v 1
        if got.any (·.slack) then t1.countSlack c x else t1 }

/-! Power. -/

/-- The privilege rule of TUNE and CLKDIV (R311, R312). -/
def tunePriv (s : State) (c x : Nat) : Option (Nat × BitVec 64) :=
  if s.supv c x || (s.cluster (clusterOf c)).userTune then none else some (0x18, 0)

def semTune (o : OpSy) (s : State) (c x : Nat) : Sem :=
  let v := (s.ctx c x).rs o.sa
  { reads := [.s o.sa.toNat]
    writes := [.s o.sd.toNat]
    trap0 := tunePriv s c x
    eff := fun t =>
      let (st, t1) := t.tune (clusterOf c) v
      t1.resS c x o.sd (BitVec.ofNat 64 st) 1 }

def semClkdiv (o : OpSy) (s : State) (c x : Nat) : Sem :=
  let v := (s.ctx c x).rs o.sa
  { reads := [.s o.sa.toNat]
    writes := [.s o.sd.toNat]
    trap0 := tunePriv s c x
    eff := fun t =>
      let (st, t1) := t.clkdiv c v
      t1.resS c x o.sd (BitVec.ofNat 64 st) 1 }

/-- BALLAST.CTL (R313). -/
def Core.ballastCtl (k : Core) : Nat := k.dslew % 4096 * 2 ^ 28 + k.balF % 4096 * 16 + k.balMode % 4

/-- BALLAST in a mode, with its floor (R315). -/
def ballastSem (o : OpSy) (mode : Nat) (f : Core → Ctx → Nat) (s : State) (c x : Nat) : Sem :=
  let k := s.ctx c x
  { reads := [.s o.sa.toNat]
    writes := [.s o.sd.toNat]
    eff := fun t =>
      (t.modCore c fun q => { q with balMode := mode, balF := f q k }).resS c x o.sd
        (BitVec.ofNat 64 (t.core c).ballastCtl) 1 }

def semBallastOff (o : OpSy) (s : State) (c x : Nat) : Sem := ballastSem o 0 (fun _ _ => 0) s c x
def semBallastLevel (o : OpSy) (s : State) (c x : Nat) : Sem :=
  ballastSem o 1 (fun _ k => min 4095 (k.rs o.sa).toNat) s c x
def semBallastAuto (o : OpSy) (s : State) (c x : Nat) : Sem := ballastSem o 2 (fun q _ => q.balA) s c x

/-! Traps, statistics, time and events. -/

def semTrap (_o : OpSy) (_s : State) (_c _x : Nat) : Sem := { trap0 := some (0x12, 0) }

/-- ERET (R317): the context leaves trap mode after its bundle's other slots. -/
def semEret (_o : OpSy) (s : State) (c x : Nat) : Sem :=
  { trap0 := if (s.ctx c x).trapm then none else some (1, 0)
    eff := fun t => t.leaveTrap c x }

/-- A statistics record as two words (R287). -/
def StatRec.lo (r : StatRec) : Nat := r.addr / 64 * 64 % 2 ^ 64 + r.ctx % 2
def StatRec.hi (r : StatRec) : Nat :=
  r.event % 256 + r.src % 256 * 2 ^ 8 + r.obj % 2 ^ 16 * 2 ^ 16 + r.count % 2 ^ 32 * 2 ^ 32

def semStatq (o : OpSy) (_s : State) (c x : Nat) : Sem :=
  let sd1 : BitVec 6 := o.sd + 1
  { writes := if o.sd = 0 then [] else [.s o.sd.toNat, .s sd1.toNat]
    eff := fun t =>
      let r := (t.core c).statq.head?
      let (lo, hi) := match r with | some r => (BitVec.ofNat 64 r.lo, BitVec.ofNat 64 r.hi) | none => (0, 0)
      let t1 := t.modCore c fun q => { q with statq := q.statq.tail }
      if o.sd = 0 then t1 else (t1.resS c x o.sd lo 1).resS c x sd1 hi 1 }

def semWaitt (o : OpSy) (s : State) (c x : Nat) : Sem :=
  let k := s.ctx c x
  let v := if o.imm = 1 then s.refCount c else s.ptimeNs
  { reads := [.s o.sa.toNat]
    writes := [.s o.sd.toNat]
    wait := if (k.rs o.sa).toNat ≤ v then none else some (.sync, id)
    eff := fun t => t.resS c x o.sd (BitVec.ofNat 64 v) 1 }

/-- EVENT (R320): a release at system scope; the event unit's answer ends the freeze. DESIGN CHOICE: it is posted while its bundle
is frozen, which starts no store (R140, R144): the accesses that it releases are those of earlier bundles (log 104). -/
def semEvent (o : OpSy) (s : State) (c x : Nat) : Sem :=
  let k := s.ctx c x
  let rec' := match k.strand with | some st => st.slot | none => 0
  let e : Event := { code := 0x0B, sub := bitsOf o.imm 15 0, core := c, flags := s.ctxFlags c x, a := k.rs o.sa,
                     b := k.rs o.sb, c := BitVec.ofNat 64 rec' }
  let got := s.ready7 c x
  let ask (t : State) : State :=
    if ((t.ctx c x).waiting 7).isSome then t
    else
      (t.askOnce { id := 0, core := c, x := x, pa := 0xF000000000000, va := 0, op := .event e, dest := .wait 7 0,
                   st := .live }).release c
  { reads := [.s o.sa.toNat, .s o.sb.toNat]
    gate := []
    writes := [.s o.sd.toNat]
    wait := if (k.waiting 7).isNone && (s.unperformed c x || s.relHeld c) then some (.sync, id) else none
    final := if got.isSome then none else some (.sync, ask)
    eff := fun t => t.resS c x o.sd (match got with | some w => w.val.setWidth 64 | none => 0) 1 }

/-! Receive windows (R321, R425). -/

/-- A window that is not bound to the strand's address space (R321). -/
def steptagPerm (o : OpSy) (s : State) (c x : Nat) : Option (Nat × BitVec 64) :=
  let k := s.rwin (bitsOf o.imm 5 0)
  if k.bound && k.asid == s.asid c x then none else some (9, 0)

def semSteptag (o : OpSy) (s : State) (c x : Nat) : Sem :=
  { writes := [.s o.sd.toNat]
    trap := steptagPerm o s c x
    eff := fun t => t.resS c x o.sd ((t.rwin (bitsOf o.imm 5 0)).steptag.setWidth 64) 1 }

/-- STEPTAG.W (R321): a fence at package scope about the change of the tag. -/
def semSteptagW (o : OpSy) (s : State) (c x : Nat) : Sem :=
  let k := s.ctx c x
  let w := bitsOf o.imm 5 0
  { reads := [.s o.sa.toNat]
    gate := []
    writes := [.s o.sd.toNat]
    trap := steptagPerm o s c x
    wait := if s.unperformed c x || s.relHeld c then some (.sync, id) else none
    eff := fun t =>
      ((t.resS c x o.sd ((t.rwin w).steptag.setWidth 64) 1).setStepTag w ((k.rs o.sa).setWidth 16)).fence c x }

/-! Each instruction alone in a bundle (R144). -/

/-- AADD alone in a bundle, issued by the context in turn. -/
def execAadd (o : OpSyA) (s : State) : Host.Outcome State Fault Refusal :=
  issueOne .sy (.aadd o) o.g (semAadd o) s

/-- AMIN alone in a bundle, issued by the context in turn. -/
def execAmin (o : OpSyA) (s : State) : Host.Outcome State Fault Refusal :=
  issueOne .sy (.amin o) o.g (semAmin o) s

/-- AMAX alone in a bundle, issued by the context in turn. -/
def execAmax (o : OpSyA) (s : State) : Host.Outcome State Fault Refusal :=
  issueOne .sy (.amax o) o.g (semAmax o) s

/-- AAND alone in a bundle, issued by the context in turn. -/
def execAand (o : OpSyA) (s : State) : Host.Outcome State Fault Refusal :=
  issueOne .sy (.aand o) o.g (semAand o) s

/-- AOR alone in a bundle, issued by the context in turn. -/
def execAor (o : OpSyA) (s : State) : Host.Outcome State Fault Refusal :=
  issueOne .sy (.aor o) o.g (semAor o) s

/-- AXOR alone in a bundle, issued by the context in turn. -/
def execAxor (o : OpSyA) (s : State) : Host.Outcome State Fault Refusal :=
  issueOne .sy (.axor o) o.g (semAxor o) s

/-- ASWP alone in a bundle, issued by the context in turn. -/
def execAswp (o : OpSyA) (s : State) : Host.Outcome State Fault Refusal :=
  issueOne .sy (.aswp o) o.g (semAswp o) s

/-- ACAS alone in a bundle, issued by the context in turn. -/
def execAcas (o : OpSyA) (s : State) : Host.Outcome State Fault Refusal :=
  issueOne .sy (.acas o) o.g (semAcas o) s

/-- VAADD alone in a bundle, issued by the context in turn. -/
def execVaadd (o : OpSyV) (s : State) : Host.Outcome State Fault Refusal :=
  issueOne .sy (.vaadd o) o.g (semVaadd o) s

/-- VAOR alone in a bundle, issued by the context in turn. -/
def execVaor (o : OpSyV) (s : State) : Host.Outcome State Fault Refusal :=
  issueOne .sy (.vaor o) o.g (semVaor o) s

/-- BINIT alone in a bundle, issued by the context in turn. -/
def execBinit (o : OpSyA) (s : State) : Host.Outcome State Fault Refusal :=
  issueOne .sy (.binit o) o.g (semBinit o) s

/-- BARR alone in a bundle, issued by the context in turn. -/
def execBarr (o : OpSyA) (s : State) : Host.Outcome State Fault Refusal :=
  issueOne .sy (.barr o) o.g (semBarr o) s

/-- BWAIT alone in a bundle, issued by the context in turn. -/
def execBwait (o : OpSyA) (s : State) : Host.Outcome State Fault Refusal :=
  issueOne .sy (.bwait o) o.g (semBwait o) s

/-- CEWAIT alone in a bundle, issued by the context in turn. -/
def execCewait (o : OpSyC) (s : State) : Host.Outcome State Fault Refusal :=
  issueOne .sy (.cewait o) o.g (semCewait o) s

/-- FENCE alone in a bundle, issued by the context in turn. -/
def execFence (o : OpSy) (s : State) : Host.Outcome State Fault Refusal :=
  issueOne .sy (.fence o) o.g (semFence o) s

/-- GRED alone in a bundle, issued by the context in turn. -/
def execGred (o : OpSy) (s : State) : Host.Outcome State Fault Refusal :=
  issueOne .sy (.gred o) o.g (semGred o) s

/-- TUNE alone in a bundle, issued by the context in turn. -/
def execTune (o : OpSy) (s : State) : Host.Outcome State Fault Refusal :=
  issueOne .sy (.tune o) o.g (semTune o) s

/-- CLKDIV alone in a bundle, issued by the context in turn. -/
def execClkdiv (o : OpSy) (s : State) : Host.Outcome State Fault Refusal :=
  issueOne .sy (.clkdiv o) o.g (semClkdiv o) s

/-- BALLAST_OFF alone in a bundle, issued by the context in turn. -/
def execBallastOff (o : OpSy) (s : State) : Host.Outcome State Fault Refusal :=
  issueOne .sy (.ballastOff o) o.g (semBallastOff o) s

/-- BALLAST_LEVEL alone in a bundle, issued by the context in turn. -/
def execBallastLevel (o : OpSy) (s : State) : Host.Outcome State Fault Refusal :=
  issueOne .sy (.ballastLevel o) o.g (semBallastLevel o) s

/-- BALLAST_AUTO alone in a bundle, issued by the context in turn. -/
def execBallastAuto (o : OpSy) (s : State) : Host.Outcome State Fault Refusal :=
  issueOne .sy (.ballastAuto o) o.g (semBallastAuto o) s

/-- TRAP alone in a bundle, issued by the context in turn. -/
def execTrap (o : OpSy) (s : State) : Host.Outcome State Fault Refusal :=
  issueOne .sy (.trap o) o.g (semTrap o) s

/-- ERET alone in a bundle, issued by the context in turn. -/
def execEret (o : OpSy) (s : State) : Host.Outcome State Fault Refusal :=
  issueOne .sy (.eret o) o.g (semEret o) s

/-- STATQ alone in a bundle, issued by the context in turn. -/
def execStatq (o : OpSy) (s : State) : Host.Outcome State Fault Refusal :=
  issueOne .sy (.statq o) o.g (semStatq o) s

/-- WAITT alone in a bundle, issued by the context in turn. -/
def execWaitt (o : OpSy) (s : State) : Host.Outcome State Fault Refusal :=
  issueOne .sy (.waitt o) o.g (semWaitt o) s

/-- EVENT alone in a bundle, issued by the context in turn. -/
def execEvent (o : OpSy) (s : State) : Host.Outcome State Fault Refusal :=
  issueOne .sy (.event o) o.g (semEvent o) s

/-- STEPTAG alone in a bundle, issued by the context in turn. -/
def execSteptag (o : OpSy) (s : State) : Host.Outcome State Fault Refusal :=
  issueOne .sy (.steptag o) o.g (semSteptag o) s

/-- STEPTAG_W alone in a bundle, issued by the context in turn. -/
def execSteptagW (o : OpSy) (s : State) : Host.Outcome State Fault Refusal :=
  issueOne .sy (.steptagW o) o.g (semSteptagW o) s

end Sys2Proof.Machine
end

