-- ==== Sys2Proof/Machine/Strand.lean ====
section
/-! DEFINITION. The instructions of strands: WIDF, FORK, JOIN, EXIT, YIELD, CKPT, SPAWN and KILL (R112 to R120). -/

namespace Sys2Proof.Machine

/-- WIDF (R112). -/
def semWidf (o : OpI) (s : State) (c x : Nat) : Sem :=
  let v := match (s.ctx c x).strand with
    | none => 0
    | some st =>
      let h := s.hdrOf st
      let a := o.aux.toNat
      if a ≤ 5 then h.field st.wid.toNat a
      else if a ≤ 13 then h.ext (a - 8)
      else if a = 16 then st.wid.toNat
      else if a = 17 then h.index st.wid.toNat h.glev
      else if a = 18 then h.gang
      else c + (if s.isDrone c x then 128 else 0)
  { writes := [.s o.sd.toNat], eff := fun t => t.resS c x o.sd (BitVec.ofNat 64 v) 1 }

/-- The strand of a context changed. -/
def State.modStrand (s : State) (c x : Nat) (f : Strand → Strand) : State :=
  s.modCtx c x fun k => { k with strand := k.strand.map f }

/-- A scalar written unless the strand has left its context. -/
def State.resIf (s : State) (c x : Nat) (r : BitVec 6) (v : Nat) : State :=
  if (s.ctx c x).strand.isSome then s.resS c x r (BitVec.ofNat 64 v) 1 else s

/-! FORK (R113). -/

/-- The first free slot of a launch's pool. -/
def Launch.freeSlotNo (l : Launch) : Option Nat := (List.range l.hdr.nslot).find? fun n => !mget false l.used n

/-- A continuation record written in a slot: state 0 and never run (R92, R113). -/
def State.newRecord (s : State) (pa : Nat) (pc wid hdr : BitVec 64) (pjoin : Nat) (arg : BitVec 64) : State :=
  (((((((s.wr pa 8 (pc.toNat / 64 * 64)).wr (pa + 8) 8 wid.toNat).wr (pa + 16) 8 hdr.toNat).wr (pa + 24) 8 pa).wr
    (pa + 32) 8 pjoin).wr (pa + 40) 8 ((2 ^ 32 - 1) * 2 ^ 32)).wr (pa + 48) 8 arg.toNat).wr (pa + 56) 8 0

/-- FORK's status and effect. -/
def State.fork (s : State) (c x : Nat) (pc arg : BitVec 64) : Nat × State :=
  match (s.ctx c x).strand with
  | none => (1, s)
  | some st =>
    let l := s.launch st.launch
    match l.freeSlotNo with
    | none => (1, s)
    | some n =>
      if dequeCap ≤ (s.deque c).length then (2, s)
      else if st.out = 2 ^ 32 - 1 then (3, s)
      else
        let s0 := s.drainForce c x
        let pa := l.slotPa n
        let s1 := s0.newRecord pa pc st.wid st.hdr (st.slot + 56) arg
        let s2 := s1.modPkg fun p =>
          { p with launches := mset st.launch { l with used := mset n true l.used } p.launches
                   forkTags := p.forkTags ++ [(pa, [s0.relTag c])] }
        let s3 := { s2 with home := mset pa c s2.home }
        let s4 := s3.modStrand c x fun t => { t with out := t.out + 1 }
        (0, (s4.setDeque c (pa :: s4.deque c)).release c)

def semFork (o : OpSy) (s : State) (c x : Nat) : Sem :=
  let k := s.ctx c x
  { reads := [.s o.sa.toNat, .s o.sb.toNat]
    gate := []
    writes := [.s o.sd.toNat]
    wait := if s.relHeld c then some (.sync, id) else none
    eff := fun t =>
      let (st, t1) := t.fork c x (k.rs o.sa) (k.rs o.sb)
      t1.resS c x o.sd (BitVec.ofNat 64 st) 1 }

/-! JOIN (R114). -/

/-- The counts returned and cleared, an acquire of the children's ends. -/
def joinEff (o : OpSy) (c x : Nat) (t : State) : State :=
  match (t.ctx c x).strand with
  | none => t.resS c x o.sd 0 1
  | some st =>
    ((t.acquireTags c st.tags).modStrand c x fun q => { q with fault := 0, kill := 0, tags := [] }).resS c x o.sd
      (BitVec.ofNat 64 (st.kill % 2 ^ 16 * 2 ^ 16 + st.fault % 2 ^ 16)) 1

/-- Outstanding children of the strand in a context. -/
def Ctx.children (k : Ctx) : Nat := match k.strand with | some st => st.out | none => 0

/-- The trap word of a record whose strand is saved without a trap: its role, reverse bit and repeat index. -/
def State.saveWord (s : State) (c x : Nat) : Nat :=
  let k := s.ctx c x
  trapWord 0 0 k.rep k.rev (s.isDrone c x)

def semJoin (o : OpSy) (s : State) (c x : Nat) : Sem :=
  { writes := [.s o.sd.toNat]
    wait := if (s.ctx c x).children = 0 then none else some (.sync, id)
    eff := joinEff o c x }

def semJoinPark (o : OpSy) (s : State) (c x : Nat) : Sem :=
  let k := s.ctx c x
  let busy := k.children != 0
  { writes := [.s o.sd.toNat]
    wait := if busy && k.trapm then some (.sync, id) else none
    final := if busy && !k.trapm then
        some (.sync, fun t => t.beginSave c x .join (some (bitsOf o.imm 23 0)) (t.saveWord c x))
      else none
    eff := joinEff o c x }

/-! EXIT (R115). -/

/-- The channels that a strand started and that stand halted are cancelled (R248). -/
def State.cancelHalted (s : State) (c x : Nat) : State :=
  match (s.ctx c x).strand with
  | none => s
  | some st => (s.chansOf c st.slot).foldl (fun t ch => if (t.chan c ch).state = 2 then t.idleChan c ch else t) s

/-- Whether EXIT waits: for children, channels, a running CUBE and its beats, accesses and race reports. -/
def exitWaits (s : State) (c x : Nat) : Bool :=
  let k := s.ctx c x
  match k.strand with
  | none => false
  | some st =>
    st.out != 0 || (s.chansOf c st.slot).any (fun ch => (s.chan c ch).state == 1) || k.mx.phase == 1
      || (s.core c).fifo.any (fun b => b.x == x) || s.unperformed c x || s.relHeld c

def semExit (_o : OpSy) (s : State) (c x : Nat) : Sem :=
  { wait := if exitWaits s c x then some (.sync, fun t => t.cancelHalted c x) else none
    eff := fun t =>
      let t1 := t.cancelHalted c x
      let k := t1.ctx c x
      let i := k.trapInfo
      let t2 := if k.trapm then t1.endStrand c x 5 (bitsOf i 15 0) (bitsOf i 18 16) (bitsOf i 26 21)
        else t1.endStrand c x 4 0 0 0
      t2.release c }

/-! YIELD and CKPT (R116, R132). -/

/-- The checkpoint timer reloaded. -/
def State.resetTimer (s : State) (c x : Nat) : State :=
  match (s.ctx c x).strand with
  | none => s
  | some st => s.modCtx c x fun k => { k with ckpt := (s.hdrOf st).ckptLoad }

def semYield (o : OpSy) (s : State) (c x : Nat) : Sem :=
  { eff := fun t =>
      let t1 := t.resetTimer c x
      if (s.ctx c x).trapm then t1 else t1.beginSave c x .yield (some (bitsOf o.imm 23 0)) (t.saveWord c x) }

/-- What a CKPT does with a role-swap request (R132): a save, or the refusal recorded. -/
def State.serveSwap (s : State) (c x entry : Nat) : State :=
  match (s.ctx c (1 - x)).strand with
  | none => s.modCore c fun k => { k with swapReq := false, swap := 4 }
  | some st =>
    if (s.hdrOf st).filler then s.modCore c fun k => { k with swapReq := false, swap := 3 }
    else s.beginSave c x .swap (some entry) (s.saveWord c x)

def semCkpt (o : OpSy) (s : State) (c x : Nat) : Sem :=
  let entry := bitsOf o.imm 23 0
  let k := s.ctx c x
  { eff := fun t =>
      let t1 := t.resetTimer c x
      if k.trapm then t1
      else
        let t2 := if (s.core c).swapReq && !s.isDrone c x then t1.serveSwap c x entry else t1
        if (t2.ctx c x).save.isSome || k.preempt.isNone then t2
        else t2.beginSave c x .ckpt (some entry) (t.saveWord c x) }

/-! SPAWN (R119). -/

/-- SPAWN's status and effect. -/
def State.spawn (s : State) (c x : Nat) (va arg : BitVec 64) (q : Nat) : Nat × State :=
  match (s.ctx c x).strand with
  | none => (1, s)
  | some st =>
    let asid := s.asid c x
    let supv := s.supv c x
    let ok := va.toNat % 128 == 0 && (match s.headerAt asid supv va with
      | some (_, h) => s.headerCheck asid h == 0
      | none => false)
    let k := s.queue q
    if !ok then (1, s)
    else if !k.en || k.size ≤ k.held then (2, s)
    else if st.out = 2 ^ 32 - 1 then (3, s)
    else
      let s0 := s.drainForce c x
      let a := k.entryPa k.prod
      let fl := 2 ^ 63 + (if supv then 2 ^ 62 else 0) + asid % 64 * 2 ^ 56
      let s1 := (((s0.wr a 8 va.toNat).wr (a + 8) 8 arg.toNat).wr (a + 16) 8 (st.slot + 56)).wr (a + 24) 8 fl
      let s2 := s1.setQueue q { k with prod := (k.prod + 1) % 65536 }
      (0, (s2.modStrand c x fun t => { t with out := t.out + 1 }).release c)

def semSpawn (o : OpSy) (s : State) (c x : Nat) : Sem :=
  let k := s.ctx c x
  { reads := [.s o.sa.toNat, .s o.sb.toNat]
    gate := []
    writes := [.s o.sd.toNat]
    wait := if s.relHeld c then some (.sync, id) else none
    eff := fun t =>
      let (st, t1) := t.spawn c x (k.rs o.sa) (k.rs o.sb) (bitsOf o.imm 3 0)
      t1.resS c x o.sd (BitVec.ofNat 64 st) 1 }

/-! KILL (R120). -/

/-- KILL of a record: status and effect. -/
def State.kill (s : State) (c x : Nat) (a : BitVec 64) : Nat × State :=
  match (s.ctx c x).strand with
  | none => (2, s)
  | some st =>
    let l := s.launch st.launch
    let pa := a.toNat
    let b := l.hdr.slotBytes
    if b = 0 || pa < l.poolPa || l.hdr.nslot * b ≤ pa - l.poolPa || (pa - l.poolPa) % b != 0 then (2, s)
    else if !mget false l.used ((pa - l.poolPa) / b) || finalState (s.recState pa) then (1, s)
    else (0, s.killStrand st.launch pa)

def semKill (o : OpSy) (s : State) (c x : Nat) : Sem :=
  let k := s.ctx c x
  { reads := [.s o.sa.toNat]
    writes := [.s o.sd.toNat]
    eff := fun t =>
      let (st, t1) := t.kill c x (k.rs o.sa)
      t1.resIf c x o.sd st }

/-- The admitted, incomplete launches of an address space whose header is at a physical address. -/
def State.launchesAt (s : State) (asid hdrPa : Nat) : List Nat :=
  (s.pkg.launches.filter fun p => p.2.state == 1 && p.2.asid == asid && p.2.hdrPa == hdrPa).map (·.1)

def semKillL (o : OpSy) (s : State) (c x : Nat) : Sem :=
  let va := (s.ctx c x).rs o.sa
  let tr := s.xslot c x va false
  { reads := [.s o.sa.toNat]
    writes := [.s o.sd.toNat]
    trap0 := if s.supv c x then none else some (0x18, 0)
    wait := if tr = .miss then some (.land, fun t => t.askTlb c 0 x (s.asid c x) va false false) else none
    late := match tr with
      | .bad code => some (code, va)
      | _ => none
    eff := fun t =>
      match tr with
      | .ok pa =>
        let ls := t.launchesAt (s.asid c x) pa
        (ls.foldl (fun u l => u.killLaunch l) t).resIf c x o.sd (if ls.isEmpty then 1 else 0)
      | _ => t }

/-! Each instruction alone in a bundle (R144). -/

/-- WIDF alone in a bundle, issued by the context in turn. -/
def execWidf (o : OpI) (s : State) : Host.Outcome State Fault Refusal :=
  issueOne .s (.widf o) o.g (semWidf o) s

/-- FORK alone in a bundle, issued by the context in turn. -/
def execFork (o : OpSy) (s : State) : Host.Outcome State Fault Refusal :=
  issueOne .sy (.fork o) o.g (semFork o) s

/-- JOIN alone in a bundle, issued by the context in turn. -/
def execJoin (o : OpSy) (s : State) : Host.Outcome State Fault Refusal :=
  issueOne .sy (.join o) o.g (semJoin o) s

/-- JOIN_PARK alone in a bundle, issued by the context in turn. -/
def execJoinPark (o : OpSy) (s : State) : Host.Outcome State Fault Refusal :=
  issueOne .sy (.joinPark o) o.g (semJoinPark o) s

/-- EXIT alone in a bundle, issued by the context in turn. -/
def execExit (o : OpSy) (s : State) : Host.Outcome State Fault Refusal :=
  issueOne .sy (.exit o) o.g (semExit o) s

/-- YIELD alone in a bundle, issued by the context in turn. -/
def execYield (o : OpSy) (s : State) : Host.Outcome State Fault Refusal :=
  issueOne .sy (.yield o) o.g (semYield o) s

/-- CKPT alone in a bundle, issued by the context in turn. -/
def execCkpt (o : OpSy) (s : State) : Host.Outcome State Fault Refusal :=
  issueOne .sy (.ckpt o) o.g (semCkpt o) s

/-- SPAWN alone in a bundle, issued by the context in turn. -/
def execSpawn (o : OpSy) (s : State) : Host.Outcome State Fault Refusal :=
  issueOne .sy (.spawn o) o.g (semSpawn o) s

/-- KILL alone in a bundle, issued by the context in turn. -/
def execKill (o : OpSy) (s : State) : Host.Outcome State Fault Refusal :=
  issueOne .sy (.kill o) o.g (semKill o) s

/-- KILL_L alone in a bundle, issued by the context in turn. -/
def execKillL (o : OpSy) (s : State) : Host.Outcome State Fault Refusal :=
  issueOne .sy (.killL o) o.g (semKillL o) s

end Sys2Proof.Machine
end

