-- ==== Sys2Proof/Machine/Work.lean ====
section
/-! DEFINITION. Who runs what: the join word's update (R96, R99), work taken by an idle context (R110, R111), the placing of
ranges and gangs (R102, R334 to R336), and pre-emption (R124). -/

namespace Sys2Proof.Machine

/-! Join words. -/

/-- A count that saturates at 0xFFFF (R114). -/
def sat16 (n : Nat) : Nat := min 0xFFFF n

/-- The update of a join word whose strand is resident in a context. -/
def Strand.childEnd (t : Strand) (fault kill : Bool) (tags : List (Nat × Nat)) : Strand :=
  { t with
    out := t.out - 1, fault := sat16 (t.fault + if fault then 1 else 0), kill := sat16 (t.kill + if kill then 1 else 0)
    tags := t.tags ++ tags }

/-- The update of a join word in memory (R92, R96); a strand parked on its children becomes runnable at zero (R94). -/
def State.childEndMem (s : State) (pa : Nat) (fault kill : Bool) : State :=
  let out := s.rd (pa + 56) 4 - 1
  let f := sat16 (s.rd (pa + 60) 2 + if fault then 1 else 0)
  let k := sat16 (s.rd (pa + 62) 2 + if kill then 1 else 0)
  let s1 := s.wr (pa + 56) 8 (out + 2 ^ 32 * f + 2 ^ 48 * k)
  if out = 0 ∧ s.recState pa = 3 then
    (s1.setRec pa (BitVec.ofNat 64 (s.rd pa 8)) 7).pushResume (mget 0 s.home pa) pa
  else s1

/-- A launch-table entry falls free (R396). Its header stays for the strands that its pool still holds. -/
def State.freeLaunch (s : State) (l : Nat) : State := s.modLaunch l fun v => { v with state := 0 }

/-- JOIN_WORD_UPDATE (R96, R99, R101, R396): the end of a child, or the completion of a spawned launch, whose entry falls
free. It follows the accesses of the strand that ended (R114). The tag of core 255 stands for a release that carries none (R351). -/
def execJoinWordUpdate (m : Nat) (s : State) : Host.Outcome State Fault Refusal :=
  match s.arrived m with
  | some a =>
    .next (match a.op with
      | .joinWord fault kill tags =>
        if !s.eligible a then s else
        let pa := a.pa - 56
        let s1 := s.dropMsg m
        let s2 := match s.resident pa with
          | some (c, x) =>
            s1.modCtx c x fun k =>
              { k with strand := k.strand.map fun (t : Strand) => t.childEnd fault kill (if a.va = 0 then tags else [(255, 0)]) }
          | none => s1.childEndMem pa fault kill
        let s3 := match s2.launchAt pa with
          | some l => s2.freeSlot l pa
          | none => s2
        if a.va = 0 then s3 else s3.freeLaunch (a.va.toNat - 1)
      | _ => s)
  | none => .next s

/-! Where a strand may run. -/

/-- Whether a context may take work at all: its stack is released and its cluster has not failed (R335, R356). -/
def State.inService (s : State) (c : Nat) : Bool :=
  s.hasCore c && (s.stk (stackOf c)).released && !(s.cluster (clusterOf c)).failed

/-- Whether a context's role and core allow strands of a launch (R98, R365). -/
def State.canHost (s : State) (h : Header) (c x : Nat) : Bool :=
  s.inService c && (!h.cube || (!s.isDrone c x && (s.stk (stackOf c)).rtFail / 2 ^ (c % 24) % 2 == 0))
    && (!h.filler || s.isDrone c x)

def State.idle (s : State) (c x : Nat) : Bool := (s.ctx c x).strand.isNone

/-- Both contexts of some cores. -/
def ctxsOf (cs : List Nat) : List (Nat × Nat) := cs.flatMap fun c => [(c, 0), (c, 1)]

/-- The idle contexts among some cores that may run a launch. -/
def State.freeCtxs (s : State) (h : Header) (cs : List Nat) : List (Nat × Nat) :=
  (ctxsOf cs).filter fun p => s.idle p.1 p.2 && s.canHost h p.1 p.2

/-- Those that could if they were idle. -/
def State.hostCtxs (s : State) (h : Header) (cs : List Nat) : List (Nat × Nat) :=
  (ctxsOf cs).filter fun p => s.canHost h p.1 p.2

/-- The clusters and cores of a stack. -/
def clustersOf (t : Nat) : List Nat := (List.range 6).map fun i => 6 * t + i
def stackCores (t : Nat) : List Nat := (List.range 24).map fun i => 24 * t + i

/-- Whether a cluster takes ranges (R335). -/
def State.openCluster (s : State) (q : Nat) : Bool := s.inService (4 * q) && !(s.cluster q).exclude

/-- Free spill slots of a launch, lowest first. -/
def Launch.freeSlots (l : Launch) : List Nat := (List.range l.hdr.nslot).filter fun n => !mget false l.used n

/-! Gangs (R102). -/

/-- A list cut into whole groups of n. -/
def groupsOf (n : Nat) : Nat → List (Nat × Nat) → List (List (Nat × Nat))
  | 0, _ => []
  | fuel + 1, l => if n = 0 ∨ l.length < n then [] else l.take n :: groupsOf n fuel (l.drop n)

/-- The contexts of a stack that could hold members of a gang, of those that `pool` gives for a cluster: in open clusters, and
for each group at level CLEV in one cluster, or anywhere when CLEV = 0 (R334). -/
def State.stackRoom (s : State) (pool : Nat → List (Nat × Nat)) (h : Header) (t : Nat) : List (Nat × Nat) :=
  let g := if h.clev = 0 then 1 else h.groupSize h.clev
  ((clustersOf t).filter s.openCluster).flatMap fun q => (groupsOf g ((pool q).length + 1) (pool q)).flatMap id

/-- The cluster that the distributor designates for a waiting range (R102, R335): the lowest-ranked open cluster that could
hold its gang; for GLEV > CLEV, the lowest-ranked open cluster of a stack that could. -/
def State.designatedCluster (s : State) (h : Header) : Option Nat :=
  let pool (q : Nat) : List (Nat × Nat) := s.hostCtxs h (coresOf q)
  let qs := (List.range 24).filter fun q =>
    s.openCluster q
      && (if h.glev ≤ h.clev then h.gang ≤ (pool q).length else h.gang ≤ (s.stackRoom pool h (q / 6)).length)
  qs.foldl (fun (a : Option Nat) q => match a with
    | none => some q
    | some b => if (s.fuse q).rank < (s.fuse b).rank then some q else a) none

/-- The stack of that cluster: the one in which the range waits. -/
def State.designated (s : State) (h : Header) : Option Nat := (s.designatedCluster h).map (· / 6)

/-- Whether a launch has a range that waits at the distributor: one without gangs waits while no open cluster has an idle
context for it (R335). -/
def State.waitsAt (s : State) (v : Launch) : Bool :=
  v.nhand < v.hdr.total
    && (v.hdr.glev != 0
        || !(List.range 24).any fun q => s.openCluster q && !(s.freeCtxs v.hdr (coresOf q)).isEmpty)

/-- The stacks in which a launch waits for admission: where a range of its gangs stands, or as designated. -/
def State.gangStacks (s : State) (l : Nat) : List Nat :=
  let v := s.launch l
  if v.state ≠ 1 then []
  else
    (if v.hdr.glev = 0 then []
     else (List.range 4).filter fun t =>
      (s.stk t).ranges.any (fun r => r.launch == l) || (clustersOf t).any fun q => (s.cluster q).ranges.any fun r => r.launch == l)
    ++ (if s.waitsAt v then (s.designated v.hdr).toList else [])

/-- Whether a launch precedes another: by priority, then by admission (R334). -/
def Launch.ahead (a b : Launch) : Bool :=
  b.hdr.prio < a.hdr.prio || (a.hdr.prio == b.hdr.prio && a.order < b.order)

/-- Whether a waiting gang holds new roots of a launch off a stack: one of equal or higher priority. DESIGN CHOICE: of two gangs
of equal priority that wait in one stack, which R102 read literally holds off one another, only the later is held (log 50). -/
def State.held (s : State) (t l : Nat) : Bool :=
  let v := s.launch l
  s.pkg.launches.any fun p =>
    p.1 != l && (s.gangStacks p.1).contains t
      && (if v.hdr.glev = 0 then v.hdr.prio ≤ p.2.hdr.prio else p.2.ahead v)

/-! Taking work (R110, R111). -/

/-- The priority of the launch of a record. -/
def State.prioOf (s : State) (pa : Nat) : Nat := match s.launchAt pa with | some l => (s.launch l).hdr.prio | none => 0

/-- Whether a context may take a record (R91, R98, R110). -/
def State.mayTake (s : State) (c x pa : Nat) : Bool :=
  match s.launchAt pa with
  | none => false
  | some l =>
    let h := (s.launch l).hdr
    let home := mget 0 s.home pa
    let st := s.recState pa
    (st == 0 || st == 7 || st == 2) && s.canHost h c x
      && (if st = 2 then home == c else if h.clev = 0 then stackOf home == stackOf c else clusterOf home == clusterOf c)

/-- The cores an idle context steals from, in order (R111). -/
def stealOrder (c : Nat) : List Nat :=
  let q := clusterOf c
  let near := [1, 2, 3].map fun i => 4 * q + (c + i) % 4
  near ++ [1, 2, 3, 4, 5].flatMap fun i => coresOf (6 * (q / 6) + (q % 6 + i) % 6)

/-- Where a context finds work. -/
inductive Source
  | resume (pa : Nat)
  | deque (core pa : Nat)
  | root (r : Range) (slot : Nat)
deriving DecidableEq, Repr

/-- The oldest range of the cluster's dispatcher of a priority whose roots the context may run now, with the slot of the
next (R336). -/
def State.rootFor (s : State) (c x p : Nat) : Option Source :=
  ((s.cluster (clusterOf c)).ranges.find? fun r =>
    let v := s.launch r.launch
    !r.gang && v.hdr.prio == p && s.canHost v.hdr c x && !s.held (stackOf c) r.launch).bind fun r =>
      (s.launch r.launch).freeSlotNo.map fun n => .root r n

/-- A record of one priority that a context may take before new roots: of its stack's resume list, then of its core's deque. -/
def State.recordFor (s : State) (c x p : Nat) : Option Source :=
  let ok (pa : Nat) : Bool := s.prioOf pa == p && s.mayTake c x pa
  match (s.stk (stackOf c)).resume.find? ok with
  | some pa => some (.resume pa)
  | none => ((s.deque c).find? ok).map fun pa => .deque c pa

/-- The work of one priority that a context takes first. -/
def State.workAt (s : State) (c x p : Nat) : Option Source :=
  let ok (pa : Nat) : Bool := s.prioOf pa == p && s.mayTake c x pa
  match s.recordFor c x p with
  | some r => some r
  | none =>
    match s.rootFor c x p with
    | some r => some r
    | none => (stealOrder c).findSome? fun d => ((s.deque d).reverse.find? ok).map fun pa => .deque d pa

/-- The first number of a list for which something is found. -/
def State.findWork (s : State) (c x : Nat) : Option Source := [3, 2, 1, 0].findSome? fun p => s.workAt c x p

/-- Whether an idle context has work that comes before new roots of priority p (R104, R110). -/
def State.earlierWork (s : State) (c x p : Nat) : Bool :=
  (s.recordFor c x p).isSome || [3, 2, 1, 0].any fun q => p < q && (s.workAt c x q).isSome

/-- The idle contexts among some cores that a gang of a launch may be given. -/
def State.gangCtxs (s : State) (h : Header) (cs : List Nat) : List (Nat × Nat) :=
  (s.freeCtxs h cs).filter fun p => !s.earlierWork p.1 p.2 h.prio

/-- Contexts for the members of a gang of launch l in order, within a cluster, when it can be admitted there at once (R102). -/
def State.clusterPlaces (s : State) (l q : Nat) : Option (List (Nat × Nat)) :=
  let h := (s.launch l).hdr
  let f := s.gangCtxs h (coresOf q)
  if h.gang ≤ f.length ∧ h.gang ≤ (s.launch l).freeSlots.length ∧ !s.held (q / 6) l then some (f.take h.gang) else none

/-- Within a stack. -/
def State.stackPlaces (s : State) (l t : Nat) : Option (List (Nat × Nat)) :=
  let h := (s.launch l).hdr
  let f := s.stackRoom (fun q => s.gangCtxs h (coresOf q)) h t
  if h.gang ≤ f.length ∧ h.gang ≤ (s.launch l).freeSlots.length ∧ !s.held t l then some (f.take h.gang) else none

/-! Starting. -/

/-- Root n of a launch is instantiated in a slot of its pool and runs in a context (R97, R99, R336). -/
def State.startRoot (s : State) (l n slot : Nat) (p : Nat × Nat) : State :=
  let v := s.launch l
  let pa := v.slotPa slot
  let s1 := s.newRecord pa v.hdr.entry (BitVec.ofNat 64 (v.hdr.widOf n)) v.hdrVa 0 v.arg
  (s1.modPkg fun k => { k with launches := mset l { v with used := mset slot true v.used } k.launches }).take p.1 p.2 l pa

/-- The members of a gang from index n on are started in their contexts, or none. -/
def State.startGang (s : State) (l n : Nat) (ps : List (Nat × Nat)) : State :=
  ((ps.zip (s.launch l).freeSlots).zipIdx).foldl (fun t a => t.startRoot l (n + a.2) a.1.2 a.1.1) s

/-- A range after k of its indices have been instantiated. -/
def advanceRange (k : Nat) (r : Range) (rs : List Range) : List Range :=
  rs.filterMap fun a => if a = r then (if r.last ≤ r.next + k then none else some { a with next := a.next + k }) else some a

/-- GANG_ADMIT (R102): the next gang of a launch starts whole when its cluster or stack can hold it. -/
def gangAdmit (s : State) (l : Nat) : State :=
  let v := s.launch l
  let k := v.hdr.gang
  let mine (rs : List Range) : Option Range := rs.find? fun r => r.launch == l && r.gang
  let inQ := (List.range 24).findSome? fun q =>
    (mine (s.cluster q).ranges).bind fun r => (s.clusterPlaces l q).map fun ps => (q, r, ps)
  let inT := (List.range 4).findSome? fun t =>
    (mine (s.stk t).ranges).bind fun r => (s.stackPlaces l t).map fun ps => (t, r, ps)
  if v.state ≠ 1 then s
  else match inQ, inT with
    | some (q, r, ps), _ => (s.startGang l r.next ps).modCluster q fun a => { a with ranges := advanceRange k r a.ranges }
    | none, some (t, r, ps) => (s.startGang l r.next ps).modStk t fun a => { a with ranges := advanceRange k r a.ranges }
    | none, none => s

/-- Whether l numbers a launch-table entry. -/
def hasEntry (l : Nat) : Bool := l < 256

def execGangAdmit (l : Nat) (s : State) : Host.Outcome State Fault Refusal :=
  if hasEntry l then .next (gangAdmit s l) else .fault .noUnit

/-! Ranges (R334, R335). -/

/-- Indices of a launch's next range. -/
def Launch.rangeSize (v : Launch) : Nat :=
  let h := v.hdr
  if h.glev = 0 ∧ h.clev = 0 then min 16 (h.total - v.nhand)
  else if h.glev ≤ h.clev then h.groupSize h.clev
  else h.gang

/-- Whether a cluster is eligible for a launch's next range (R335). -/
def State.clusterEligible (s : State) (l q : Nat) : Bool :=
  let h := (s.launch l).hdr
  s.openCluster q && (if h.glev = 0 then !(s.freeCtxs h (coresOf q)).isEmpty else (s.clusterPlaces l q).isSome)

/-- The lowest-ranked of some clusters. -/
def State.lowest (s : State) (qs : List Nat) : Option Nat :=
  qs.foldl (fun a q => match a with
    | none => some q
    | some b => if (s.fuse q).rank < (s.fuse b).rank then some q else a) none

/-- The target of a launch's next range: a cluster, or a stack when its gangs need one. -/
def State.rangeTarget (s : State) (l : Nat) : Option Nat :=
  let h := (s.launch l).hdr
  if h.glev ≤ h.clev then s.lowest ((List.range 24).filter (s.clusterEligible l))
  else (s.lowest ((List.range 24).filter fun q => s.openCluster q && (s.stackPlaces l (q / 6)).isSome)).map (· / 6)

/-- Whether a launch has a range to hand and a target for it. -/
def State.canHand (s : State) (l : Nat) : Bool :=
  let v := s.launch l
  v.state == 1 && v.nhand < v.hdr.total && (s.rangeTarget l).isSome

/-- DISPATCH_RANGE: the next range of a launch is handed to its target, unless a launch that precedes it has one to hand. -/
def dispatchRange (s : State) (l : Nat) : State :=
  let v := s.launch l
  if !s.canHand l || s.pkg.launches.any (fun p => p.2.ahead v && s.canHand p.1) then s
  else
    let r : Range := { launch := l, next := v.nhand, last := v.nhand + v.rangeSize, gang := v.hdr.glev != 0 }
    let s1 := s.setLaunch l { v with nhand := v.nhand + v.rangeSize }
    match s.rangeTarget l with
    | none => s
    | some n =>
      if v.hdr.glev ≤ v.hdr.clev then s1.modCluster n fun q => { q with ranges := q.ranges ++ [r] }
      else s1.modStk n fun t => { t with ranges := t.ranges ++ [r] }

def execDispatchRange (l : Nat) (s : State) : Host.Outcome State Fault Refusal :=
  if hasEntry l then .next (dispatchRange s l) else .fault .noUnit

/-! Work taken by a context. -/

/-- A record found is taken; its launch is its pool's. -/
def State.takeRec (s : State) (c x pa : Nat) : State := s.take c x ((s.launchAt pa).getD 0) pa

/-- CONTEXT_TAKE_WORK. -/
def takeWork (s : State) (c x : Nat) : State :=
  if !s.idle c x || !s.inService c then s
  else
    match s.findWork c x with
    | none => s
    | some (.resume pa) =>
      (s.modStk (stackOf c) fun t => { t with resume := t.resume.filter (· != pa) }).takeRec c x pa
    | some (.deque d pa) => (s.setDeque d ((s.deque d).filter (· != pa))).takeRec c x pa
    | some (.root r n) =>
      (s.modCluster (clusterOf c) fun q => { q with ranges := advanceRange 1 r q.ranges }).startRoot r.launch r.next n (c, x)

def execContextTakeWork (c x : Nat) (s : State) : Host.Outcome State Fault Refusal :=
  if s.hasCore c ∧ x < 2 then .next (takeWork s c x) else .fault .noUnit

/-! Pre-emption (R124). -/

/-- What a launch waits for: the cores that could serve it and how many contexts it needs there; a gang that one cluster is to
hold waits at the distributor for contexts of the designated cluster (R102). -/
def State.wants (s : State) (l : Nat) : List (List Nat × Nat) :=
  let v := s.launch l
  let h := v.hdr
  let dom (pa : Nat) : List Nat :=
    let home := mget 0 s.home pa
    if s.recState pa = 2 then [home]
    else if h.clev = 0 then stackCores (stackOf home) else coresOf (clusterOf home)
  let mine (pa : Nat) : Bool := s.launchAt pa == some l
  ((List.range 4).flatMap fun t => (((s.stk t).resume.filter mine).map fun pa => (dom pa, 1)))
  ++ (s.cores.flatMap fun p => (((s.deque p.1).filter mine).map fun pa => (dom pa, 1)))
  ++ ((List.range 24).flatMap fun q =>
      ((s.cluster q).ranges.filter fun r => r.launch == l).map fun _ => (coresOf q, h.gang))
  ++ ((List.range 4).flatMap fun t =>
      ((s.stk t).ranges.filter fun r => r.launch == l).map fun _ => (stackCores t, h.gang))
  ++ (if v.state = 1 ∧ s.waitsAt v then
        match s.designatedCluster h with
        | some q =>
          if h.glev ≠ 0 ∧ h.glev ≤ h.clev then [(coresOf q, h.gang)]
          else [(((clustersOf (q / 6)).filter s.openCluster).flatMap coresOf, h.gang)]
        | none => []
      else [])

/-- How hard a context's strand is to displace: its priority, then gang members last. -/
def State.victimRank (s : State) (c x : Nat) : Nat :=
  match (s.ctx c x).strand with
  | none => 0
  | some st =>
    let h := s.hdrOf st
    2 * h.prio + (if h.glev != 0 && st.pjoin == 0 then 1 else 0)

/-- The contexts that a launch may displace among some cores. -/
def State.victims (s : State) (h : Header) (cs : List Nat) : List (Nat × Nat) :=
  (s.hostCtxs h cs).filter fun p =>
    !s.idle p.1 p.2 && s.victimRank p.1 p.2 < 2 * h.prio && (s.ctx p.1 p.2).preempt.isNone

/-- The contexts that a launch has asked for among some cores. -/
def State.askedFor (s : State) (l : Nat) (cs : List Nat) : List (Nat × Nat) :=
  (ctxsOf cs).filter fun p => (s.ctx p.1 p.2).preempt == some l

/-- The easiest of some victims. DESIGN CHOICE: of several that R124 does not tell apart the first in the order of cores and
contexts is taken (log 50). -/
def State.easiest (s : State) (ps : List (Nat × Nat)) : Option (Nat × Nat) :=
  ps.foldl (fun a p => match a with
    | none => some p
    | some b => if s.victimRank p.1 p.2 < s.victimRank b.1 b.2 then some p else a) none

/-- Of the contexts that a launch has asked for, those that it still needs: for each of its wants, as many as the idle contexts
there leave it short of. DESIGN CHOICE: of several the first in the order of cores and contexts stay asked for (log 50). -/
def State.stillAsked (s : State) (l : Nat) : List (Nat × Nat) :=
  let h := (s.launch l).hdr
  (s.wants l).flatMap fun w => (s.askedFor l w.1).take (w.2 - (s.freeCtxs h w.1).length)

/-- PREEMPT_REQUEST: requests of a launch that it needs no more are withdrawn, and one is made where it finds too few contexts
and a victim runs. -/
def preemptRequest (s : State) (l : Nat) : State :=
  let h := (s.launch l).hdr
  let unmet := (s.wants l).filter fun w => (s.freeCtxs h w.1).length < w.2
  let s1 := ((s.askedFor l (List.range 96)).filter fun p => !(s.stillAsked l).contains p).foldl
    (fun t p => t.modCtx p.1 p.2 fun k => { k with preempt := none }) s
  let short := unmet.filter fun w => (s.freeCtxs h w.1).length + (s.askedFor l w.1).length < w.2
  match short.findSome? fun w => s.easiest (s.victims h w.1) with
  | some (c, x) => s1.modCtx c x fun k => { k with preempt := some l }
  | none => s1

def execPreemptRequest (l : Nat) (s : State) : Host.Outcome State Fault Refusal :=
  if hasEntry l then .next (preemptRequest s l) else .fault .noUnit

end Sys2Proof.Machine
end

