-- ==== Sys2Proof/Machine/Stack.lean ====
section
/-! DEFINITION. The steps of clusters and stacks: rails (R310, R337, R371), TLB invalidation (R331), samples (R131, R376),
temperature and the governor (R372 to R375), ballast (R314) and the ramp limiter (R401, R402), telemetry (R404), slack
(R440), scrubbers (R350, R378), errors (R357, R366, R377) and failures (R356, R365, R379). -/

namespace Sys2Proof.Machine

/-- Whether the part has stack t. -/
def State.hasStack (s : State) (t : Nat) : Bool := s.hasCore (24 * t)

/-! The rail. -/

/-- CROSSING_RATIO_SWITCH (R371): the crossing has drained and the core goes on. -/
def execCrossingRatioSwitch (c : Nat) (s : State) : Host.Outcome State Fault Refusal :=
  if s.hasCore c then
    .next (if (s.core c).holdUntil ≤ s.now then s.modCore c fun k => { k with holdUntil := 0 } else s)
  else .fault .noUnit

/-- One code of a rising move, whose divisors change at its end (R310, R338). -/
def railUp (s : State) (q : Nat) : State :=
  let k := s.cluster q
  if k.vnow + 1 < k.vtgt then s.modCluster q fun k => { k with vnow := k.vnow + 1, railAt := s.now + 4000 }
  else s.modCluster q fun k => { k with vnow := k.vtgt, mstate := 2, divPend := true }

/-- One code of a falling move. -/
def railDown (s : State) (q : Nat) : State :=
  let k := s.cluster q
  if k.vnow ≤ k.vtgt + 1 then (s.modCluster q fun k => { k with vnow := k.vtgt }).endMove q
  else s.modCluster q fun k => { k with vnow := k.vnow - 1, railAt := s.now + 4000 }

/-- RAIL_CODE_STEP (R310, R337): one code per µs. -/
def execRailCodeStep (q : Nat) (s : State) : Host.Outcome State Fault Refusal :=
  if s.hasCluster q then
    let k := s.cluster q
    .next (if s.now < k.railAt then s
      else if k.mstate = 1 then railUp s q
      else if k.mstate = 3 then railDown s q
      else s)
  else .fault .noUnit

/-- Whether every core of a cluster has switched. -/
def State.divisorsDone (s : State) (q : Nat) : Bool :=
  !(s.cluster q).divPend && (coresOf q).all fun c => (s.core c).holdUntil == 0 && (s.core c).copyHold ≤ s.now

/-- RAIL_DIVISOR_DONE (R337): a rising move ends; another falls, at once when it has nothing to fall. -/
def execRailDivisorDone (q : Nat) (s : State) : Host.Outcome State Fault Refusal :=
  if s.hasCluster q then
    let k := s.cluster q
    .next (if k.mstate = 2 ∧ s.divisorsDone q then
        (if k.railAt ≠ 0 then s.endMove q
         else s.modCluster q fun k =>
           { k with mstate := 3, railAt := if k.vnow = k.vtgt then s.now + 1 else s.now + 4000 })
      else s)
  else .fault .noUnit

/-! TLB invalidation (R331). -/

/-- The largest page that a walk of a miss may find. -/
def Miss.widest (m : Miss) : TlbEnt :=
  { asid := m.asid, va := m.va / 2 ^ 30 * 2 ^ 30, size := 2 ^ 30, pa := 0, w := true, u := true, x := true }

/-- The entries that a condition holds of leave every TLB of a cluster, and the walks that could install one start again
(R331). -/
def State.invalidate (s : State) (q : Nat) (f : TlbEnt → Bool) : State :=
  let keep (l : List TlbEnt) : List TlbEnt := l.filter fun e => !f e
  let s0 : State :=
    { s with ctxs := s.ctxs.map fun p => if clusterOf (p.1 / 2) = q then (p.1, { p.2 with xl := keep p.2.xl }) else p }
  let s1 := s0.modCluster q fun k =>
    { k with tlb := keep k.tlb
             misses := k.misses.map fun m => if m.walking && f m.widest then { m with walking := false, again := true } else m }
  (coresOf q).foldl (fun t c => t.modCore c fun k =>
    { k with utlb := keep k.utlb, chans := k.chans.map fun p => (p.1, { p.2 with utlb := keep p.2.utlb, xl := keep p.2.xl }) }) s1

/-- Whether an entry covers an address of an address space. -/
def TlbEnt.covers (e : TlbEnt) (asid vpn : Nat) : Bool := e.asid == asid && e.va ≤ 4096 * vpn && 4096 * vpn < e.va + e.size

def execTlbInvAll (q : Nat) (s : State) : Host.Outcome State Fault Refusal :=
  if s.hasCluster q then .next (s.invalidate q fun _ => true) else .fault .noUnit

def execTlbInvAsid (q asid : Nat) (s : State) : Host.Outcome State Fault Refusal :=
  if s.hasCluster q then .next (s.invalidate q fun e => e.asid == asid) else .fault .noUnit

def execTlbInvPage (q asid vpn : Nat) (s : State) : Host.Outcome State Fault Refusal :=
  if s.hasCluster q then .next (s.invalidate q fun e => e.covers asid vpn) else .fault .noUnit

/-- The clusters of the part. -/
def State.clusterList (s : State) : List Nat := (List.range 24).filter s.hasCluster

/-- The step of a command of PKG.TLBINV, RANK.UPD or RW.CMD, by register index and value written; none where it has no
effect (R390, R426, R433). -/
def cmdStep (i : Nat) (w : BitVec 64) : Option CmdStep :=
  match i with
  | 0x430 =>
    if w.getLsbD 63 then some .tlbAll
    else if bitsOf w 60 51 ≠ 0 then none
    else if w.getLsbD 62 then some (.tlbAsid (bitsOf w 50 45))
    else some (.tlbPage (bitsOf w 50 45) (bitsOf w 44 0))
  | 0x541 => some (if w.getLsbD 62 then .rankAll else .rankOne (bitsOf w 9 0))
  | 0x543 =>
    match bitsOf w 7 6 with
    | 1 => some (.bind (bitsOf w 5 0))
    | 2 => some (.unbind (bitsOf w 5 0))
    | 3 => some (.snapshot (bitsOf w 5 0))
    | _ => none
  | _ => none

/-- Whether a command of a register is in progress: its BUSY. -/
def Pkg.busy (p : Pkg) (i : Nat) : Bool := p.cmds.any fun a => a.1 == i

/-- The command in progress of a register ends with its step. -/
def State.endCmd (s : State) (i : Nat) (step : CmdStep) : State :=
  match s.pkg.cmds.find? fun a => a.1 == i with
  | some a => if cmdStep a.1 a.2 = some step then s.modPkg fun p => { p with cmds := p.cmds.erase a } else s
  | none => s

def execPkgTlbinvAll (s : State) : Host.Outcome State Fault Refusal :=
  .next ((s.clusterList.foldl (fun t q => t.invalidate q fun _ => true) s).endCmd 0x430 .tlbAll)

def execPkgTlbinvAsid (asid : Nat) (s : State) : Host.Outcome State Fault Refusal :=
  .next ((s.clusterList.foldl (fun t q => t.invalidate q fun e => e.asid == asid) s).endCmd 0x430 (.tlbAsid asid))

def execPkgTlbinvPage (asid vpn : Nat) (s : State) : Host.Outcome State Fault Refusal :=
  .next ((s.clusterList.foldl (fun t q => t.invalidate q fun e => e.covers asid vpn) s).endCmd 0x430 (.tlbPage asid vpn))

/-! The governor (R373). -/

/-- STK.TMAX and COL.TEMP as registers (R380). -/
def Stack.tmaxReg (k : Stack) : Nat := k.tmaxCol * 2 ^ 24 + k.tmaxLayer * 2 ^ 16 + k.tmax
def Stack.colReg (k : Stack) (col : Nat) : Nat :=
  let p := mget (0, 0) k.colTemp col
  p.2 * 2 ^ 16 + p.1

/-- The thermal step that a temperature asks for. -/
def Stack.target (k : Stack) (t : Nat) : Nat := if t < k.t0 then 0 else min 7 ((t - k.t0) / k.govW + 1)

/-- The thermal step after a boundary. -/
def Stack.nextTstep (k : Stack) : Nat :=
  let tg := k.target k.tmax
  if k.tstep < tg then tg
  else if tg < k.tstep ∧ k.tmax + k.hyst < k.t0 + (k.tstep - 1) * k.govW then k.tstep - 1
  else k.tstep

/-- The step in force set, with its count and event. -/
def State.setGov (s : State) (t step : Nat) : State :=
  let k := s.stk t
  if k.govStep = step then s
  else
    (s.modStk t fun k => { k with govStep := step, nchg := min 255 (k.nchg + 1) }).post
      ⟨6, t, 0xFF, 0, BitVec.ofNat 64 k.govStep, BitVec.ofNat 64 step, BitVec.ofNat 64 k.tmaxReg, none⟩

/-- The governor at a sampling boundary. -/
def State.govBoundary (s : State) (t : Nat) : State :=
  let ts := (s.stk t).nextTstep
  (s.modStk t fun k => { k with tstep := ts }).setGov t (max ts (s.stk t).govMin)

/-- GOV_MIN_WRITE (R373): at once when it raises the step, else at the next boundary. -/
def execGovMinWrite (t : Nat) (v : BitVec 64) (s : State) : Host.Outcome State Fault Refusal :=
  if s.hasStack t then
    let m := bitsOf v 2 0
    let s1 := s.modStk t fun k => { k with govMin := m }
    .next (if (s.stk t).govStep < m then s1.setGov t m else s1)
  else .fault .noUnit

/-! Samples (R131, R376). -/

/-- One core's sample. -/
def Core.sample (k : Core) (seq vnow : Nat) : Core :=
  let w0 := k.mst % 2 ^ 32 * 2 ^ 32 + k.iss % 2 ^ 32
  let w1 := seq % 2 ^ 32 * 2 ^ 32 + vnow % 128 * 2 ^ 16 + k.divReg
  let e := (k.srPtr + 1) % 16
  { k with ring := mset e (BitVec.ofNat 64 w0, BitVec.ofNat 64 w1) k.ring, srPtr := e, iss := 0, mst := 0
           dstarveAt := k.dstarve }

/-- The STARVE event of a core's period (R131). -/
def State.starve (s : State) (c : Nat) : State :=
  let k := s.core c
  let d := k.dstarve - k.dstarveAt
  if k.dstarveThr ≠ 0 ∧ k.dstarveThr < d then s.post ⟨5, 0, c, 0, BitVec.ofNat 64 d, 0, 0, none⟩ else s

/-- SAMPLE_BOUNDARY (R131, R373, R376). -/
def execSampleBoundary (t : Nat) (s : State) : Host.Outcome State Fault Refusal :=
  if s.hasStack t then
    let seq := (s.stk t).seq
    let s1 := (stackCores t).foldl (fun a c =>
      (a.starve c).modCore c fun k => k.sample seq (s.cluster (clusterOf c)).vnow) s
    .next ((s1.modStk t fun k => { k with seq := (k.seq + 1) % 2 ^ 32 }).govBoundary t)
  else .fault .noUnit

/-! Ballast and the ramp limiter. -/

/-- A of the µs just ended (R314). -/
def Core.balAvg (k : Core) : Nat := if k.balCyc = 0 then 0 else k.balSum * 16 / k.balCyc

/-- BALLAST_FLOOR_UPDATE (R314). -/
def Core.floorUpdate (k : Core) : Core :=
  let a := k.balAvg
  let f0 := k.balF - k.dslew
  let f := if k.balMode = 2 then min 4095 (max f0 a) else f0
  { k with balF := f, balMode := if k.balMode = 1 ∧ f = 0 then 0 else k.balMode, balA := min 4095 a, balSum := 0
           balCyc := 0 }

def execBallastFloorUpdate (c : Nat) (s : State) : Host.Outcome State Fault Refusal :=
  if s.hasCore c then .next (s.modCore c Core.floorUpdate) else .fault .noUnit

/-- N of R401: clusters that have not failed, in released stacks. -/
def State.rampN (s : State) : Nat := (s.clusterList.filter fun q => s.inService (4 * q)).length

/-- UP and DN of R401, from RAMP.UP and RAMP.DOWN. -/
def rampStep (ramp n : Nat) : Nat := if ramp = 0 ∨ n = 0 then 0x1000 else max 1 (ramp / (25 * n))

/-- ILIM and DSLEW at a µs boundary (R402). -/
def Core.ilimUpdate (k : Core) (up dn : Nat) : Core :=
  { k with ilim := min 0x1000 (min (k.ilim + up) (max (k.ilim - dn) (k.iwinMax + up))), dslew := min 0xFFF (dn / 2)
           iwinMax := 0 }

/-- ILIM_UPDATE (R402). The SH-4896-S form has no ramp limiter (R382). -/
def execIlimUpdate (c : Nat) (s : State) : Host.Outcome State Fault Refusal :=
  if s.hasCore c then
    .next (match s.form with
      | .s => s
      | _ => s.modCore c fun k => k.ilimUpdate (rampStep s.pkg.rampUp s.rampN) (rampStep s.pkg.rampDown s.rampN))
  else .fault .noUnit

/-! Telemetry (R404). -/

/-- Sums of the freeze counters that telemetry reports. -/
def State.sumCur (s : State) : Nat := (s.cores.map fun p => p.2.frzCur + p.2.frzGov).sum
def State.sumHeat (s : State) : Nat := (s.ctxs.map fun p => p.2.frzHeat).sum

/-- Entries and records of a ring in memory (R398). -/
def Ring.size (r : Ring) : Nat := 2 ^ r.log2
def Ring.full (r : Ring) : Bool := r.size ≤ (r.prod + 65536 - r.cons) % 65536
def Ring.empty (r : Ring) : Bool := r.prod == r.cons

/-- The 32 bytes of a telemetry record; the powers are readings from outside (log 4). -/
def State.telRecord (s : State) : List (BitVec 8) :=
  let p := s.pkg
  let pw (i : Nat) : Nat := (Config.power (s.free + i)).toNat
  let gov := ((List.range 4).map fun t => (s.stk t).govStep % 16 * 16 ^ t).sum
  let ramp := pw 4 % 2 ^ 14 + (if p.telBallast then 2 ^ 14 else 0) + (if p.telLimited then 2 ^ 15 else 0)
  toBytes p.ptime 8 ++ (List.range 4).flatMap (fun i => toBytes (pw i) 2) ++ toBytes gov 2 ++ toBytes ramp 2
    ++ toBytes p.telSeq 4 ++ toBytes (min (2 ^ 32 - 1) ((s.sumCur : Int) - p.telCur).toNat) 4
    ++ toBytes (min (2 ^ 32 - 1) ((s.sumHeat : Int) - p.telHeat).toNat) 4

/-- A ring takes a record: its bytes, PROD, and the vector raised when it was empty. -/
def State.ringPut (s : State) (r : Ring) (n : Nat) (bs : List (BitVec 8)) (set : Ring → Pkg → Pkg) : State :=
  let s1 := s.wrBytes (r.base.toNat + n * (r.prod % r.size)) bs
  s1.modPkg fun p =>
    let q := set { r with prod := (r.prod + 1) % 65536 } p
    if r.empty then { q with msix := q.msix ++ [r.vec] } else q

/-- TELEMETRY_RECORD (R404). A ring that is not enabled takes no record. -/
def execTelemetryRecord (s : State) : Host.Outcome State Fault Refusal :=
  let r := s.pkg.tel
  let s1 :=
    if !r.en then s
    else if r.full then s.modPkg fun p => { p with telLost := p.telLost + 1, telSeq := (p.telSeq + 1) % 2 ^ 32 }
    else
      (s.ringPut r 32 s.telRecord fun a p => { p with tel := a }).modPkg fun p => { p with telSeq := (p.telSeq + 1) % 2 ^ 32 }
  .next ({ s1 with free := s1.free + 5 }.modPkg fun p =>
    { p with telCur := s.sumCur, telHeat := s.sumHeat, telLimited := false, telBallast := false })

/-! Slack (R438 to R440). -/

/-- f of a cluster's dwell period (R438). -/
def Cluster.slack (k : Cluster) : Nat := if k.heldCyc = 0 then 0 else min 1024 (k.slackCyc * 1024 / k.heldCyc)

/-- The update of a cluster at a dwell boundary (R440). -/
def Cluster.dwell (k : Cluster) (p : Pkg) (floor : Nat) : Cluster :=
  let f := k.slack
  if !p.slkEn then { k with slkF := f, slkA := 0, slkS := 0, slackCyc := 0, heldCyc := 0 }
  else
    let a := ((k.slkA : Int) + ((f : Int) - k.slkA) / 8).toNat
    let allow := if p.slkLo < a then min 7 ((a - p.slkLo) / p.slkPer) else 0
    let (st, plow) :=
      if 0 < k.slkS ∧ p.slkCur < k.slkPlow then (0, 0)
      else if allow < k.slkS then (allow, k.slkPlow)
      else if p.slkHi + p.slkDb < a ∧ k.slkS < allow ∧ !k.slkChg then (k.slkS + 1, p.slkCur)
      else if a + p.slkDb < p.slkHi ∧ 0 < k.slkS then (k.slkS - 1, k.slkPlow)
      else (k.slkS, k.slkPlow)
    { k with slkF := f, slkA := a, slkS := st, slkPlow := plow, slkChg := st != k.slkS, slackCyc := 0, heldCyc := 0
             vadv := max floor (p.slkVnom - st * p.slkDv) }

/-- SLKSTEP: the event of a change of S (R440). -/
def State.stepEvent (s : State) (q old new a : Nat) : State :=
  s.post ⟨0x45, q, 0xFF, 0, BitVec.ofNat 64 old, BitVec.ofNat 64 new, BitVec.ofNat 64 a, none⟩

/-- One cluster's dwell boundary, with the event of a change. -/
def State.dwellOne (s : State) (q : Nat) : State :=
  let k := s.cluster q
  let n := k.dwell s.pkg (s.fuse q).floor
  let s1 := s.modCluster q fun _ => n
  if n.slkS = k.slkS then s1
  else s1.stepEvent q k.slkS n.slkS n.slkA

/-- SLACK_DWELL (R440). -/
def execSlackDwell (s : State) : Host.Outcome State Fault Refusal :=
  .next ((s.clusterList.foldl State.dwellOne s).modPkg fun p => { p with slkLast := p.slkCur, slkCur := 0 })

/-! Failures. -/

/-- The launches with a strand placed in some cores: resident, on a deque, held by a dispatcher, or parked on a fault. -/
def State.launchesIn (s : State) (q : Nat) : List Nat :=
  let res := (coresOf q).flatMap fun c => [0, 1].filterMap fun x => (s.ctx c x).strand.map (·.launch)
  let deq := (coresOf q).flatMap fun c => (s.deque c).filterMap s.launchAt
  let disp := (s.cluster q).ranges.map (·.launch)
  let parked := (s.home.filter fun p => clusterOf p.2 == q && s.recState p.1 == 2).filterMap fun p => s.launchAt p.1
  (res ++ deq ++ disp ++ parked).eraseDups

/-- The requests in flight of a cluster's cores are each performed or discarded (R356): which, is open. The
entries that they leave are reserved for the requesters of other clusters (R293). -/
def State.looseEnds (s : State) (q : Nat) : State :=
  let mine (m : Msg) : Bool := clusterOf m.core == q && (m.op.plain || m.op.atUnit || (match m.op with
    | .accum _ => true
    | .exch => true
    | .phaseReport _ _ => true
    | .gred _ _ _ _ => true
    | _ => false))
  State.reserveAll
    { s with
      net := s.net.filter fun m => !mine m || (Config.choice (s.free + m.id) % 2 == 0 && m.st == .live)
      free := s.free + s.nextId
      units := s.units.map fun u =>
        let out (r : Nat) : Bool := if r < 192 then clusterOf (r / 2) == q else clusterOf ((r - 192) / 4) == q
        (u.1, { order := u.2.order.filter fun r => !out r, resv := u.2.resv.filter fun r => !out r.1 }) }

/-- The strands that stand in a cluster: resident, on its deques, or parked on a fault there. -/
def State.placedIn (s : State) (q : Nat) : List (Nat × Nat) :=
  let res := (coresOf q).flatMap fun c => [0, 1].filterMap fun x => (s.ctx c x).strand.map fun (st : Strand) => (st.launch, st.slot)
  let rec' (pa : Nat) : Option (Nat × Nat) := (s.launchAt pa).map fun l => (l, pa)
  res ++ ((coresOf q).flatMap s.deque).filterMap rec'
    ++ (s.home.filter fun p => clusterOf p.2 == q && s.recState p.1 == 2).filterMap fun p => rec' p.1

/-- Strands end in state 6, whatever became of their launches (R356). -/
def State.killPlaced (s : State) (ps : List (Nat × Nat)) : State := ps.foldl (fun t p => t.killOne p.1 p.2) s

/-- A cluster fails (R356). -/
def State.failCluster (s : State) (q cause : Nat) : State :=
  if (s.cluster q).failed then s
  else
    let s0 := s.modCluster q fun k => { k with failed := true, cause := cause % 256 }
    let s1 := ((s0.launchesIn q).foldl (fun t l => t.killLaunch l) s0).killPlaced (s0.placedIn q)
    let s2 := (coresOf q).foldl (fun t c => [0, 1, 2, 3].foldl (fun t ch => t.idleChan c ch) t) s1
    ((s2.looseEnds q).mcheckOpen (q / 6) 0xFF).post
      ⟨9, q / 6, 0xFF, 0, BitVec.ofNat 64 (q % 6), BitVec.ofNat 64 (cause % 256), 0, none⟩

/-- CLUSTER_FAIL. -/
def execClusterFail (q cause : Nat) (s : State) : Host.Outcome State Fault Refusal :=
  if s.hasCluster q then .next (s.failCluster q cause) else .fault .noUnit

/-- What a message at a failed stack comes to: an answer on its way back is lost, and the access completes poisoned; a waiter
goes on; a race report is lost. A request still to be performed finds the stack down (R379). -/
def State.lostAt (s : State) (t : Nat) (m : Msg) : State :=
  if stackOf m.core = t ∨ homeStack m.pa ≠ t then s
  else match m.st, m.op with
    | .replied _ _, _ => s.modMsg m.id fun a => { a with st := .replied 0 (some ⟨0x10, m.va⟩) }
    | .live, .bwait par => s.releaseWaiter m par false
    | _, .raceReport _ => s.dropMsg m.id
    | _, _ => s

/-- The messages of a stack's cores are discarded, but for the events and the ends of strands that it has posted, and so is what
others have at it (R379). -/
def State.discardAt (s : State) (t : Nat) : State :=
  let s1 : State := { s with net := s.net.filter fun m => stackOf m.core != t || (match m.op with
    | .event _ => true
    | .joinWord _ _ _ => true
    | _ => false) }
  s1.net.foldl (fun a m => a.lostAt t m) s1

/-- A stack fails at run time (R379). The cause code of its clusters is not stated (log 8). -/
def State.failStack (s : State) (t cause : Nat) : State :=
  if (s.stk t).failed then s
  else
    let s1 := s.modStk t fun k => { k with failed := true, cause := cause % 256, trip := k.trip || cause == 2 }
    let s2 := (clustersOf t).foldl (fun a q => let (v, a1) := a.freeVal; a1.failCluster q v.toNat) s1
    let ls := ((s2.stk t).ranges.map (·.launch) ++ (s2.stk t).resume.filterMap s2.launchAt).eraseDups
    let s3 := (ls.foldl (fun a l => a.killLaunch l) s2).killPlaced
      ((s2.stk t).resume.filterMap fun pa => (s2.launchAt pa).map fun l => (l, pa))
    ((s3.discardAt t).mcheckOpen t 0xFF).post ⟨10, t, 0xFF, 0, BitVec.ofNat 64 (cause % 256), 0, 0, none⟩

/-- STACK_FAIL. -/
def execStackFail (t cause : Nat) (s : State) : Host.Outcome State Fault Refusal :=
  if s.hasStack t then .next (s.failStack t cause) else .fault .noUnit

/-! Temperature (R372, R374, R375). -/

/-- The hottest reading of a column with its layer. -/
def hottest (ts : List Nat) : Nat × Nat := ts.zipIdx.foldl (fun a p => if a.1 < p.1 then p else a) (0, 0)

/-- A column's pause bit after a sample, with its event. -/
def State.pauseStep (s : State) (t col : Nat) : State :=
  let k := s.stk t
  let temp := (mget (0, 0) k.colTemp col).1
  let on := k.pause / 2 ^ col % 2 == 1
  let ev (b : Nat) (a : State) : State :=
    a.post ⟨7, t, 0xFF, 0, BitVec.ofNat 64 col, BitVec.ofNat 64 b, BitVec.ofNat 64 (k.colReg col), none⟩
  if !on && k.ttrip ≤ temp then ev 1 (s.modStk t fun k => { k with pause := k.pause + 2 ^ col })
  else if on && temp + k.hyst ≤ k.ttrip then ev 0 (s.modStk t fun k => { k with pause := k.pause - 2 ^ col })
  else s

/-- SENSOR_SAMPLE: `temps` holds the hottest of the sixteen readings of each layer, nine layers a column. -/
def execSensorSample (t : Nat) (temps : List Nat) (s : State) : Host.Outcome State Fault Refusal :=
  if s.hasStack t then
    let cols := (List.range 24).map fun c => (c, hottest ((List.range 9).map fun l => temps.getD (9 * c + l) 0 % 1024))
    let top := cols.foldl (fun a p => if a.2.1 < p.2.1 then p else a) (0, (0, 0))
    let s1 := s.modStk t fun k =>
      { k with colTemp := cols, tmax := top.2.1, tmaxCol := top.1, tmaxLayer := top.2.2 }
    let s2 := (List.range 24).foldl (fun a c => a.pauseStep t c) s1
    .next (if 460 ≤ top.2.1 then (s2.modStk t fun k => { k with trip := true }).failStack t 2 else s2)
  else .fault .noUnit

/-! Scrubbers and errors. -/

/-- STAMP_SCRUB_PASS (R350): the end of a pass. Stale stamps are cleared against the P recorded at its start, PASS becomes
P, and the next pass records its own. -/
def execStampScrubPass (t : Nat) (s : State) : Host.Outcome State Fault Refusal :=
  if s.hasStack t then
    let p (b : Nat) : Nat := mget 0 (s.stk t).scrubP b
    let stale (u : Nat × Nat × Nat) : Bool :=
      stackOf (u.1 / 2 ^ 20) == t && (let d := (p u.2.1 + 256 - u.2.2) % 256; 64 ≤ d && d < 128)
    let s1 := { s with stamps := s.stamps.filter fun u => !stale u }
    let s2 := (stackCores t).foldl (fun a c => a.modCore c fun k => { k with rgPass := p (c % 24) }) s1
    .next (s2.modStk t fun k => { k with scrubP := (List.range 24).map fun b => (b, (s.core (24 * t + b)).rgCur) })
  else .fault .noUnit

/-- PATROL_SCRUB (R378): word w of vault v. An error in it is corrected, or marks it poisoned with a machine check. -/
def execPatrolScrub (v w : Nat) (s : State) : Host.Outcome State Fault Refusal :=
  if s.hasCore v ∧ w < 2 ^ 23 then
    let pa := vaultPa v (8 * w)
    .next (match s.latent.find? fun p => p.1 == pa / 8 with
      | some (_, ue) =>
        let s1 := s.meet pa 8
        if ue then s1.mcheck (stackOf v) 0xFF 0 (ueMem pa) 4 else s1
      | none => s)
  else .fault .noUnit

/-- The location code of an error outside memory, whose form the manual does not state (log 8). -/
def State.countUeAt (s : State) (t space : Nat) : State :=
  let (v, s1) := s.freeVal
  s1.countUe t (BitVec.ofNat 64 (space * 2 ^ 62 + v.toNat % 2 ^ 62))

/-- Uncorrectable data in a register, which traps at consumption (R377). -/
def State.loseReg (s : State) (c x : Nat) (r : RegName) : State :=
  (s.modCtx c x fun k => { k with marks := mset r.key ⟨0x10, 0⟩ k.marks }).countUeAt (stackOf c) 1

/-- Uncorrectable data in the message buffers: an answer's or a write's data are poisoned, and so are the operand of a request
to an atomic unit and the bytes of a capture (R377). -/
def Msg.spoil (m : Msg) : Msg :=
  match m.st, m.op with
  | .replied v none, _ => { m with st := .replied v (some ⟨0x10, m.va⟩) }
  | .replied _ (some _), _ => m
  | _, .write bs _ => { m with op := .write bs true }
  | _, .atomic _ _ _ _ _ => { m with rot := true }
  | _, .vatom _ _ _ => { m with rot := true }
  | _, .accum _ => { m with rot := true }
  | _, .binit _ _ _ _ => { m with rot := true }
  | _, .capture _ _ => { m with rot := true }
  | _, _ => m

/-- A correctable error in a TLB entry or in the walker's state: the entry is discarded, or the walk starts again (R357). Which
of them it strikes is free. -/
def State.tlbError (s : State) (q : Nat) : State :=
  let k := s.cluster q
  let n := k.tlb.length
  let (i, s1) := s.pick (n + k.misses.length)
  s1.modCluster q fun k =>
    { k with tlb := k.tlb.eraseIdx i, tlberr := min (2 ^ 32 - 1) (k.tlberr + 1)
             misses := k.misses.zipIdx.map fun m => if n + m.2 = i then { m.1 with walking := false, again := m.1.walking || m.1.again } else m.1 }

/-- SOFT_ERROR (R357, R377): in memory an error waits to be read; in each other place it comes to what its reading would. -/
def softError (s : State) (p : Place) (ue : Bool) : State :=
  match p with
  | .vaultWord v w => { s with latent := mset (vaultPa v (8 * w) / 8) ue s.latent }
  | .memWord pa => { s with latent := mset (canonPa pa / 8) ue s.latent }
  | .scalar c x r => if ue then s.loseReg c x (.s r) else s.countCe (stackOf c)
  | .vector c x r => if ue then s.loseReg c x (.v r) else s.countCe (stackOf c)
  | .landing c x la =>
    if ue then
      (s.modCtx c x fun k => { k with la := mset la { (k.slot la) with mark := some ⟨0x10, 0⟩ } k.la }).countUeAt (stackOf c) 1
    else s.countCe (stackOf c)
  | .face c north l i =>
    if ue then
      (s.modCore c fun k => { k with faceMarks := mset (faceKey north l i) ⟨0x10, 0⟩ k.faceMarks }).countUeAt (stackOf c) 1
    else s.countCe (stackOf c)
  | .tile c t i =>
    if ue then (s.modCore c fun k => k.markElems t [i] ⟨0x10, 0⟩).countUeAt (stackOf c) 1 else s.countCe (stackOf c)
  | .chanBuf c ch =>
    if ue then (s.setChan c ch { (s.chan c ch) with bufBad := true }).countUeAt (stackOf c) 1 else s.countCe (stackOf c)
  | .stamp v u => { s with stamps := mdel (v * 2 ^ 20 + u) s.stamps }
  | .tlb q => if ue then s.failCluster q 3 else s.tlbError q
  | .mesh t m => if ue then (s.modMsg m Msg.spoil).countUeAt t 2 else s.countCe t

/-- Whether the part has a place. -/
def State.hasPlace (s : State) (p : Place) : Bool :=
  match p with
  | .vaultWord v w => s.hasCore v && w < 2 ^ 23
  | .memWord pa => isHbm pa
  | .scalar c x r => s.hasCore c && x < 2 && r < 64
  | .vector c x r => s.hasCore c && x < 2 && r < 2048
  | .landing c x la => s.hasCore c && x < 2 && la < 32
  | .face c _ l i => s.hasCore c && l < 8 && i < 32
  | .tile c t i => s.hasCore c && t < 17 && i < 16384
  | .chanBuf c ch => s.hasCore c && ch < 4
  | .stamp v u => s.hasCore v && u < 2 ^ 20
  | .tlb q => s.hasCluster q
  | .mesh t _ => s.hasStack t

def execSoftError (place : Place) (ue : Bool) (s : State) : Host.Outcome State Fault Refusal :=
  if s.hasPlace place then .next (softError s place ue) else .fault .noUnit

/-- The vertical buses of a stack: in each of its 24 columns one between each pair of its eleven dies (R366). Bus b is of column
b mod 24; those below 24 join the base die to the vault die. -/
def busCount : Nat := 24 * 10

/-- The bus of a lane. -/
def laneBus (lane : Nat) : Nat := Config.laneBus lane % busCount

/-- A poisoned flit of the bus between a base die and its vault die: a message to the column's vault or from it, a landing slot
whose data are on their way to the core, or a word on its way to the vault. -/
def State.poisonBase (s : State) (c : Nat) : State :=
  let ms := s.net.filter fun m => vaultOf m.pa == some c || m.core == c
  let ls := [0, 1].flatMap fun x => ((s.ctx c x).la.filter fun l => l.2.st == .pending).map fun l => (x, l.1)
  let (n, s1) := s.pick (ms.length + ls.length + 2 ^ 23)
  if n < ms.length then
    match ms[n]? with
    | some m => s1.modMsg m.id Msg.spoil
    | none => s1
  else if n < ms.length + ls.length then
    match ls[n - ms.length]? with
    | some (x, l) => s1.modCtx c x fun k => { k with la := mset l { (k.slot l) with mark := some ⟨0x10, 0⟩ } k.la }
    | none => s1
  else
    let pa := vaultPa c (8 * (n - ms.length - ls.length))
    if s1.shut pa then s1 else s1.setPoison pa 8

/-- A flit that failed its eighth retry in a row is delivered poisoned (R366): what it carried on its bus is free (log 93): on a
bus between array dies an element of a tile of the column, or 8 bytes of a face slice. -/
def State.poisonFlit (s : State) (t bus : Nat) : State :=
  let c := 24 * t + bus % 24
  if bus < 24 then (s.poisonBase c).countUeAt t 2
  else
    let (n, s1) := s.pick (17 * 16384 + 512)
    (s1.modCore c fun k =>
      if n < 17 * 16384 then k.markElems (n / 16384) [n % 16384] ⟨0x10, 0⟩
      else { k with faceMarks := mset (n - 17 * 16384) ⟨0x10, 0⟩ k.faceMarks }).countUeAt t 2

/-- VBUS_FLIT_RETRY (R366): a lane with sixteen retries within 1 ms is recorded in the flash repair map and waits for repair.
Whether the flit then passes is free; at its eighth retry in a row it is delivered poisoned. -/
def execVbusFlitRetry (t lane : Nat) (s : State) : Host.Outcome State Fault Refusal :=
  if s.hasStack t then
    let k := s.stk t
    let ts := ((mget [] k.laneRetries lane).filter fun a => s.now < a + 4000000) ++ [s.now]
    let run := mget 0 k.laneRun lane + 1
    let (n, s1) := s.pick 2
    let s2 := s1.modStk t fun k =>
      { k with retry := min (2 ^ 32 - 1) (k.retry + 1), laneRetries := mset lane ts k.laneRetries
               laneRun := mset lane (if n = 0 ∨ 8 ≤ run then 0 else run) k.laneRun, pending := k.pending || 16 ≤ ts.length }
    let old := mget [] s.flashLanes t
    let s3 : State :=
      if 16 ≤ ts.length ∧ !old.contains lane then { s2 with flashLanes := mset t (old ++ [lane]) s2.flashLanes } else s2
    .next (if 8 ≤ run then s3.poisonFlit t (laneBus lane) else s3)
  else .fault .noUnit

/-- A context with a running CUBE, or with a beat in the beat FIFO or the array, takes POISON at its next issue (R272, R365). -/
def State.poisonNext (s : State) (c x : Nat) : State :=
  let k := s.core c
  if (k.fifo.any fun b => b.x == x) || s.now < mget 0 k.arrayUntil x || k.seq.any fun q => q.d.x == x then
    s.modCtx c x fun k => if k.trapNext.isNone then { k with trapNext := some ⟨0x10, 3, 0⟩ } else k
  else s

/-- Every element of every tile is NaN (R365). -/
def Core.tilesNan (k : Core) : Core :=
  { k with elems := (List.range (17 * 16384)).map fun i => (i, { cls := 3, sig := 0 }) }

/-- LAYER_RUNTIME_FAIL (R365): the column's CUBE is abandoned (R272), and the next self-test finds the layer bad. -/
def execLayerRuntimeFail (c layer : Nat) (s : State) : Host.Outcome State Fault Refusal :=
  if s.hasCore c ∧ layer < 9 then
    let t := stackOf c
    let bit := 2 ^ (c % 24)
    let s1 := ((s.poisonNext c 0).poisonNext c 1).modCore c Core.tilesNan
    let s2 := (s1.stopCube c 0 0).stopCube c 1 0
    let bad := mget 0 s.badLayers c
    let s3 := { s2 with badLayers := mset c (if bad / 2 ^ layer % 2 = 1 then bad else bad + 2 ^ layer) s2.badLayers }.modStk t fun k => { k with rtFail := if k.rtFail / bit % 2 = 1 then k.rtFail else k.rtFail + bit }
    .next ((s3.mcheckOpen t c).post ⟨8, t, c, 0, BitVec.ofNat 64 (c % 24), BitVec.ofNat 64 layer, 0, none⟩)
  else .fault .noUnit

/-! The role swap (R132). -/

/-- SWAPREQ_WRITE: a request is pending until the lead's next CKPT. -/
def execSwapreqWrite (c : Nat) (s : State) : Host.Outcome State Fault Refusal :=
  if s.hasCore c then
    .next (s.modCore c fun k => if k.swapReq then k else { k with swapReq := true, swap := 1 })
  else .fault .noUnit

end Sys2Proof.Machine
end

