-- ==== Sys2Proof/Machine/Package.lean ====
section
/-! DEFINITION. The steps of the package: events (R398, R399), launch queues and admission (R393 to R397), features (R400), the
time counter (R403), the BXC (R405, R406), resets and bring-up (R364, R367, R369, R407, R408), and the bridge's trimmed
packets (R386). -/

namespace Sys2Proof.Machine

/-! Events. -/

/-- The 64 bytes of a record (R399). -/
def Event.bytes (e : Event) (time flags : Nat) : List (BitVec 8) :=
  toBytes time 8 ++ toBytes e.code 2 ++ toBytes e.sub 2 ++ toBytes e.core 1 ++ toBytes flags 1 ++ toBytes 0 2
    ++ toBytes e.a.toNat 8 ++ toBytes e.b.toNat 8 ++ toBytes e.c.toNat 8 ++ toBytes 0 24

/-- A record placed in the ring; a launch's entry falls free with its LDONE (R396, R398). -/
def State.placeEvent (s : State) (e : Event) : State :=
  let fl := e.flags + if s.pkg.evLost then 128 else 0
  let s1 := s.ringPut s.pkg.ev 64 (e.bytes s.pkg.ptime fl) fun r p => { p with ev := r, evLost := false }
  match e.launch with
  | some l => s1.freeLaunch l
  | none => s1

/-- Whether the ring takes a record. -/
def Ring.open (r : Ring) : Bool := r.en && !r.full

/-- Records that waited go into the ring while it takes them. -/
def State.drainEvents (s : State) : Nat → State
  | 0 => s
  | n + 1 =>
    match s.pkg.evBuf with
    | [] => s
    | e :: t => if s.pkg.ev.open then ((s.modPkg fun p => { p with evBuf := t }).placeEvent e).drainEvents n else s

/-- EVENT_BUFFER_DRAIN. -/
def execEventBufferDrain (s : State) : Host.Outcome State Fault Refusal := .next (s.drainEvents s.pkg.evBuf.length)

/-- A hardware event at the event unit: placed, kept in the buffer, or lost (R398). -/
def State.takeEvent (s : State) (e : Event) : State :=
  if s.pkg.evBuf.isEmpty && s.pkg.ev.open then s.placeEvent e
  else if s.pkg.evBuf.length < 256 then s.modPkg fun p => { p with evBuf := p.evBuf ++ [e] }
  else s.modPkg fun p => { p with evHw := (p.evHw + 1) % 2 ^ 32, evLost := true }

/-- Whether an earlier event of the same core is still on its way (R385). -/
def State.eventBehind (s : State) (m : Msg) : Bool :=
  (s.earlier m.id).any fun a => a.core == m.core && a.st == .live && (match a.op with
    | .event _ => true
    | _ => false)

/-- EVENT_POST: a hardware event, or an EVENT instruction's, which is answered 0 when placed and 1 when dropped. -/
def execEventPost (m : Nat) (s : State) : Host.Outcome State Fault Refusal :=
  match s.arrived m with
  | some a =>
    .next (if s.eventBehind a then s else match a.op, a.st, a.dest with
      | .event e, .live, .wait _ _ =>
        let s1 := s.drainEvents s.pkg.evBuf.length
        if s1.pkg.evBuf.isEmpty && s1.pkg.ev.open then (s1.placeEvent e).reply m 0 none
        else (s1.modPkg fun p => { p with evSw := (p.evSw + 1) % 2 ^ 32 }).reply m 1 none
      | .event e, .live, _ => ((s.dropMsg m).drainEvents s.pkg.evBuf.length).takeEvent e
      | _, _, _ => s)
  | none => .next s

/-! Launch queues. -/

/-- LQ_PROD_WRITE (R393). -/
def execLqProdWrite (q : Nat) (v : BitVec 64) (s : State) : Host.Outcome State Fault Refusal :=
  if q < 16 then
    let k := s.queue q
    let new := v.toNat % 65536
    .next (if (new + 65536 - k.cons) % 65536 ≤ k.size then s.setQueue q { k with prod := new }
      else s.post ⟨0x0C, q, 0xFF, 0, BitVec.ofNat 64 new, BitVec.ofNat 64 k.cons, 0, none⟩)
  else .fault .noUnit

/-- The queue served next: round robin among those enabled that hold an entry (R395). -/
def State.servedQueue (s : State) : Option Nat :=
  ((List.range 16).map fun i => (s.pkg.nextQueue + i) % 16).find? fun q => (s.queue q).en && (s.queue q).held != 0

/-- A launch-table entry that is free, and whose earlier launch has no strand left in its pool. -/
def State.freeEntry (s : State) : Option Nat :=
  (List.range 256).find? fun l => (s.launch l).state == 0 && (s.launch l).used.isEmpty

/-- A launch refused (R395): its event, and for a spawned one the fault update of its spawner's join word. -/
def State.refuseLaunch (s : State) (q check : Nat) (hdr tag : BitVec 64) (spawned : Bool) : State :=
  let s1 := s.post ⟨2, q, 0xFF, 0, hdr, BitVec.ofNat 64 check, tag, none⟩
  if spawned then
    s1.send { id := 0, core := 0xFF, x := 0, pa := tag.toNat % 2 ^ 52, va := 0, op := .joinWord true false [(255, 0)], dest := .none
              st := .live }
  else s1

/-- The windows of an address space whose tag an admission sets (R425). -/
def State.autoTag (s : State) (asid step0 : Nat) : State :=
  ((List.range 64).filter fun w => (s.rwin w).bound && (s.rwin w).autotag && (s.rwin w).asid == asid).foldl
    (fun t w => t.setStepTag w (BitVec.ofNat 16 step0)) s

/-- The entry at the head of a queue is read (R394, R395): the launch is admitted or refused. -/
def State.readQueue (s : State) (q l : Nat) : State :=
  let k := s.queue q
  let a := k.entryPa k.cons
  let w (o : Nat) : BitVec 64 := BitVec.ofNat 64 (s.rd (a + o) 8)
  let spawned := (w 24).getLsbD 63
  let asid := if spawned then bitsOf (w 24) 61 56 else k.asid
  let supv := if spawned then (w 24).getLsbD 62 else k.supv
  let s1 := (s.setQueue q { k with cons := (k.cons + 1) % 65536 }).modPkg fun p => { p with nextQueue := (q + 1) % 16 }
  match s.headerAt asid supv (w 0) with
  | none => s1.refuseLaunch q 7 (w 0) (w 16) spawned
  | some (pa, h) =>
    let bad := s.headerCheck asid h
    if bad ≠ 0 then s1.refuseLaunch q bad (w 0) (w 16) spawned
    else
      let v : Launch :=
        { state := 1, hdrPa := pa, arg := w 8, tag := w 16, nleft := h.total, spawned := spawned, supv := supv, asid := asid
          queue := q, hdr := h, poolPa := (s.poolOf asid h).getD 0, order := s.pkg.admitted, hdrVa := w 0 }
      ((s1.modPkg fun p => { p with admitted := p.admitted + 1 }).setLaunch l v).autoTag asid h.step0

/-- LQ_ENTRY_READ: nothing is read while all 256 entries are in use (R396). -/
def execLqEntryRead (q : Nat) (s : State) : Host.Outcome State Fault Refusal :=
  if q < 16 then
    .next (match s.freeEntry with
      | some l => if s.servedQueue = some q then s.readQueue q l else s
      | none => s)
  else .fault .noUnit

/-- PKG_KILL (R397). -/
def execPkgKill (v : BitVec 64) (s : State) : Host.Outcome State Fault Refusal :=
  .next (if bitsOf v 63 52 ≠ 0 then s
    else ((s.pkg.launches.filter fun p => p.2.state == 1 && p.2.hdrPa == v.toNat).map (·.1)).foldl
      (fun t l => t.killLaunch l) s)

/-- PKG_RESUME (R397): a strand in state 2 joins the resume list of the stack where it parked. -/
def execPkgResume (v : BitVec 64) (s : State) : Host.Outcome State Fault Refusal :=
  let pa := v.toNat
  let c := mget 0 s.home pa
  .next (if (s.launchAt pa).isSome && s.recState pa == 2 && (s.resident pa).isNone && !(s.stk (stackOf c)).resume.contains pa
    then s.pushResume c pa else s)

/-! Measurements, features and time. -/

/-- A measurement register extended with a digest (R405). -/
def State.extend (s : State) (i : Nat) (d : BitVec 512) : State :=
  s.modPkg fun p => { p with m := mset i (Config.shake256 (toBytes (mget 0 p.m i).toNat 64 ++ toBytes d.toNat 64)) p.m }

/-- M3 extended with a write whose image the manual does not lay out (log 8). -/
def State.measureWrite (s : State) : State :=
  { s with free := s.free + 8 }.extend 3 (Config.shake256 ((List.range 8).map fun i => Config.freeByte (s.free + i)))

/-- FEAT_EN_WRITE (R400, R405). -/
def execFeatEnWrite (n : Nat) (v : BitVec 64) (s : State) : Host.Outcome State Fault Refusal :=
  if n < 4 then
    let old := mget 0 s.pkg.featEn n
    .next (if v &&& ~~~(mget 0 s.pkg.featSup n) ≠ 0 ∨ s.pkg.launches.any (fun p => p.2.state == 1) then
        s.modPkg fun p => { p with featRefused := true }
      else
        s.measureWrite.modPkg fun p => { p with featEn := mset n v p.featEn, featChanged := p.featChanged || old != v })
  else .fault .noUnit

/-- PTIME_OFS_WRITE (R403): a positive offset at once, a negative one by slewing. -/
def execPtimeOfsWrite (v : BitVec 64) (s : State) : Host.Outcome State Fault Refusal :=
  .next (s.modPkg fun p =>
    if v.toInt < 0 then { p with ptimeSlew := p.ptimeSlew + v.toInt.natAbs }
    else { p with ptime := (p.ptime + v.toNat) % 2 ^ 64 })

/-- PTIME_CFG_WRITE (R403, R405). -/
def execPtimeCfgWrite (v : BitVec 64) (s : State) : Host.Outcome State Fault Refusal :=
  .next (s.measureWrite.modPkg fun p => { p with ptimeCfg := v.toNat &&& 0xF3, ptimeFree := false })

/-- PKG_ROOT_WRITE (R405, R410). -/
def execPkgRootWrite (n : Nat) (v : BitVec 64) (s : State) : Host.Outcome State Fault Refusal :=
  if n < 64 then .next (s.measureWrite.modPkg fun p => { p with roots := mset n (v &&& 0xFFFFFFFFFF001) p.roots })
  else .fault .noUnit

/-- Whether PTIME follows the event messages of a group (R403, R436). -/
def State.disciplines (s : State) (g : Nat) : Bool :=
  s.pkg.ptimeCfg % 4 == 2 && s.pkg.ptimeCfg / 16 == g && !s.pkg.ptimeFree && (s.group g).pers == 2 && (s.group g).state == 1

/-- IEEE1588_EVENT_MESSAGE (R403): the rate that the BXC firmware derives from the timestamp is not stated (log 8). -/
def execIeee1588EventMessage (g t : Nat) (s : State) : Host.Outcome State Fault Refusal :=
  if g < 16 then
    .next (if s.disciplines g then
        { s with free := s.free + t + 1 }.modPkg fun p =>
          { p with ptimeRate := ((Config.freeWord (s.free + t)).toNat % 1000001 : Nat) - (500000 : Int) }
      else s)
  else .fault .noUnit

/-! The BXC's commands (R406). -/

/-- A command block at a physical address whose command the BXC is busy with. -/
def State.bxcBusy (s : State) (pa cmd : Nat) : Bool := s.pkg.bxcReq == some pa && s.rd pa 1 == cmd

/-- The end of a command: 0 done, or an error code. -/
def State.bxcEnd (s : State) (stat : Nat) : State := s.modPkg fun p => { p with bxcReq := none, bxcStat := stat }

/-- An error code, 2 to 255 (log 8). -/
def State.bxcFail (s : State) : State :=
  { s with free := s.free + 1 }.bxcEnd (2 + (Config.bxcError s.free).toNat % 254)

/-- A response written from byte 64 of the block. -/
def State.respond (s : State) (pa : Nat) (bs : List (BitVec 8)) : State := (s.wrBytes (pa + 64) bs).bxcEnd 0

/-- The report of ATTEST. -/
def State.report (s : State) (pa : Nat) : List (BitVec 8) :=
  let p := s.pkg
  (List.range 4).flatMap (fun i => toBytes (mget 0 p.m i).toNat 64)
    ++ (List.range 4).flatMap (fun i => toBytes (mget 0 p.featSup i).toNat 8)
    ++ (List.range 4).flatMap (fun i => toBytes (mget 0 p.featEn i).toNat 8)
    ++ (List.range 4).map (fun t => BitVec.ofNat 8 (s.stk t).nlayers)
    ++ toBytes (s.rd (pa + 8) 32) 32

/-- Whether the BXC serves commands other than recovery: its firmware booted (R405). -/
def State.bxcUp (s : State) : Bool := 2 ≤ s.pkg.boot

def execAttest (pa : Nat) (s : State) : Host.Outcome State Fault Refusal :=
  .next (if !s.bxcBusy pa 1 then s
    else if !s.bxcUp then s.bxcFail
    else s.respond pa (s.report pa ++ (List.range 3309).map (Config.signature (mget 0 s.pkg.m 0) (s.report pa))))

def execIdent (pa : Nat) (s : State) : Host.Outcome State Fault Refusal :=
  .next (if !s.bxcBusy pa 2 then s
    else if !s.bxcUp then s.bxcFail
    else s.respond pa ((List.range 1952).map (Config.publicKey (mget 0 s.pkg.m 0)) ++ Config.certificate (mget 0 s.pkg.m 0)))

/-- The 32 bytes of a log entry: the time, then the fields of the event in the order of its record. -/
def McRec.bytes (r : McRec) : List (BitVec 8) :=
  toBytes r.time 8 ++ toBytes r.stack 2 ++ toBytes r.core 1 ++ toBytes r.flags 1 ++ toBytes r.cause 4 ++ toBytes r.a.toNat 8
    ++ toBytes r.seq 8

def execMclog (pa : Nat) (s : State) : Host.Outcome State Fault Refusal :=
  .next (if !s.bxcBusy pa 3 then s
    else if !s.bxcUp then s.bxcFail
    else s.respond pa (((s.pkg.mclog.filter fun r => s.rd (pa + 8) 8 ≤ r.seq).take 32).flatMap McRec.bytes))

/-- The Status response of a command that has ended. -/
def State.status (s : State) (pa : Nat) : State := s.wrBytes (pa + 64) (toBytes s.pkg.bxcStat 1)

/-- The bytes of an image. -/
def State.image (s : State) (pa n : Nat) : List (BitVec 8) := (List.range n).map fun i => s.mem.read (canonPa (pa + i))

/-- FWLOAD: an accepted image is measured in M2. It is the one command served in recovery (R405). DESIGN CHOICE: its Status is one
byte, the code that BXC.STAT shows (log 109). -/
def execFwload (pa : Nat) (s : State) : Host.Outcome State Fault Refusal :=
  .next (if !s.bxcBusy pa 4 then s
    else
      let im := s.image (s.rd (pa + 8) 8) (s.rd (pa + 16) 8)
      if !Config.imageAccepted im then s.bxcFail.status pa
      else ((s.extend 2 (Config.shake256 im)).bxcEnd 0).status pa)

/-! Resets (R369, R407). -/

/-- Memory that stands outside the package: the host's and what CXL devices hold. -/
def outside (pa : Nat) : Bool := isHost pa || isCxl pa

/-- A cold reset: everything but the fuses, the BXC's flash, and what is outside the package (R407). Time, the free values
taken and the packets sent go on. -/
def State.coldReset (s : State) : State :=
  { form := s.form, fuses := s.fuses, badLayers := s.badLayers, fusedLanes := s.fusedLanes, flashLanes := s.flashLanes
    now := s.now, inputs := s.inputs, free := s.free, nextId := s.nextId, mem := s.mem.filter fun p => outside p.1
    poison := s.poison.filter fun p => outside (8 * p.1), hostDone := s.hostDone
    pkg := { out := s.pkg.out, revision := s.pkg.revision }
    clusters := s.clusterList.map fun q => (q, { refBase := s.now }) }

/-- Memory of the vaults that a condition holds of, lost with their rail (R369, log 2). -/
def State.loseVaults (s : State) (f : Nat → Bool) : State :=
  let lost (pa : Nat) : Bool := match vaultOf pa with | some v => f v | none => false
  { s with mem := s.mem.filter fun p => !lost p.1, poison := s.poison.filter fun p => !lost (8 * p.1)
           latent := s.latent.filter fun p => !lost (8 * p.1) }

/-- Whether a reset of a stack keeps its vault rail up: DROPVAULT is 0, the rail is good, and it does not leave regulation
during the reset, which is free (R369, R379, log 4). -/
def State.keepsVault (s : State) (t : Nat) : Bool :=
  s.pkg.rstCfg % 2 == 0 && !((s.stk t).failed && (s.stk t).cause == 4) && Config.choice (s.free + t) % 2 == 0

/-- A stack's registers after a warm (1) or stack (2) reset: the self-test's results stay until it runs again (R380), a
run-time layer failure and the trip until a stack or cold reset (R365, R375). -/
def Stack.afterReset (k : Stack) (kind : Nat) (keep : Bool) : Stack :=
  { kind := kind, vaultKeep := keep, failed := k.failed, cause := k.cause, layerMap := k.layerMap, badMap := k.badMap
    nlayers := k.nlayers, rtFail := if kind = 1 then k.rtFail else 0, trip := kind == 1 && k.trip }

/-- A cluster's registers after a warm reset: FAILED and CAUSE stay (R328). -/
def Cluster.afterWarm (k : Cluster) (now : Nat) : Cluster := { failed := k.failed, cause := k.cause, refBase := now }

/-- A measurement register measured again from its reset value (R405, R407). -/
def remeasure (image : List (BitVec 8)) : BitVec 512 :=
  Config.shake256 (toBytes 0 64 ++ toBytes (Config.shake256 image).toNat 64)

/-- The package after a warm reset (R407), which repeats the bring-up from step 3. M0 and M1 are measured again; what M2 and
M3 measured stays (log 95). -/
def Pkg.afterWarm (p : Pkg) : Pkg :=
  { revision := p.revision, boot := min 2 p.boot, rstCfg := p.rstCfg, ptime := p.ptime, ptimeFrac := p.ptimeFrac, ptimeSlew := p.ptimeSlew
    ptimeCfg := p.ptimeCfg, ptimeAdj := p.ptimeAdj, ptimeRate := p.ptimeRate, ptimeFree := p.ptimeFree, telSeq := p.telSeq
    m := if p.boot < 2 then p.m else mset 0 (remeasure (Config.firmware 0)) (mset 1 (remeasure (Config.firmware 1)) p.m), mclog := p.mclog, mcSeq := p.mcSeq, out := p.out }

/-- A warm reset. -/
def State.warmReset (s0 : State) : State :=
  let s := ((s0.pkg.launches.filter fun p => p.2.state == 1).map (·.1)).foldl (fun t l => t.killLaunch l) s0
  let ts := (List.range 4).filter s.hasStack
  let s1 := s.loseVaults fun v => !s.keepsVault (stackOf v)
  { form := s.form, fuses := s.fuses, badLayers := s.badLayers, fusedLanes := s.fusedLanes, flashLanes := s.flashLanes
    now := s.now, inputs := s.inputs, free := s.free + 4, nextId := s.nextId, mem := s1.mem, poison := s1.poison
    latent := s1.latent, hostDone := s.hostDone
    clusters := s.clusterList.map fun q => (q, (s.cluster q).afterWarm s.now)
    stks := ts.map fun t => (t, (s.stk t).afterReset 1 (s.keepsVault t))
    pkg := s.pkg.afterWarm }

/-- The launches with a strand placed in a stack (R379). -/
def State.stackLaunches (s : State) (t : Nat) : List Nat :=
  (((s.stk t).ranges.map (·.launch)) ++ ((s.stk t).resume.filterMap s.launchAt)
    ++ (clustersOf t).flatMap s.launchesIn).eraseDups

/-- The counts that a reset of a stack takes from the sums of R404 stay in the interval's record. -/
def State.keepTel (s : State) (t : Nat) : State :=
  let mine (c : Nat) : Bool := stackOf c == t
  let cur : Nat := ((s.cores.filter fun p => mine p.1).map fun p => p.2.frzCur + p.2.frzGov).sum
  let heat : Nat := ((s.ctxs.filter fun p => mine (p.1 / 2)).map fun p => p.2.frzHeat).sum
  s.modPkg fun p => { p with telCur := p.telCur - cur, telHeat := p.telHeat - heat }

/-- A reset of one stack: its launches are killed and its messages discarded as on a failure (R379, R407). -/
def State.stackReset (s0 : State) (t : Nat) : State :=
  let s := (s0.stackLaunches t).foldl (fun a l => a.killLaunch l) s0
  let keep := s.keepsVault t
  let s1 := if keep then s else s.loseVaults fun v => stackOf v == t
  { (s1.discardAt t).keepTel t with
    stamps := []
    ctxs := s.ctxs.filter fun p => stackOf (p.1 / 2) != t
    cores := s.cores.filter fun p => stackOf p.1 != t
    clusters := (clustersOf t).foldl (fun m q => mset q { refBase := s.now } m) s.clusters
    stks := mset t ((s.stk t).afterReset 2 keep) s.stks
    home := s.home.filter fun p => stackOf p.2 != t
    free := s.free + 4 }

def execRstWarm (s : State) : Host.Outcome State Fault Refusal := .next s.warmReset

def execRstCold (s : State) : Host.Outcome State Fault Refusal := .next s.coldReset

/-- RST_STACK: of the last released stack, a warm reset. -/
def execRstStack (t : Nat) (s : State) : Host.Outcome State Fault Refusal :=
  if s.hasStack t then
    let others := (List.range 4).any fun u => u != t && (s.stk u).released
    .next (if (s.stk t).released && !others then s.warmReset else s.stackReset t)
  else .fault .noUnit

/-- POWER_ON (R407, R408). -/
def execPowerOn (s : State) : Host.Outcome State Fault Refusal := .next s.coldReset

/-- PERST (R407): by RST.CFG.PERSTCOLD. -/
def execPerst (s : State) : Host.Outcome State Fault Refusal :=
  .next (if s.pkg.rstCfg / 2 % 2 = 1 then s.coldReset else s.warmReset)

def execPcieHotReset (s : State) : Host.Outcome State Fault Refusal := .next s.warmReset

/-! Bring-up (R408). -/

/-- BXC_FIRMWARE_BOOT: steps 1 and 2. A refused image is not measured and leaves recovery alone to be served. -/
def execBxcFirmwareBoot (s : State) : Host.Outcome State Fault Refusal :=
  let rom := Config.firmware 0
  let ini := Config.firmware 1
  .next (if s.pkg.boot ≠ 0 then s
    else if !Config.imageAccepted rom then s.modPkg fun p => { p with boot := 1 }
    else
      let s1 := s.extend 0 (Config.shake256 rom)
      if !Config.imageAccepted ini then s1.modPkg fun p => { p with boot := 1 }
      else (s1.extend 1 (Config.shake256 ini)).modPkg fun p => { p with boot := 2 })

/-- Bad physical layers of a column, as bits of a nine-bit field. -/
def State.badIn (s : State) (c : Nat) : Nat := mget 0 s.badLayers c % 512
def badCount (b : Nat) : Nat := ((List.range 9).filter fun p => b / 2 ^ p % 2 == 1).length

/-- LAYERMAP.MAP of a column with n logical layers (R364). -/
def layerWord (bad n : Nat) : BitVec 32 :=
  let good := (List.range 9).filter fun p => bad / 2 ^ p % 2 == 0
  BitVec.ofNat 32 (((List.range 8).map fun l => (if l < n then good.getD l 15 else 15) * 16 ^ l).sum)

/-- A stack's failed lanes: the fused repair map merged with the BXC's flash copy (R367). -/
def State.badLanes (s : State) (t : Nat) : List Nat := (mget [] s.fusedLanes t ++ mget [] s.flashLanes t).eraseDups

/-- Failed lanes of a bus. -/
def busLoad (lanes : List Nat) (b : Nat) : Nat := (lanes.filter fun a => laneBus a == b).length

/-- LANE.STAT.SPARES: the fewest unused spare lanes on any bus (R380). -/
def spareLanes (lanes : List Nat) : Nat :=
  match (List.range busCount).map fun b => Config.busSpares b - busLoad lanes b with
  | [] => 0
  | n :: l => l.foldl min n % 256

/-- The cause that keeps a stack from release, 0 for none (R364, R367): three bad layers in a column, or a bus whose failed
lanes outnumber its spares. -/
def State.bootCause (s : State) (t : Nat) : Nat :=
  let lanes := s.badLanes t
  if 3 ≤ ((stackCores t).map fun c => badCount (s.badIn c)).foldl max 0 then 1
  else if lanes.any fun a => Config.busSpares (laneBus a) < busLoad lanes (laneBus a) then 3
  else 0

/-- STACK_BRINGUP: self-test and lane repair, once after each reset, of a stack that had failed too (R364, R380). The self-test
rewrites BAD and MAP whatever comes of it. One whose thermal trip is still asserted fails again with CAUSE 2 (R375), and a
stack that fails posts STKFAIL (R408). DESIGN CHOICE: MAP of a stack that f = 3 or more keeps from release names no layer (log
108). -/
def execStackBringup (t : Nat) (s : State) : Host.Outcome State Fault Refusal :=
  if s.hasStack t then
    let k := s.stk t
    let f := ((stackCores t).map fun c => badCount (s.badIn c)).foldl max 0
    let n := if 3 ≤ f then 0 else if f = 2 then 7 else 8
    let why := if k.trip then 2 else s.bootCause t
    .next (if s.pkg.boot < 2 ∨ k.tested ∨ k.released then s
      else
        let bad := (stackCores t).map fun c => (c % 24, s.badIn c)
        let s1 := s.modStk t fun k =>
          { k with tested := true, badMap := bad, layerMap := bad.map fun p => (p.1, layerWord p.2 n) }
        if why ≠ 0 then
          (s1.modStk t fun k => { k with failed := true, cause := why, nlayers := 0 }).post
            ⟨10, t, 0xFF, 0, BitVec.ofNat 64 why, 0, 0, none⟩
        else
          s1.modStk t fun k =>
            { k with failed := false, cause := 0, nlayers := n, softLanes := s.badLanes t, spares := spareLanes (s.badLanes t), repaired := true, pending := false })
  else .fault .noUnit

/-- The stacks of the part. -/
def State.stackList (s : State) : List Nat := (List.range 4).filter s.hasStack

/-- HBM_BRIDGE_TRAINING: step 4, once step 3 has ended in every stack. -/
def execHbmBridgeTraining (s : State) : Host.Outcome State Fault Refusal :=
  .next (if s.pkg.boot = 2 ∧ s.stackList.all (fun t => (s.stk t).tested) then
      s.modPkg fun p => { p with boot := 4 }
    else s)

/-- FEAT.SUP0 of the released stacks (R400). -/
def State.supported (s : State) : BitVec 64 :=
  if s.stackList.all fun t => !(s.stk t).released || (s.stk t).nlayers == 8 then 0x7F else 0x7D

/-- STACK_RELEASE: step 5 of a stack. -/
def execStackRelease (t : Nat) (s : State) : Host.Outcome State Fault Refusal :=
  if s.hasStack t then
    let k := s.stk t
    .next (if s.pkg.boot < 4 ∨ !k.repaired ∨ k.failed ∨ k.released then s
      else
        let s1 := s.modStk t fun k => { k with released := true, selftest := true, releasedAt := s.now, seq := 0 }
        s1.modPkg fun p => { p with featSup := mset 0 s1.supported p.featSup })
  else .fault .noUnit

/-- HOST_LINK_TRAINING: step 6, once every stack that can be has been released. -/
def execHostLinkTraining (s : State) : Host.Outcome State Fault Refusal :=
  .next (if s.pkg.boot = 4 ∧ s.stackList.all (fun t => (s.stk t).released || ((s.stk t).tested && (s.stk t).failed)) then
      s.modPkg fun p => { p with boot := 6, ready := true }
    else s)

/-! The bridge (R386). -/

/-- BRIDGE_TRIMMED_HEADER: the port asks for the packet again. -/
def execBridgeTrimmedHeader (m : Nat) (s : State) : Host.Outcome State Fault Refusal :=
  match s.msg m with
  | some a =>
    .next (if a.bridge.isNone ∨ s.pkg.brgHoles.any (fun h => h.1 == m) then s
      else s.modPkg fun p =>
        { p with brgTrim := p.brgTrim + 1, brgRx := (p.brgRx + 1) % 2 ^ 32, brgTx := (p.brgTx + 1) % 2 ^ 32
                 brgHoles := p.brgHoles ++ [(m, s.now)] })
  | none => .next s

/-- BRIDGE_RETRANSMISSION: the packet comes whole, and the messages held behind it go on. -/
def execBridgeRetransmission (m : Nat) (s : State) : Host.Outcome State Fault Refusal :=
  match s.pkg.brgHoles.find? fun h => h.1 == m with
  | some h =>
    .next (s.modPkg fun p =>
      { p with brgRetx := p.brgRetx + 1, brgHoles := p.brgHoles.filter (· != h), brgHole := min (2 ^ 32 - 1) (max p.brgHole ((s.now - h.2) / 4)) })
  | none => .next s

end Sys2Proof.Machine
end

