-- ==== Sys2Proof/Machine/Fabric.lean ====
section
/-! DEFINITION. The steps of the fabric: arrivals (R420 to R431), re-requests and retransmissions (R422, R423), ranks (R432 to
R435), receive-window commands (R425, R426, R428), and edge groups with their personalities (R411, R436, R437). -/

namespace Sys2Proof.Machine

/-! Arrivals. -/

/-- Whether packets from a rank are received: it is named, not fenced, of kind 0 or 1, and its group is up or has not yet
closed (R434, R436). -/
def State.receivable (s : State) (r : Nat) : Bool :=
  let k := s.rank r
  let g := s.group k.group
  k.v && !k.fenced && k.kind < 2 && (g.pers == 1 || g.pers == 2) && (g.state == 1 || g.state == 2 || g.state == 3)

/-- What every packet does on arrival (R439), and whether it is dropped because of its source (R413, R424, R434). -/
def State.arriving (s : State) (p : Packet) (f : State → State) : State :=
  let s1 := s.modPkg fun k => { k with slkCur := max k.slkCur (p.gstep % 8) }
  if !s.pkg.rankValid || !s.receivable p.src then s1.modPkg fun k => { k with fenceDrop := k.fenceDrop + 1 } else f s1

/-- Whether a message has been placed or completed before (R420). -/
def Pkg.knows (k : Pkg) (p : Packet) : Bool :=
  k.complete.contains (p.src, p.chan, p.msgid) || k.placed.any fun m => m.src == p.src && m.chan == p.chan && m.msgid == p.msgid

/-- Whether a message has arrived whole and waits to be placed. -/
def Pkg.holds (k : Pkg) (p : Packet) : Bool := k.waiting.any fun a => a.src == p.src && a.chan == p.chan && a.msgid == p.msgid

/-- A REREQ's earliest time after re-request k was answered by a trimmed packet (R422), in reference cycles. -/
def retrimWait (k : Nat) : Nat := 4 * min (200 * 2 ^ k) 12800

/-- A trimmed header makes a hole, or answers the re-request of one (R419, R422), unless its message has come whole. -/
def State.trimmed (s : State) (p : Packet) : State :=
  let s1 := s.modPkg fun k => { k with trimRx := k.trimRx + 1 }
  let asked := p.opc != 4 || s.pkg.sent.any fun m => m.opc == 3 && m.rank == p.src && m.chan == p.chan && m.msgid == p.msgid
  if !asked || (p.opc != 4 && s.pkg.holds p) then s1
  else if p.opc ≠ 4 ∧ s.pkg.knows p then s1.sendAck p.src p.chan p.msgid flagDup 0
  else match s.pkg.holeOf (p.opc == 4) p.src p.chan p.msgid with
    | some h =>
      let due := match h.due with | some t => t | none => s.now + retrimWait h.rereqs
      s1.modPkg fun k => { k with holes := k.holes.map fun a => if a = h then { a with due := some due, psn := p.psn } else a }
    | none =>
      let s2 := s1.modPkg fun k =>
        { k with holes := k.holes ++ [{ src := p.src, chan := p.chan, msgid := p.msgid, rwin := p.rwin % 64
                                        steptag := p.steptag % 65536, offset := p.offset, len := p.len, born := s.now
                                        rereqs := 0, due := some s.now, psn := p.psn
                                        resp := p.opc == 4 }] }
      if p.opc = 4 then s2 else s2.afterHole p.src p.chan

/-- An arriving WRITE or REDUCE (R420). -/
def State.takeMessage (s : State) (p : Packet) : State :=
  if hasFlag p flagTrim then s.trimmed p
  else if s.pkg.knows p then s.sendAck p.src p.chan p.msgid flagDup 0
  else if s.pkg.holds p then s.fillHole p
  else
    let s1 := s.fillHole p
    (if s1.pkg.behind p then s1.modPkg fun k => { k with waiting := k.waiting ++ [p] } else s1.takeOne p).afterHole p.src p.chan

/-- WRITE. -/
def execWrite (p : Packet) (s : State) : Host.Outcome State Fault Refusal :=
  .next (s.arriving p fun t => t.takeMessage { p with opc := 1 })

/-- REDUCE. A reduction code outside 1 to 5 is no reduction (R427): the message is placed as a write. -/
def execReduce (p : Packet) (s : State) : Host.Outcome State Fault Refusal :=
  let rop := if 1 ≤ p.rop ∧ p.rop ≤ 5 then p.rop else 0
  .next (s.arriving p fun t => t.takeMessage { p with opc := 2, rop := rop })

/-- The answer to a read of window bytes (R415): the data, or a refusal. -/
def State.answerRead (s : State) (p : Packet) : State :=
  let refuse (t : State) (r : Nat) : State := (t.refuse p r).sendAck p.src p.chan p.msgid flagRefuse r
  match s.judge p 0 false with
  | .late => s
  | .refuse r => refuse s r
  | .ok ps =>
    let s1 := ps.foldl (fun t q => t.meet q.2 q.1.n) s
    if ps.any fun q => s1.poisoned q.2 q.1.n then refuse s1 5
    else
      s1.sendPacket { p with opc := 4, flags := 0, dst := p.src, payload := ps.flatMap fun q => toBytes (s1.rd q.2 q.1.n) q.1.n }

/-- READ: answered at once, which is its completion; messages of its channel whose turn waited for it go on. -/
def execRead (p : Packet) (s : State) : Host.Outcome State Fault Refusal :=
  .next (s.arriving p fun t =>
    ((t.answerRead p).modPkg fun k => k.completeId p.src p.chan p.msgid).afterHole p.src p.chan)

/-- The unacknowledged message that an answer from a rank names. -/
def Pkg.sentTo (k : Pkg) (p : Packet) (read : Bool) : Option SentMsg :=
  k.sent.find? fun m => m.rank == p.src && m.chan == p.chan && m.msgid == p.msgid && (m.opc == 3) == read

/-- A message leaves the unacknowledged ones. -/
def State.unsend (s : State) (m : SentMsg) : State := s.modPkg fun k => { k with sent := k.sent.filter (· != m) }

/-- READRESP (R415): the data of a load arrive; of an LDA as an acquire (R342, R351). -/
def execReadresp (p : Packet) (s : State) : Host.Outcome State Fault Refusal :=
  .next (s.arriving p fun t =>
    if hasFlag p flagTrim then t.trimmed p
    else match t.pkg.sentTo p true with
      | none => t
      | some m =>
        let t1 := (t.fillHole p).unsend m
        match m.req with
        | some r =>
          let t2 := match t1.msg r with
            | some a => if a.acq then t1.acquireAll a.core else t1
            | none => t1
          t2.reply r (BitVec.ofNat 2048 (ofBytes (p.payload.take 256))) none
        | none => t1)

/-- The core and channel of a copy channel's CHAN (R417). -/
def SentMsg.owner (m : SentMsg) : Nat × Nat := (m.chan / 4, m.chan % 4)

/-- A store or read that cannot be completed: dropped with its reason, or poisoned (R415). -/
def State.failRequest (s : State) (m : SentMsg) (why : Nat) : State :=
  match m.req with
  | some r => match s.msg r with
    | some a => if m.opc = 3 then s.loseRead a why else s.dropStore a why
    | none => s
  | none => s

/-- A message that fails for good: its channel halts, or its context's request fails (R415, R423, R426). -/
def State.failMessage (s : State) (m : SentMsg) (code why : Nat) : State :=
  let s1 := s.unsend m
  match m.req with
  | some _ => s1.failRequest m why
  | none => s1.chanMsgFault m.owner.1 m.owner.2 m.msgid code 1 (BitVec.ofNat 64 m.offset)

/-- An acknowledgement reaches the sender (R421, R426, R428, R431). -/
def State.acknowledged (s : State) (p : Packet) (m : SentMsg) : State :=
  if hasFlag p flagRefuse then s.failMessage m 9 2
  else if m.opc = 3 then s
  else if hasFlag p flagIncomplete then s.failMessage m 0x83 3
  else
    let s1 := s.unsend m
    match m.req with
    | some r => s1.dropMsg r
    | none => s1.chanAcked m.owner.1 m.owner.2 m.msgid

/-- ACK. -/
def execAck (p : Packet) (s : State) : Host.Outcome State Fault Refusal :=
  .next (s.arriving p fun t =>
    let t1 := if hasFlag p flagLate then t.modPkg fun k => { k with lateAck := k.lateAck + 1 } else t
    match t1.pkg.sentTo p false with
    | some m => t1.acknowledged p m
    | none => match t1.pkg.sentTo p true with
      | some m => t1.acknowledged p m
      | none => t1)

/-! Retransmission (R422, R423). -/

/-- Where the source bytes of a copy channel's message stand now (R242); none where a translation has gone, or of a context's
message. -/
def State.rereadParts (s : State) (m : SentMsg) : Option (List (Piece × Nat)) :=
  m.src.bind fun a =>
    let c := m.owner.1
    let x := (s.chan c m.owner.2).owner
    let ps := sidePieces m.vault a m.len
    if m.vault then some (ps.map fun p => (p, vaultPiecePa c p))
    else ps.mapM fun p =>
      ((s.lookup (s.asid c x) (s.supv c x) false p.ea).filter fun pa => !isFabric pa && !isReg pa).map fun pa => (p, pa)

/-- The bytes of a sent message read again, or the fault of that read with its first byte: poison or a race of the source (R240,
R246); what was first read where its source can no longer be reached. -/
def State.reread (s : State) (m : SentMsg) : State × Except (Nat × BitVec 64) (List (BitVec 8)) :=
  match s.rereadParts m with
  | none => (s, .ok m.data)
  | some ps =>
    let s1 := ps.foldl (fun t p => t.meet p.2 p.1.n) s
    match ps.find? fun p => s1.poisoned p.2 p.1.n, ps.find? fun p => s1.racy m.owner.1 p.2 p.1.n with
    | some p, _ => (s1, .error (0x10, s1.badByte p))
    | none, some p => (s1.countRace m.owner.1, .error (0x0B, p.1.ea))
    | none, none => (s1, .ok (ps.flatMap fun p => toBytes (s1.rd p.2 p.1.n) p.1.n))

/-- A message sent again (R422, R423) under the entry it was sent under (R433), counted for its package and its channel (R424).
Without a rank of its own the package refuses it (R413). A source that faults halts the channel (R246). -/
def State.resend (s : State) (m : SentMsg) (tries : Nat) : State :=
  if !s.pkg.rankValid then s.failMessage m 0x81 1
  else
    match s.reread m with
    | (s0, .error (code, a)) => (s0.unsend m).chanMsgFault m.owner.1 m.owner.2 m.msgid code 0 a
    | (s0, .ok d) =>
      let port := s0.portVia m.via
      let m1 : SentMsg := { m with data := d, sentAt := s.now, tries := tries, psn := s0.pkg.nextPsn port }
      let s1 := (s0.sendPacketVia (m1.packet d) port).modPkg fun k =>
        { k with sent := k.sent.map fun a => if a = m then m1 else a, retx := k.retx + 1 }
      if m.req.isSome then s1
      else
        let h := s1.chan m.owner.1 m.owner.2
        s1.setChan m.owner.1 m.owner.2 { h with trims := h.trims + 1 }

/-- REREQ: an unacknowledged message is sent again; a READRESP is answered anew. -/
def execRereq (p : Packet) (s : State) : Host.Outcome State Fault Refusal :=
  .next (s.arriving p fun t =>
    let t1 := t.modPkg fun k => { k with rereqRx := k.rereqRx + 1 }
    match t1.pkg.sentTo p false with
    | some m =>
      if p.chan < 512 ∨ m.psn = p.psn then t1.resend m m.tries
      else (t1.answerRead { p with opc := 3, flags := 0 }).modPkg fun k => { k with retx := k.retx + 1 }
    | none =>
      if p.chan < 512 then t1
      else (t1.answerRead { p with opc := 3, flags := 0 }).modPkg fun k => { k with retx := k.retx + 1 })

/-- The oldest hole of a peer whose next re-request is due. -/
def Pkg.dueHole (k : Pkg) (r now : Nat) : Option Hole :=
  (k.holes.filter fun h => h.src == r && (match h.due with
    | some t => t ≤ now
    | none => false)).foldl (fun a h => match a with
      | none => some h
      | some b => if h.born < b.born then some h else a) none

/-- REREQ_SEND (R422): at most one in any 200 ns per peer. -/
def execRereqSend (r : Nat) (s : State) : Host.Outcome State Fault Refusal :=
  if r < 1024 then
    .next (if !s.pkg.rankValid || s.now < mget 0 s.pkg.rereqAt r then s
      else match s.pkg.dueHole r s.now with
        | none => s
        | some h =>
          (s.sendPacket { opc := 6, flags := 0, gstep := 0, rop := 0, rwin := h.rwin, src := 0, dst := r, chan := h.chan
                          msgid := h.msgid, psn := h.psn, len := h.len, steptag := h.steptag, offset := h.offset, reason := 0
                          payload := [], bitmap := 0 }).modPkg fun k =>
            { k with holes := k.holes.map fun a => if a = h then { a with due := none, rereqs := a.rereqs + 1 } else a
                     rereqAt := mset r (s.now + 800) k.rereqAt, rereqTx := k.rereqTx + 1 })
  else .fault .noUnit

/-- TRIMMED_HEADER. -/
def execTrimmedHeader (p : Packet) (s : State) : Host.Outcome State Fault Refusal := .next (s.arriving p fun t => t.trimmed p)

/-- Whether an earlier message of the same copy channel is unacknowledged: its time comes first (R247). -/
def Pkg.notFirst (k : Pkg) (m : SentMsg) : Bool :=
  m.req.isNone && k.sent.any fun a => a.chan == m.chan && a.rank == m.rank && a.req.isNone && idBefore a.msgid m.msgid

/-- RTO_EXPIRE: of the message at place i of those unacknowledged. -/
def execRtoExpire (i : Nat) (s : State) : Host.Outcome State Fault Refusal :=
  match s.pkg.sent[i]? with
  | none => .next s
  | some m =>
    .next (if s.now < m.sentAt + 4000 * s.pkg.rto then s
      else if m.tries < s.pkg.retries then s.resend m (m.tries + 1)
      else if s.pkg.notFirst m then s
      else s.failMessage m 0x83 3)

/-! In-switch reduction (R430, R431). -/

/-- RESULT: placed as a write, and complete on placement. -/
def State.takeResult (s : State) (p : Packet) : State :=
  if hasFlag p flagTrim then s.trimmed p
  else if s.pkg.knows p then s.sendAck p.src p.chan p.msgid flagDup 0
  else
    let (s1, m) := (s.fillHole p).takeArrival p 0
    s1.completeOne m

def execResult (p : Packet) (s : State) : Host.Outcome State Fault Refusal := .next (s.arriving p fun t => t.takeResult p)

/-- Bits set. -/
def popCount (v : BitVec 256) : Nat := ((List.range 256).filter fun i => v.getLsbD i).length

/-- RESULT_INCOMPLETE: nothing is placed; the window notes who contributed, and a hole that the message had ends (R422). -/
def State.takeIncomplete (s0 : State) (p : Packet) : State :=
  let s := s0.fillHole p
  let w := p.rwin % 64
  let k := s.rwin w
  if !k.bound || !k.en then (s.refuse p 1).sendAck p.src p.chan p.msgid flagRefuse 1
  else if k.tagchk && p.steptag % 65536 != k.steptag.toNat then (s.countLate p).sendAck p.src p.chan p.msgid flagLate 0
  else
    ((s.modWin w fun k => { k with incomplete := true, cbmp := k.cbmp &&& p.bitmap }).rwStore w).post
      ⟨0x41, w, 0xFF, 0, BitVec.ofNat 64 (p.steptag % 65536), BitVec.ofNat 64 (popCount p.bitmap), BitVec.ofNat 64 p.src, none⟩

def execResultIncomplete (p : Packet) (s : State) : Host.Outcome State Fault Refusal :=
  .next (s.arriving p fun t => t.takeIncomplete p)

/-! Receive-window commands (R425, R426). -/

/-- RW_BIND: bytes 0 to 25 of the entry are read; the tag is written as R428 gives. -/
def execRwBind (w : Nat) (s : State) : Host.Outcome State Fault Refusal :=
  if w < 64 then
    let a := s.pkg.rwBase.toNat + 64 * w
    let cfg := s.rd (a + 8) 8
    let tag := BitVec.ofNat 16 (s.rd (a + 24) 2)
    .next ((s.modWin w fun k =>
      { k with bound := true, base := BitVec.ofNat 64 (s.rd a 8), en := cfg / 2 ^ 63 % 2 == 1, autotag := cfg / 2 ^ 47 % 2 == 1
               tagchk := cfg / 2 ^ 46 % 2 == 1, asid := cfg / 2 ^ 40 % 64, size := cfg % 2 ^ 40
               caddr := BitVec.ofNat 64 (s.rd (a + 16) 8), wlate := 0 }).setStepTag w tag |>.endCmd 0x543 (.bind w))
  else .fault .noUnit

/-- RW_UNBIND. -/
def execRwUnbind (w : Nat) (s : State) : Host.Outcome State Fault Refusal :=
  if w < 64 then .next ((s.modWin w fun k => { k with bound := false }).endCmd 0x543 (.unbind w)) else .fault .noUnit

/-- RW_SNAPSHOT. -/
def execRwSnapshot (w : Nat) (s : State) : Host.Outcome State Fault Refusal :=
  if w < 64 then .next ((s.rwStore w).endCmd 0x543 (.snapshot w)) else .fault .noUnit

/-! Ranks (R432 to R435). -/

/-- A rank entry in memory (R432). -/
def State.rankEntry (s : State) (r : Nat) : Rank :=
  let a := s.pkg.rankBase.toNat + 16 * r
  let lo := s.rd a 8
  { ncontrib := s.rd (a + 8) 1, v := lo / 2 ^ 63 % 2 == 1, fenced := lo / 2 ^ 62 % 2 == 1, kind := lo / 2 ^ 60 % 4
    group := lo / 2 ^ 56 % 16, port := lo / 2 ^ 55 % 2, peer := lo % 2 ^ 48 }

/-- All receiver state for a rank is discarded (R435). -/
def Pkg.forget (p : Pkg) (r : Nat) : Pkg :=
  { p with holes := p.holes.filter fun h => h.src != r, placed := p.placed.filter fun h => h.src != r
           complete := p.complete.filter fun h => h.1 != r, waiting := p.waiting.filter fun h => h.src != r
           due := p.due.filter fun h => h.1 / 1024 != r, anew := r :: p.anew.filter (· != r) }

/-- An entry loaded: a rank that becomes unreachable is lost next (R434). -/
def State.loadRank (s : State) (r : Nat) : State :=
  let old := s.rank r
  let new := s.rankEntry r
  let s1 := s.modPkg fun p =>
    { p with rankTab := mset r new p.rankTab
             holeMax := holeAge s.now (p.holes.filter fun h => h.src == r && { old with ncontrib := new.ncontrib } != new)
               p.holeMax }
  let s2 := if { old with ncontrib := new.ncontrib } = new then s1 else s1.modPkg fun p => p.forget r
  if !s.unreachable r && s2.unreachable r then 
    { s2 with agenda := s2.agenda ++ [.ranklost r
        (if !new.v || new.fenced || 2 ≤ new.kind then 1 else if (s2.group new.group).state = 6 then 2 else 3)] }
  else s2

/-- RANK_UPD_ALL and RANK_UPD_ONE (R433). -/
def execRankUpdAll (s : State) : Host.Outcome State Fault Refusal := .next (((List.range 1024).foldl State.loadRank s).endCmd 0x541 .rankAll)

def execRankUpdOne (r : Nat) (s : State) : Host.Outcome State Fault Refusal :=
  if r < 1024 then .next ((s.loadRank r).endCmd 0x541 (.rankOne r)) else .fault .noUnit

/-- The event of a rank that has become unreachable (R434). -/
def State.loseRank (s : State) (r why : Nat) : State :=
  s.post ⟨0x43, (s.rank r).group, 0xFF, 0, BitVec.ofNat 64 r, BitVec.ofNat 64 why, 0, none⟩

/-- The messages that were sent over a group and are not acknowledged: each under the entry it was sent under (R433). -/
def State.sentOver (s : State) (g : Nat) : List SentMsg := s.pkg.sent.filter fun m => m.via.group == g

/-- They fail. -/
def State.failOver (s : State) (g code why : Nat) : State :=
  (s.sentOver g).foldl (fun t m => if t.pkg.sent.contains m then t.failMessage m code why else t) s

/-- The ranks that a group carries. -/
def State.carried (s : State) (g : Nat) : List Nat :=
  (s.pkg.rankTab.filter fun p => p.2.group == g && p.2.v && !p.2.fenced && p.2.kind < 2).map (·.1)

/-- Whether a group has a fabric link: open, or not yet closed by a switch (R436). -/
def Group.linked (g : Group) : Bool := (g.pers == 1 || g.pers == 2) && (g.state == 1 || g.state == 2 || g.state == 3)

/-- A fabric link down: its group leaves service with every rank it carries, and what was sent over it fails with LINK
(R434). -/
def State.linkDown (s : State) (g : Nat) : State :=
  let s1 := s.modPkg fun p => { p with groups := mset g { s.group g with state := 6 } p.groups }
  ((s.carried g).foldl (fun t q => t.loseRank q 2) s1).failOver g 0x81 1

/-- The first byte of a side of a running channel's present iteration that lies in a CXL group's window, at or above an offset
there (R437). -/
def State.cxlSide (s : State) (c ch g from' side : Nat) : Option (BitVec 64) :=
  let h := s.chan c ch
  let a := if side = 1 then h.dstAddr else h.srcAddr h.entry
  let vault := if side = 1 then h.dsp != 0 else h.ssp == 1
  if h.state ≠ 1 ∨ h.spent ∨ vault then none
  else ((sidePieces false a h.len).findSome? fun p =>
    match s.lookup (s.asid c h.owner) true false p.ea with
    | some pa =>
      if isCxl pa && cxlGroup pa == g && from' < cxlOff pa + p.n then
        some (p.ea + BitVec.ofNat 64 (from' - cxlOff pa))
      else none
    | none => none)

/-- Every channel of the part. -/
def State.allChans (s : State) : List (Nat × Nat) := s.cores.flatMap fun p => p.2.chans.map fun q => (p.1, q.1)

/-- A CXL link down: its channels halt with LINK, and its window is closed (R437). -/
def State.loseCxl (s : State) (g : Nat) : State :=
  let s1 := s.allChans.foldl (fun t p =>
    match t.cxlSide p.1 p.2 g 0 0, t.cxlSide p.1 p.2 g 0 1 with
    | some a, _ => t.chanFault p.1 p.2 0x81 0 a
    | none, some a => t.chanFault p.1 p.2 0x81 1 a
    | none, none => t) s
  (s1.modPkg fun p => { p with groups := mset g { s.group g with state := 6 } p.groups }).post
    ⟨0x43, g, 0xFF, 0, 0x3FF, 2, 0, none⟩

/-- RANKLOST (R434, R437): a link down (2), or the event of a rank that a reload (1, 2, 3) or a closing group (3) has made
unreachable. From 1,024 on, r numbers a CXL group's link. -/
def execRanklost (r why : Nat) (s : State) : Host.Outcome State Fault Refusal :=
  if r < 1024 then
    let g := (s.rank r).group
    .next (if why = 2 ∧ (s.group g).linked then s.linkDown g else if s.unreachable r then s.loseRank r why else s)
  else if r < 1040 then .next (if (s.group (r - 1024)).pers = 3 ∧ (s.group (r - 1024)).state = 1 then s.loseCxl (r - 1024) else s)
  else .fault .noUnit

/-- CXL_WRITE_FAIL (R437): the lowest refused offset becomes LIMIT, and channels at or past it halt with FULL. -/
def execCxlWriteFail (g off : Nat) (s : State) : Host.Outcome State Fault Refusal :=
  if g < 16 then
    let s1 := s.allChans.foldl (fun t p =>
      match t.cxlSide p.1 p.2 g off 1 with
      | some a => t.chanFault p.1 p.2 0x82 1 a
      | none => t) s
    .next (s1.modPkg fun p =>
      { p with groups := mset g { s.group g with limit := min (s.group g).limit (off % 2 ^ 44) } p.groups })
  else .fault .noUnit

/-! Edge groups (R412, R436). -/

def State.modGroup (s : State) (g : Nat) (f : Group → Group) : State :=
  s.modPkg fun p => { p with groups := mset g (f (s.group g)) p.groups }

/-- A GRPSTEP event. -/
def State.grpEvent (s : State) (g step pers mode : Nat) : State :=
  s.post ⟨0x40, g, 0xFF, 0, BitVec.ofNat 64 step, BitVec.ofNat 64 pers, BitVec.ofNat 64 mode, none⟩

/-- GRP_GO: quiesce and drain begin. -/
def execGrpGo (g : Nat) (s : State) : Host.Outcome State Fault Refusal :=
  if g < 16 then
    let k := s.group g
    let bad := 2 ≤ k.ctlMode || (k.ctlMode == 1 && k.ctlPers == 3) || !(k.state == 0 || k.state == 1 || k.state == 6)
    .next (if bad then s.grpEvent g 0 k.ctlPers k.ctlMode
      else
        let s1 := (s.modGroup g fun a =>
          { a with state := 2, wasUp := k.state == 1, newPers := k.ctlPers, newMode := k.ctlMode }).grpEvent g 1 k.ctlPers
          k.ctlMode
        (s1.modGroup g fun a => { a with state := 3, deadline := s.now + 8000000 }).grpEvent g 2 k.ctlPers k.ctlMode)
  else .fault .noUnit

/-- Whether a request in flight goes through a group: to its CXL window. -/
def Msg.cxlOf (m : Msg) (g : Nat) : Bool :=
  isCxl m.pa && cxlGroup m.pa == g && m.st.waiting && (match m.op with
    | .read _ => true
    | .write _ _ => true
    | _ => false)

/-- Whether everything sent over a group has been answered. -/
def State.drained (s : State) (g : Nat) : Bool := (s.sentOver g).isEmpty && !s.net.any fun m => m.cxlOf g

/-- What is left of the traffic of a group when its drain ends (R436). -/
def State.endTraffic (s : State) (g : Nat) : State :=
  let s1 := s.failOver g 0x83 3
  let s2 := (s1.net.filter fun m => m.cxlOf g).foldl (fun t m =>
    match m.op with
    | .read _ => t.reply m.id 0 (some ⟨0x10, m.va⟩)
    | _ => t.dropStore m 3) s1
  let mine (h : Hole) : Bool := (s.rank h.src).group == g
  let fin := s2.pkg.holes.filter mine
  s2.modPkg fun p =>
    { p with holes := p.holes.filter fun h => !mine h
             holeMax := holeAge s.now fin p.holeMax }

/-- The group opens with its new personality (R436 step 5). -/
def State.openGroup (s : State) (g : Nat) (trimx : Bool) : State :=
  let k := s.group g
  (s.modGroup g fun a =>
    { a with state := if k.newPers = 0 then 0 else 1, pers := k.newPers, mode := k.newMode, nsw := min 65535 (a.nsw + 1)
             trimx := k.newPers == 2 || (k.newPers == 1 && trimx) }).grpEvent g 5 k.newPers k.newMode

/-- GROUP_DRAIN_END: the group closes, which makes the ranks that were reachable over it unreachable, and retrains; without a
personality there is nothing to train. -/
def execGroupDrainEnd (g : Nat) (s : State) : Host.Outcome State Fault Refusal :=
  if g < 16 then
    let k := s.group g
    .next (if k.state ≠ 3 ∨ (s.now < k.deadline ∧ !s.drained g) then s
      else
        let s1 := s.endTraffic g
        let lost := if k.wasUp && (k.pers == 1 || k.pers == 2) then s1.carried g else []
        let s2 := (s1.modGroup g fun a => { a with state := 4, trimx := false }).grpEvent g 3 k.newPers k.newMode
        let s3 := { s2 with agenda := s2.agenda ++ lost.map fun r => Instr.ranklost r 3 }
        let s4 := if k.pers = 2 ∧ s.pkg.ptimeCfg % 4 = 2 ∧ s.pkg.ptimeCfg / 16 = g then s3.modPkg fun p => { p with ptimeFree := true }
          else s3
        let s5 := (s4.modGroup g fun a => { a with state := 5 }).grpEvent g 4 k.newPers k.newMode
        if k.newPers = 0 then s5.openGroup g false else s5)
  else .fault .noUnit

/-- GROUP_RETRAIN_DONE. -/
def execGroupRetrainDone (g : Nat) (ok trimx : Bool) (s : State) : Host.Outcome State Fault Refusal :=
  if g < 16 then
    let k := s.group g
    .next (if k.state ≠ 5 then s
      else if ok then s.openGroup g trimx
      else (s.modGroup g fun a => { a with state := 6 }).grpEvent g 6 k.newPers k.newMode)
  else .fault .noUnit

end Sys2Proof.Machine
end

