-- ==== Sys2Proof/Machine/Reg.lean ====
section
/-! DEFINITION. System registers: what each reads as and what a write of it does (R11, R137, R309, R322 to R324, R328, R355,
R380, R381, R386, R390, R393, R396 to R410, R412, R413, R423 to R426, R433, R441), SYSRD and SYSWR, the register window (R384,
R391), and the host's accesses (R391, R392). -/

namespace Sys2Proof.Machine

/-! Where a register stands. -/

/-- A register by its unit and index (R322). -/
inductive RegAt
  | ctx (c x i : Nat)
  | core (c i : Nat)
  | cluster (q i : Nat)
  | stack (t i : Nat)
  | pkg (i : Nat)
deriving DecidableEq, Repr

/-- The register that an index names for a context (R322). -/
def regAt (c x i : Nat) : RegAt :=
  if i < 0x100 then .ctx c x i
  else if i < 0x200 then .core c i
  else if i < 0x300 then .cluster (clusterOf c) i
  else if i < 0x400 then .stack (stackOf c) i
  else .pkg i

/-- The register at an 8-byte offset of the register window (R391). -/
def State.winReg (s : State) (off : Nat) : Option RegAt :=
  if off < 0x180000 then
    let n := off / 0x4000
    let r := off % 0x4000
    if !s.hasCore n then none
    else if 0x800 ≤ r ∧ r < 0x1000 then some (.core n (r / 8))
    else if 0x1000 ≤ r ∧ r < 0x2000 then some (.ctx n ((r - 0x1000) / 0x800) ((r - 0x1000) % 0x800 / 8))
    else none
  else if off < 0x198000 then
    let q := (off - 0x180000) / 0x1000
    let r := (off - 0x180000) % 0x1000
    if s.hasCluster q && r < 0x800 then some (.cluster q (0x200 + r / 8)) else none
  else if off < 0x200000 then none
  else if off < 0x204000 then
    let t := (off - 0x200000) / 0x1000
    let r := (off - 0x200000) % 0x1000
    if s.hasStack t && r < 0x800 then some (.stack t (0x300 + r / 8)) else none
  else if 0x210000 ≤ off ∧ off < 0x211000 then some (.pkg (0x400 + (off - 0x210000) / 8))
  else none

/-! Reads. -/

/-- LA.STAT (R143). -/
def Ctx.laStat (k : Ctx) : Nat :=
  ((List.range 32).map fun i =>
    (if (k.slot i).st = .pending then 2 ^ i else 0) + if (k.slot i).st = .full then 2 ^ (32 + i) else 0).sum

/-- A bit. -/
def bit (b : Bool) (i : Nat) : Nat := if b then 2 ^ i else 0

/-- A context register (R137, R216, R271). -/
def State.ctxReg (s : State) (c x i : Nat) : Nat :=
  let k := s.ctx c x
  if 8 ≤ i ∧ i < 16 then (k.rf (i - 8)).toNat
  else if 0x34 ≤ i ∧ i < 0x38 then (mget 0 k.scr (i - 0x34)).toNat
  else match i with
    | 0x01 => s.ctxStat c x
    | 0x02 => k.rnd
    | 0x03 => k.srseed.toNat
    | 0x04 => k.nfs.toNat
    | 0x05 => k.shape
    | 0x10 => k.loopCnt.toNat
    | 0x11 => k.loopEnd.toNat
    | 0x18 => bit k.rev 0
    | 0x19 => k.tapeBase.toNat
    | 0x1A => k.tapeSize.toNat
    | 0x1B => k.tapeFloor.toNat * 2 ^ 32 + k.tapeTop.toNat
    | 0x20 => k.mx.word
    | 0x28 => k.cyc
    | 0x30 => k.trapPc.toNat
    | 0x31 => k.trapInfo.toNat
    | 0x32 => k.trapAddr.toNat
    | 0x38 => k.laStat
    | 0x3C => k.ckpt
    | 0x40 => k.frzLand
    | 0x41 => k.frzReg
    | 0x42 => k.frzScor
    | 0x43 => k.frzHeat
    | 0x44 => k.frzSync
    | _ => 0

/-- IWIN.SUM over the cycle just ended and those before it (R136, R155): a read during a core cycle does not see its
charge. -/
def Core.winSum (k : Core) (now : Nat) : Nat := ((if now < k.nextCore then k.win.drop 1 else k.win).take 32).sum

/-- A core register (R136, R137, R228, R275, R313, R324, R355, R381). -/
def State.coreReg (s : State) (c i : Nat) : Nat :=
  let k := s.core c
  if 0x131 ≤ i ∧ i < 0x134 then ((List.range 8).map fun j => mget 0 k.seen (8 * (i - 0x131) + j) % 256 * 256 ^ j).sum
  else if 0x140 ≤ i ∧ i < 0x180 then (s.chan c ((i - 0x140) / 16)).reg (i % 16)
  else if 0x180 ≤ i ∧ i < 0x1A0 then (s.chan c ((i - 0x180) / 8)).bitmap.toNat / 2 ^ (64 * (i % 8))
  else if 0x1A0 ≤ i ∧ i < 0x1C0 then
    let e := mget (0, 0) k.ring ((i - 0x1A0) / 2)
    if i % 2 = 0 then e.1.toNat else e.2.toNat
  else match i with
    | 0x100 => bit k.swapReq 1 + k.lead % 2
    | 0x101 => k.divReg
    | 0x102 => k.fifo.length * 256 + bit k.statLost 6 + k.swap % 8 * 8
    | 0x104 => k.ilim
    | 0x105 => k.winSum s.now
    | 0x108 => k.frzCur
    | 0x109 => k.frzClk
    | 0x10A => k.frzGov
    | 0x10C => k.dstarve
    | 0x10D => k.dstarveThr
    | 0x110 => k.heat
    | 0x111 => k.statq.length
    | 0x120 => k.atomNack
    | 0x121 => k.ballastCtl
    | 0x122 => k.balCnt
    | 0x130 => k.rgPass % 256 * 256 + k.rgCur % 256
    | 0x134 => k.nrace
    | 0x1C0 => k.srPtr
    | _ => 0

/-- A cluster register (R309, R328). -/
def State.clusterReg (s : State) (q i : Nat) : Nat :=
  let k := s.cluster q
  let f := s.fuse q
  match i with
  | 0x200 => k.nrepl * 2 ^ 24 + k.last * 2 ^ 20 + bit k.mbox.isSome 19 + k.mstate * 2 ^ 16 + k.vtgt * 256 + k.vnow
  | 0x201 => bit k.mbox.isSome 63 + k.mbox.getD 0
  | 0x202 => bit k.userTune 0
  | 0x203 => q / 6 * 8 + q % 6
  | 0x204 => f.rank * 2 ^ 16 + f.ceil * 256 + f.floor
  | 0x205 => f.cth3 * 2 ^ 24 + f.cth2 * 2 ^ 16 + f.th5 * 256 + f.th4
  | 0x206 => bit k.exclude 0
  | 0x207 => k.tlberr * 2 ^ 32 + bit k.failed 8 + k.cause
  | 0x209 => k.tlbMiss
  | 0x20A => k.tlbWalk
  | _ => 0

/-- GOV.CFG (R380). -/
def Stack.govCfg (k : Stack) : Nat := k.ttrip * 2 ^ 40 + k.hyst * 2 ^ 32 + k.govW * 2 ^ 16 + k.t0

/-- A stack register (R380). -/
def State.stackReg (s : State) (t i : Nat) : Nat :=
  let k := s.stk t
  if 0x310 ≤ i ∧ i < 0x328 then
    let col := i - 0x310
    bit (k.rtFail / 2 ^ col % 2 == 1) 41 + mget 0 k.badMap col * 2 ^ 32 + (mget 0 k.layerMap col).toNat
  else if 0x330 ≤ i ∧ i < 0x348 then k.colReg (i - 0x330)
  else match i with
    | 0x300 => k.nlayers * 16 + t
    | 0x302 => k.nchg * 2 ^ 32 + k.tstep * 256 + k.govStep
    | 0x303 => k.govCfg
    | 0x304 => k.govMin
    | 0x305 => k.tmaxReg
    | 0x306 => k.kind * 64 + bit k.vaultKeep 4 + bit k.repaired 3 + bit k.selftest 2
    | 0x307 => bit k.failed 8 + k.cause
    | 0x308 => k.ce
    | 0x309 => k.ue
    | 0x30A => k.ueAddr.toNat
    | 0x30B => k.retry * 2 ^ 32 + k.spares * 256 + bit k.pending 0
    | 0x30C => k.pause
    | _ => 0

/-- Register j of a ring: base, configuration, PROD, CONS (R398, R404). -/
def Ring.reg (r : Ring) (j : Nat) : Nat :=
  match j with
  | 0 => r.base.toNat
  | 1 => bit r.en 63 + r.vec * 256 + r.log2
  | 2 => r.prod
  | _ => r.cons

/-- Register j of a launch queue (R393). -/
def Queue.reg (k : Queue) (j : Nat) : Nat :=
  match j with
  | 0 => k.base.toNat
  | 1 => bit k.en 63 + bit k.supv 62 + k.asid * 2 ^ 56 + k.log2
  | 2 => k.prod
  | _ => k.cons

/-- GRP.STAT of a group (R412). -/
def Group.stat (g : Group) : Nat := g.nsw * 2 ^ 32 + bit g.trimx 19 + g.state * 2 ^ 16 + g.mode * 16 + g.pers

/-- SLK.STAT of a cluster (R441). -/
def Cluster.slkStat (k : Cluster) : Nat :=
  k.vadv * 2 ^ 30 + k.slkF * 2 ^ 19 + k.slkA * 256 + bit k.slkChg 6 + k.slkPlow * 8 + k.slkS

/-- SLK.CFG (R441). -/
def Pkg.slkCfg (p : Pkg) : Nat :=
  bit p.slkEn 63 + p.slkVnom * 2 ^ 46 + p.slkDv * 2 ^ 42 + p.slkPer * 2 ^ 32 + p.slkDb * 2 ^ 22 + p.slkLo * 2 ^ 11 + p.slkHi

/-- The released stacks as a mask. -/
def State.releasedMask (s : State) : Nat := ((List.range 4).map fun t => bit (s.stk t).released t).sum

/-- A register of the fabric (R412, R413, R423, R424, R426, R433, R441). -/
def State.fabricReg (s : State) (i : Nat) : Nat :=
  let p := s.pkg
  if 0x508 ≤ i ∧ i < 0x518 then (s.group (i - 0x508)).ctlMode * 4 + (s.group (i - 0x508)).ctlPers
  else if 0x518 ≤ i ∧ i < 0x528 then (s.group (i - 0x518)).stat
  else if 0x528 ≤ i ∧ i < 0x538 then (s.group (i - 0x528)).limit
  else if 0x568 ≤ i ∧ i < 0x580 then (s.cluster (i - 0x568)).slkStat
  else match i with
    | 0x500 => p.fabId.toNat
    | 0x501 => p.retries * 2 ^ 16 + p.rto
    | 0x540 => p.rankBase.toNat
    | 0x541 => bit (p.busy 0x541) 63
    | 0x543 => bit (p.busy 0x543) 63
    | 0x542 => p.rwBase.toNat
    | 0x550 => p.trimRx
    | 0x551 => p.rereqTx
    | 0x552 => p.rereqRx
    | 0x553 => p.retx
    | 0x554 => p.holeMax
    | 0x555 => p.late
    | 0x556 => p.lateAck
    | 0x557 => p.sdrop
    | 0x558 => p.fenceDrop
    | 0x560 => p.slkCfg
    | 0x561 => s.ownGstep * 256 + p.slkLast * 8 + p.slkCur
    | _ => 0

/-- A register of the package (R386, R390, R393, R396, R398, R400, R401, R403, R404, R406 to R408, R410). -/
def State.pkgReg (s : State) (i : Nat) : Nat :=
  let p := s.pkg
  if 0x401 ≤ i ∧ i < 0x405 then (mget 0 p.featSup (i - 0x401)).toNat
  else if 0x405 ≤ i ∧ i < 0x409 then (mget 0 p.featEn (i - 0x405)).toNat
  else if 0x420 ≤ i ∧ i < 0x424 then p.ev.reg (i - 0x420)
  else if 0x428 ≤ i ∧ i < 0x42C then p.tel.reg (i - 0x428)
  else if 0x440 ≤ i ∧ i < 0x480 then (mget 0 p.roots (i - 0x440)).toNat
  else if 0x480 ≤ i ∧ i < 0x4C0 then (s.queue ((i - 0x480) / 4)).reg (i % 4)
  else if 0x500 ≤ i then s.fabricReg i
  else match i with
    | 0x400 => bit p.ready 63 + p.revision % 256 * 256 + s.releasedMask
    | 0x409 => bit p.featRefused 1 + bit p.featChanged 0
    | 0x410 => p.ptime
    | 0x411 => p.ptimeCfg
    | 0x412 => (BitVec.ofInt 64 p.ptimeAdj).toNat
    | 0x418 => p.rampUp
    | 0x419 => p.rampDown
    | 0x41A => s.rampN * 2 ^ 32 + rampStep p.rampDown s.rampN % 65536 * 65536 + rampStep p.rampUp s.rampN % 65536
    | 0x424 => p.evSw * 2 ^ 32 + p.evHw
    | 0x42C => p.telLost
    | 0x430 => bit (p.busy 0x430) 61
    | 0x432 => p.ltBase.toNat
    | 0x438 => p.brgTrim
    | 0x439 => p.brgRx * 2 ^ 32 + p.brgTx
    | 0x43A => p.brgRetx
    | 0x43B => p.brgHole
    | 0x4C1 => p.bxcStat
    | 0x4D1 => p.rstCfg
    | _ => 0

/-- The value of a register. -/
def State.readReg (s : State) (r : RegAt) : BitVec 64 :=
  BitVec.ofNat 64 (match r with
    | .ctx c x i => s.ctxReg c x i
    | .core c i => s.coreReg c i
    | .cluster q i => s.clusterReg q i
    | .stack t i => s.stackReg t i
    | .pkg i => s.pkgReg i)

/-! What a read clears (R11): the RC fields of which it returns a bit. -/

/-- Whether a mask of returned bits meets bits hi down to lo. -/
def meets (m : BitVec 64) (hi lo : Nat) : Bool := bitsOf m hi lo != 0

def Core.clearRc (k : Core) (i : Nat) (m : BitVec 64) : Core :=
  if i = 0x102 ∧ meets m 5 3 ∧ k.swap ≠ 1 then { k with swap := 0 } else k

def Cluster.clearRc (k : Cluster) (i : Nat) (m : BitVec 64) : Cluster :=
  if i = 0x200 ∧ meets m 31 24 then { k with nrepl := 0 }
  else if i = 0x207 ∧ meets m 63 32 then { k with tlberr := 0 }
  else k

def Stack.clearRc (k : Stack) (i : Nat) (m : BitVec 64) : Stack :=
  match i with
  | 0x302 => if meets m 39 32 then { k with nchg := 0 } else k
  | 0x308 => { k with ce := 0 }
  | 0x309 => { k with ue := 0 }
  | 0x30B => if meets m 63 32 then { k with retry := 0 } else k
  | _ => k

def Pkg.clearRc (p : Pkg) (i : Nat) (m : BitVec 64) : Pkg :=
  if 0x518 ≤ i ∧ i < 0x528 then
    if meets m 47 32 then { p with groups := mset (i - 0x518) { (mget {} p.groups (i - 0x518)) with nsw := 0 } p.groups } else p
  else match i with
    | 0x424 => { p with evSw := if meets m 63 32 then 0 else p.evSw, evHw := if meets m 31 0 then 0 else p.evHw }
    | 0x42C => { p with telLost := 0 }
    | 0x438 => { p with brgTrim := 0 }
    | 0x439 => { p with brgRx := if meets m 63 32 then 0 else p.brgRx, brgTx := if meets m 31 0 then 0 else p.brgTx }
    | 0x43A => { p with brgRetx := 0 }
    | 0x43B => if meets m 31 0 then { p with brgHole := 0 } else p
    | 0x550 => { p with trimRx := 0 }
    | 0x551 => { p with rereqTx := 0 }
    | 0x552 => { p with rereqRx := 0 }
    | 0x553 => { p with retx := 0 }
    | 0x554 => if meets m 31 0 then { p with holeMax := 0 } else p
    | 0x555 => { p with late := 0 }
    | 0x556 => { p with lateAck := 0 }
    | 0x557 => { p with sdrop := 0 }
    | 0x558 => { p with fenceDrop := 0 }
    | _ => p

/-- A read that returned the bits of a mask clears the RC fields it met. -/
def State.clearRc (s : State) (r : RegAt) (m : BitVec 64) : State :=
  if m = 0 then s
  else match r with
    | .ctx _ _ _ => s
    | .core c i => if i = 0x102 then s.modCore c fun k => k.clearRc i m else s
    | .cluster q i => s.modCluster q fun k => k.clearRc i m
    | .stack t i => s.modStk t fun k => k.clearRc i m
    | .pkg i => s.modPkg fun p => p.clearRc i m

/-! Writes. `v` is the register's value with the written bytes merged in, `w` the written bits alone. -/

/-- A context register written (R26, R137, R147, R148, R216, R323). -/
def Ctx.writeReg (k : Ctx) (i : Nat) (v w : BitVec 64) : Ctx :=
  if 0x34 ≤ i ∧ i < 0x38 then { k with scr := mset (i - 0x34) v k.scr }
  else match i with
    | 0x01 => { k with stat := k.stat &&& ~~~(w.setWidth 5) }
    | 0x02 => if bitsOf v 2 0 ≤ 4 then { k with rnd := bitsOf v 2 0 } else k
    | 0x03 => { k with srseed := v }
    | 0x04 => { k with nfs := k.nfs &&& ~~~(w.setWidth 5) }
    | 0x05 => if v.toNat ≤ 6 then { k with shape := v.toNat } else k
    | 0x10 => { k with loopCnt := v }
    | 0x11 => { k with loopEnd := (v >>> 6) <<< 6 }
    | 0x19 => { k with tapeBase := v }
    | 0x1A => { k with tapeSize := v.setWidth 27 }
    | 0x1B => { k with tapeFloor := (v >>> 32).setWidth 32, tapeTop := v.setWidth 32 }
    | 0x30 => if k.trapm then { k with trapPc := (v >>> 6) <<< 6 } else k
    | 0x31 => if k.trapm then
        { k with trapInfo := (k.trapInfo &&& ~~~(0x7E00000 : BitVec 64)) ||| (v &&& 0x7E00000) } else k
    | _ => k

/-- The governor's configuration (R373, R380). -/
def Stack.writeCfg (k : Stack) (v : BitVec 64) : Stack :=
  { k with ttrip := bitsOf v 49 40, hyst := bitsOf v 35 32, govW := if bitsOf v 25 16 = 0 then k.govW else bitsOf v 25 16
           t0 := bitsOf v 9 0 }

/-- The state of a step that cannot stop. -/
def stepped (o : Host.Outcome State Fault Refusal) (s : State) : State :=
  match o with
  | .next t => t
  | _ => s

/-- TLB.INV of a cluster (R328, R331). -/
def State.tlbInv (s : State) (q : Nat) (w : BitVec 64) : State :=
  if w.getLsbD 63 then stepped (execTlbInvAll q s) s
  else if bitsOf w 61 51 ≠ 0 then s
  else if w.getLsbD 62 then stepped (execTlbInvAsid q (bitsOf w 50 45) s) s
  else stepped (execTlbInvPage q (bitsOf w 50 45) (bitsOf w 44 0) s) s

/-- A ring's configuration registers. -/
def Ring.writeReg (r : Ring) (j : Nat) (v : BitVec 64) : Ring :=
  match j with
  | 0 => { r with base := v &&& ~~~(0xFFF000000000003F : BitVec 64) }
  | 1 => { r with en := v.getLsbD 63, vec := bitsOf v 12 8, log2 := bitsOf v 3 0 }
  | 3 => { r with cons := bitsOf v 15 0 }
  | _ => r

/-- Register j of a launch queue written (R393). -/
def State.writeQueue (s : State) (q j : Nat) (v : BitVec 64) : State :=
  let k := s.queue q
  match j with
  | 0 => if k.en then s else s.setQueue q { k with base := v &&& ~~~(0xFFF000000000001F : BitVec 64) }
  | 1 =>
    s.setQueue q { k with en := v.getLsbD 63, supv := v.getLsbD 62, asid := bitsOf v 61 56
                          log2 := if k.en then k.log2 else bitsOf v 3 0 }
  | 2 => stepped (execLqProdWrite q (BitVec.ofNat 64 (bitsOf v 15 0)) s) s
  | _ => s

/-- RST.CTL (R407): the reset is the next step. A write that breaks its rules is ignored. -/
def State.writeRst (s : State) (w : BitVec 64) : State :=
  let kind := bitsOf w 1 0
  let t := bitsOf w 5 4
  if bitsOf w 63 6 ≠ 0 ∨ (kind ≠ 2 ∧ t ≠ 0) then s
  else match kind with
    | 1 => { s with agenda := s.agenda ++ [.rstWarm] }
    | 2 => { s with agenda := s.agenda ++ [.rstStack t] }
    | 3 => { s with agenda := s.agenda ++ [.rstCold] }
    | _ => s

/-- BXC.REQ (R406): a command starts; an address of no block ends at once with an error. -/
def State.writeBxc (s : State) (w : BitVec 64) : State :=
  let pa := w.toNat
  if s.pkg.bxcReq.isSome then s
  else if pa % 4096 = 0 ∧ (isHbm pa ∨ isHost pa) then s.modPkg fun p => { p with bxcReq := some pa, bxcStat := 1 }
  else s.bxcFail

/-- A clamp to ±500,000 (R403). -/
def clampPpb (v : Int) : Int := max (-500000) (min 500000 v)

/-- SLK.CFG written (R440, R441): while EN is 0, A and S hold 0, and each change of S posts its event. -/
def State.writeSlk (s : State) (v : BitVec 64) : State :=
  let s1 := s.modPkg fun p =>
    { p with slkEn := v.getLsbD 63, slkVnom := bitsOf v 52 46, slkDv := bitsOf v 45 42
             slkPer := if bitsOf v 41 32 = 0 then p.slkPer else bitsOf v 41 32, slkDb := bitsOf v 31 22, slkLo := bitsOf v 21 11
             slkHi := bitsOf v 10 0 }
  if v.getLsbD 63 then s1
  else
    s1.clusters.foldl (fun t p => if p.2.slkS = 0 then t else t.stepEvent p.1 p.2.slkS 0 0)
      { s1 with clusters := s1.clusters.map fun p => (p.1, { p.2 with slkA := 0, slkS := 0 }) }

/-- A command that a strand's SYSWR has waited for is done (R323, R390, R426, R433). -/
def State.runCmd (s : State) (i : Nat) (w : BitVec 64) : State :=
  match cmdStep i w with
  | some .tlbAll => stepped (execPkgTlbinvAll s) s
  | some (.tlbAsid a) => stepped (execPkgTlbinvAsid a s) s
  | some (.tlbPage a p) => stepped (execPkgTlbinvPage a p s) s
  | some .rankAll => stepped (execRankUpdAll s) s
  | some (.rankOne n) => stepped (execRankUpdOne n s) s
  | some (.bind n) => stepped (execRwBind n s) s
  | some (.unbind n) => stepped (execRwUnbind n s) s
  | some (.snapshot n) => stepped (execRwSnapshot n s) s
  | _ => s

/-- A command written through the register window is in progress until its step, behind those before it. -/
def State.startCmd (s : State) (i : Nat) (w : BitVec 64) : State :=
  if (cmdStep i w).isSome then s.modPkg fun p => { p with cmds := p.cmds ++ [(i, w)] } else s

/-- A fabric register written. -/
def State.writeFabric (s : State) (i : Nat) (v w : BitVec 64) : State :=
  if 0x508 ≤ i ∧ i < 0x518 then
    let g := i - 0x508
    let s1 := s.modGroup g fun k => { k with ctlMode := bitsOf v 3 2, ctlPers := bitsOf v 1 0 }
    if w.getLsbD 63 then stepped (execGrpGo g s1) s1 else s1
  else if 0x528 ≤ i ∧ i < 0x538 then s.modGroup (i - 0x528) fun k => { k with limit := bitsOf v 43 0 }
  else match i with
    | 0x500 => s.modPkg fun p => { p with fabId := v &&& 0x80000000000003FF }
    | 0x501 => s.modPkg fun p =>
        { p with retries := bitsOf v 23 16, rto := if bitsOf v 15 0 = 0 then p.rto else bitsOf v 15 0 }
    | 0x540 => s.modPkg fun p => { p with rankBase := v &&& 0x000FFFFFFFFFC000 }
    | 0x541 => s.runCmd 0x541 w
    | 0x542 =>
      if (List.range 64).any fun n => (s.rwin n).bound then s
      else s.modPkg fun p => { p with rwBase := v &&& 0x000FFFFFFFFFF000 }
    | 0x543 => s.runCmd 0x543 w
    | 0x560 => s.writeSlk v
    | _ => s

/-- A package register written. -/
def State.writePkg (s : State) (i : Nat) (v w : BitVec 64) : State :=
  if 0x405 ≤ i ∧ i < 0x409 then stepped (execFeatEnWrite (i - 0x405) v s) s
  else if 0x420 ≤ i ∧ i < 0x424 then s.modPkg fun p => { p with ev := p.ev.writeReg (i - 0x420) v }
  else if 0x428 ≤ i ∧ i < 0x42C then s.modPkg fun p => { p with tel := p.tel.writeReg (i - 0x428) v }
  else if 0x440 ≤ i ∧ i < 0x480 then stepped (execPkgRootWrite (i - 0x440) v s) s
  else if 0x480 ≤ i ∧ i < 0x4C0 then s.writeQueue ((i - 0x480) / 4) (i % 4) v
  else if 0x500 ≤ i then s.writeFabric i v w
  else match i with
    | 0x409 => if w.getLsbD 0 then s.modPkg fun p => { p with featChanged := false } else s
    | 0x411 => stepped (execPtimeCfgWrite v s) s
    | 0x412 => s.modPkg fun p => { p with ptimeAdj := clampPpb v.toInt }
    | 0x413 => stepped (execPtimeOfsWrite w s) s
    | 0x418 => s.modPkg fun p => { p with rampUp := bitsOf v 31 0 }
    | 0x419 => s.modPkg fun p => { p with rampDown := bitsOf v 31 0 }
    | 0x430 => s.runCmd 0x430 w
    | 0x431 => stepped (execPkgResume w s) s
    | 0x432 =>
      if s.pkg.launches.any fun p => p.2.state != 0 then s
      else s.modPkg fun p => { p with ltBase := v &&& 0x000FFFFFFFFFC000 }
    | 0x434 => stepped (execPkgKill w s) s
    | 0x4C0 => s.writeBxc w
    | 0x4D0 => s.writeRst w
    | 0x4D1 => s.modPkg fun p => { p with rstCfg := bitsOf v 1 0 }
    | _ => s

/-- A register written: the bits of `mask` with those of `v` (R11, R391). Registers and fields that are read-only stay. -/
def State.writeReg (s : State) (r : RegAt) (v mask : BitVec 64) : State :=
  let w := v &&& mask
  let full := (s.readReg r &&& ~~~mask) ||| w
  match r with
  | .ctx c x i => s.modCtx c x fun k => k.writeReg i full w
  | .core c i =>
    match i with
    | 0x100 => if w.getLsbD 1 then stepped (execSwapreqWrite c s) s else s
    | 0x102 => if w.getLsbD 6 then s.modCore c fun k => { k with statLost := false } else s
    | 0x10D => s.modCore c fun k => { k with dstarveThr := bitsOf full 31 0 }
    | _ => s
  | .cluster q i =>
    match i with
    | 0x202 => s.modCluster q fun k => { k with userTune := full.getLsbD 0 }
    | 0x206 => s.modCluster q fun k => { k with exclude := full.getLsbD 0 }
    | 0x208 => s.tlbInv q w
    | _ => s
  | .stack t i =>
    match i with
    | 0x303 => s.modStk t fun k => k.writeCfg full
    | 0x304 => stepped (execGovMinWrite t full s) s
    | _ => s
  | .pkg i => s.writePkg i full w

/-- The registers whose writes need supervisor privilege (R137, R324, R328, R380, and every register of the package and the
fabric that can be written), and those that their rules count among such, though they ignore writes (R393, R398, R404). -/
def supervisorReg (i : Nat) : Bool :=
  i == 0x100 || i == 0x10D || i == 0x202 || i == 0x206 || i == 0x208 || i == 0x303 || i == 0x304
    || (0x405 ≤ i && i ≤ 0x409) || (0x411 ≤ i && i ≤ 0x413) || i == 0x418 || i == 0x419
    || (0x420 ≤ i && i ≤ 0x424) || (0x428 ≤ i && i ≤ 0x42B)
    || (0x430 ≤ i && i ≤ 0x432) || i == 0x434 || (0x440 ≤ i && i ≤ 0x47F)
    || (0x480 ≤ i && i ≤ 0x4BF) || i == 0x4C0 || i == 0x4D0 || i == 0x4D1
    || i == 0x500 || i == 0x501 || (0x508 ≤ i && i ≤ 0x517) || (0x528 ≤ i && i ≤ 0x537)
    || (0x540 ≤ i && i ≤ 0x543) || i == 0x560

/-! SYSRD and SYSWR (R322, R323). -/

/-- The freeze of an access to a register outside the core, which lasts as long as the schedule says (log 4). -/
def State.farWait (s : State) (c x : Nat) (f : Frz) : Option (Frz × (State → State)) :=
  match (s.ctx c x).waiting 0 with
  | none =>
    some (f, fun t =>
      { t with free := t.free + 1 }.modCtx c x fun k =>
        { k with wait := mset 0 { id := t.now + 1 + Config.choice t.free } k.wait })
  | some w => if w.id ≤ s.now then none else some (f, id)

def semSysrd (o : OpI) (s : State) (c x : Nat) : Sem :=
  let i := o.imm.toNat % 4096
  let r := regAt c x i
  { writes := [.s o.sd.toNat]
    wait := if i < 0x200 then none else s.farWait c x .land
    eff := fun t => (t.clearRc r (BitVec.allOnes 64)).resS c x o.sd (s.readReg r) 1 }

def semSyswr (o : OpI) (s : State) (c x : Nat) : Sem :=
  let i := o.imm.toNat % 4096
  let v := (s.ctx c x).rs o.sa
  { reads := [.s o.sa.toNat]
    gate := []
    trap0 := if supervisorReg i && !s.supv c x then some (0x18, 0) else none
    wait :=
      if s.pkg.busy i then some (.sync, id)
      else if 0x200 ≤ i then s.farWait c x .sync
      else if 0x19 ≤ i ∧ i ≤ 0x1B ∧ s.tapeBusy c x then some (.sync, id)
      else none
    eff := fun t => t.writeReg (regAt c x i) v (BitVec.allOnes 64) }

/-- REGISTER_WRITE (R11, R323): a write, by a supervisor, of the register that an index names for a context. In the SH-4896-S
form it is how the management port sets ILIM and DSLEW (R382). -/
def execRegisterWrite (c x idx : Nat) (v : BitVec 64) (s : State) : Host.Outcome State Fault Refusal :=
  if s.hasCore c ∧ x < 2 then
    .next (match s.form, idx with
      | .s, 0x104 => s.modCore c fun k => { k with ilim := bitsOf v 15 0 }
      | .s, 0x121 => s.modCore c fun k => { k with dslew := bitsOf v 39 28 }
      | _, _ => s.writeReg (regAt c x idx) v (BitVec.allOnes 64))
  else .fault .noUnit

/-! The register window (R384, R391). -/

/-- The bytes of one register that an access of n bytes at window offset `off` names: the register's offset and the bits. -/
def wordMask (off n word : Nat) : BitVec 64 :=
  BitVec.ofNat 64 (((List.range 8).map fun j =>
    if off ≤ 8 * word + j ∧ 8 * word + j < off + n then 255 * 256 ^ j else 0).sum)

/-- The registers that an access touches, by offset over 8. -/
def windowWords (off n : Nat) : List Nat := (List.range ((off + n + 7) / 8 - off / 8)).map fun i => off / 8 + i

/-- The value of a window's bytes. -/
def State.readWindow (s : State) (off n : Nat) : Nat :=
  ((windowWords off n).map fun w =>
    match s.winReg (8 * w) with
    | some r => (s.readReg r).toNat * 256 ^ (8 * w)
    | none => 0).sum / 256 ^ off % 256 ^ n

/-- What the read of a window's bytes clears. -/
def State.clearWindow (s : State) (off n : Nat) : State :=
  (windowWords off n).foldl (fun t w =>
    match t.winReg (8 * w) with
    | some r => t.clearRc r (wordMask off n w)
    | none => t) s

/-- Bytes written through the window. A command there takes its time (R390, R426). -/
def State.writeWindow (s : State) (off n v : Nat) : State :=
  (windowWords off n).foldl (fun t w =>
    match t.winReg (8 * w) with
    | some r =>
      let d := BitVec.ofNat 64 (v % 256 ^ n * 256 ^ off / 256 ^ (8 * w))
      match r with
      | .pkg 0x430 => t.startCmd 0x430 (d &&& wordMask off n w)
      | .pkg 0x541 => t.startCmd 0x541 (d &&& wordMask off n w)
      | .pkg 0x543 => t.startCmd 0x543 (d &&& wordMask off n w)
      | _ => t.writeReg r d (wordMask off n w)
    | none => t) s

/-- Offset in the register window. -/
def regOff (pa : Nat) : Nat := pa - 0x11000000000

/-- REGISTER_WINDOW_ACCESS (R384): a strand's load or store is performed at the register's core. In the SH-4896-S form the window
is the customer's (R447). -/
def execRegisterWindowAccess (m : Nat) (s : State) : Host.Outcome State Fault Refusal :=
  match s.arrived m with
  | some a =>
    .next (if isReg a.pa ∧ a.st = .live ∧ s.eligible a then
        if s.form = .s then s.performCustomer a
        else match a.op with
        | .read n =>
          let s1 := if a.acq then s.acquireAll a.core else s
          (s1.clearWindow (regOff a.pa) n).reply m (BitVec.ofNat 2048 (s.readWindow (regOff a.pa) n)) none
        | .write bs _ => (s.dropMsg m).writeWindow (regOff a.pa) bs.length (ofBytes bs)
        | _ => s
      else s)
  | none => .next s

/-! The host's accesses (R391, R392). -/

/-- A completion for the host. -/
def State.hostAnswer (s : State) (pa n v : Nat) (write : Bool) (stat : HostStat) : State :=
  { s with hostDone := s.hostDone ++ [⟨pa, n, write, BitVec.ofNat 2048 v, stat⟩] }

/-- HOST_WINDOW_READ of up to 256 bytes: a read of poisoned data completes poisoned, one of an address outside the map as an
unsupported request. -/
def execHostWindowRead (pa n : Nat) (s : State) : Host.Outcome State Fault Refusal :=
  let n := min n 256
  .next (if isReg pa then
      (s.clearWindow (regOff pa) n).hostAnswer pa n (s.readWindow (regOff pa) n) false .good
    else if !s.mapped pa then s.hostAnswer pa n 0 false .unsupported
    else
      let s1 := s.meet pa n
      s1.hostAnswer pa n (s1.rd pa n) false (if s1.poisoned pa n then .poisoned else .good))

/-- HOST_WINDOW_WRITE of up to 8 bytes: one outside the map is an unsupported request, and one that R368 refuses is answered
with a completer abort; neither changes anything. -/
def execHostWindowWrite (pa n : Nat) (v : BitVec 64) (s : State) : Host.Outcome State Fault Refusal :=
  let n := min n 8
  .next (if isReg pa then (s.writeWindow (regOff pa) n v.toNat).hostAnswer pa n 0 true .good
    else if !s.mapped pa then s.hostAnswer pa n 0 true .unsupported
    else if s.shut pa then s.hostAnswer pa n 0 true .aborted
    else (s.store 255 0 pa (toBytes v.toNat n)).hostAnswer pa n 0 true .good)

/-! Each instruction alone in a bundle (R144). -/

/-- SYSRD alone in a bundle, issued by the context in turn. -/
def execSysrd (o : OpI) (s : State) : Host.Outcome State Fault Refusal :=
  issueOne .s (.sysrd o) o.g (semSysrd o) s

/-- SYSWR alone in a bundle, issued by the context in turn. -/
def execSyswr (o : OpI) (s : State) : Host.Outcome State Fault Refusal :=
  issueOne .s (.syswr o) o.g (semSyswr o) s

end Sys2Proof.Machine
end

