-- ==== Sys2Proof/Machine/Vector.lean ====
section
/-! DEFINITION. The instructions of slots VA and VB (R169 to R185). -/

namespace Sys2Proof.Machine

/-- The element type of the type field. -/
def etyOf (o : OpV) : ETy := eTy o.ty.toNat .f32

/-- An element-wise operation of two sources on each element by itself: `fi` on integers, `ff` on floats (R173). -/
def vec2 (o : OpV) (s : State) (c x lat : Nat) (ff : Fmt → RMode → Nat → Nat → FRes) (fi : ETy → Nat → Nat → FRes) : Sem :=
  let t := (etyOf o)
  let m := (s.ctx c x).mode
  elementWise s c x o t t true false lat fun a b _ i =>
    match t.flt with
    | some f => ff f m (elem t.w i a) (elem t.w i b)
    | none => fi t (elem t.w i a) (elem t.w i b)

/-- An element-wise operation of one source. -/
def vec1 (o : OpV) (s : State) (c x lat : Nat) (ff : Fmt → RMode → Nat → FRes) (fi : ETy → Nat → FRes) : Sem :=
  let t := (etyOf o)
  let m := (s.ctx c x).mode
  elementWise s c x o t t false false lat fun a _ _ i =>
    match t.flt with
    | some f => ff f m (elem t.w i a)
    | none => fi t (elem t.w i a)

/-- An element-wise operation of three sources. -/
def vec3 (o : OpV) (s : State) (c x : Nat) (ff : Fmt → RMode → FVal → FVal → FVal → FRes)
    (fi : Int → Int → Int → Int) : Sem :=
  let t := (etyOf o)
  let m := (s.ctx c x).mode
  elementWise s c x o t t true true 4 fun a b e i =>
    match t.flt with
    | some f => ff f m (f.dec (elem t.w i a)) (f.dec (elem t.w i b)) (f.dec (elem t.w i e))
    | none => ⟨wrap t.w (fi (elem t.w i a) (elem t.w i b) (elem t.w i e)), 0⟩

/-- An integer result of w bits without a flag. -/
def iRes (t : ETy) (i : Int) : FRes := ⟨wrap t.w i, 0⟩

/-- The signed or unsigned value of an element. -/
def ETy.int (t : ETy) (e : Nat) : Int := ival t.signed t.w e

/-! Arithmetic (R173). -/

def semVadd (o : OpV) (s : State) (c x : Nat) : Sem :=
  vec2 o s c x 4 (fun f m a b => fAdd f m (f.dec a) (f.dec b)) fun t a b => iRes t (a + b)

def semVsub (o : OpV) (s : State) (c x : Nat) : Sem :=
  vec2 o s c x 4 (fun f m a b => fAdd f m (f.dec a) (f.dec b).flip) fun t a b => iRes t ((a : Int) - b)

def semVmul (o : OpV) (s : State) (c x : Nat) : Sem :=
  vec2 o s c x 4 (fun f m a b => fMul f m (f.dec a) (f.dec b)) fun t a b => iRes t (a * b)

def semVfma (o : OpV) (s : State) (c x : Nat) : Sem := vec3 o s c x (fun f m a b e => fFma f m a b e) fun a b e => a * b + e
def semVfms (o : OpV) (s : State) (c x : Nat) : Sem :=
  vec3 o s c x (fun f m a b e => fFma f m a b e.flip) fun a b e => a * b - e
def semVfnma (o : OpV) (s : State) (c x : Nat) : Sem :=
  vec3 o s c x (fun f m a b e => fFma f m a.flip b e) fun a b e => e - a * b

def semVmin (o : OpV) (s : State) (c x : Nat) : Sem :=
  vec2 o s c x 4 (fun f _ a b => fMinMax f false a b) fun t a b => if t.int a ≤ t.int b then ⟨a, 0⟩ else ⟨b, 0⟩

def semVmax (o : OpV) (s : State) (c x : Nat) : Sem :=
  vec2 o s c x 4 (fun f _ a b => fMinMax f true a b) fun t a b => if t.int a ≤ t.int b then ⟨b, 0⟩ else ⟨a, 0⟩

/-- A sign operation of a float: NaN to Canon (R173). -/
def signOp (f : Fmt) (a : Nat) (bits : Nat) : FRes :=
  match f.dec a with
  | .nan sg => f.ofNan sg
  | _ => ⟨bits, 0⟩

def semVabs (o : OpV) (s : State) (c x : Nat) : Sem :=
  vec1 o s c x 4 (fun f _ a => signOp f a (a % 2 ^ (f.w - 1))) fun t a => iRes t (t.int a).natAbs

def semVneg (o : OpV) (s : State) (c x : Nat) : Sem :=
  vec1 o s c x 4 (fun f _ a => signOp f a (a ^^^ 2 ^ (f.w - 1))) fun t a => iRes t (-(a : Int))

def semVmulhi (o : OpV) (s : State) (c x : Nat) : Sem :=
  vec2 o s c x 4 (fun _ _ a _ => ⟨a, 0⟩) fun t a b => iRes t (t.int a * t.int b / 2 ^ t.w)

def semVscale (o : OpV) (s : State) (c x : Nat) : Sem :=
  vec2 o s c x 4 (fun f m a b => fScale f m (f.dec a) (clampInt (sgn f.w b) (-1024) 1024)) fun _ a _ => ⟨a, 0⟩

/-! Logic and shifts (R174): on bit patterns. -/

/-- A bitwise operation. -/
def vecBits (o : OpV) (s : State) (c x : Nat) (rb : Bool) (f : Nat → Nat → Nat → Nat) : Sem :=
  let t := (etyOf o)
  elementWise s c x o t t rb false 2 fun a b _ i => ⟨f t.w (elem t.w i a) (elem t.w i b), 0⟩

def semVand (o : OpV) (s : State) (c x : Nat) : Sem := vecBits o s c x true fun _ a b => a &&& b
def semVor (o : OpV) (s : State) (c x : Nat) : Sem := vecBits o s c x true fun _ a b => a ||| b
def semVxor (o : OpV) (s : State) (c x : Nat) : Sem := vecBits o s c x true fun _ a b => a ^^^ b
def semVnot (o : OpV) (s : State) (c x : Nat) : Sem := vecBits o s c x false fun w a _ => 2 ^ w - 1 - a
def semVshl (o : OpV) (s : State) (c x : Nat) : Sem := vecBits o s c x true fun w a b => a * 2 ^ (b % w) % 2 ^ w
def semVshr (o : OpV) (s : State) (c x : Nat) : Sem := vecBits o s c x true fun w a b => a / 2 ^ (b % w)
def semVsha (o : OpV) (s : State) (c x : Nat) : Sem := vecBits o s c x true fun w a b => wrap w (sgn w a / 2 ^ (b % w))

/-! Moves (R175). -/

def semVmov (o : OpV) (s : State) (c x : Nat) : Sem := vecBits o s c x false fun _ a _ => a

/-- Rows and columns of the matrix view (R169). -/
def Ctx.rows (k : Ctx) : Nat := 2 ^ k.shape
def Ctx.cols (k : Ctx) (t : ETy) : Nat := t.count / 2 ^ k.shape

/-- ILLOP of the matrix view when ROWS exceeds the element count (R169), or of another limit known from the registers. -/
def illopIf (b : Bool) : Option (Nat × BitVec 64) := if b then some (1, 0) else none

def semVbcast (o : OpV) (s : State) (c x : Nat) : Sem :=
  let t := (etyOf o)
  let k := s.ctx c x
  { elementWise s c x o t t false false 2 fun a _ _ i =>
      ⟨elem t.w (o.vb.toNat * k.cols t + i % k.cols t) a, 0⟩ with
    trap0 := illopIf (t.count < k.rows || k.rows ≤ o.vb.toNat) }

def semViota (o : OpV) (s : State) (c x : Nat) : Sem :=
  let t := (etyOf o)
  elementWise s c x o t t false false 2 fun a _ _ i => iRes t ((elem t.w i a : Int) + i)

/-- The element hash of VHASH (R175). -/
def hash32 (a b : BitVec 32) : BitVec 32 :=
  let h := a ^^^ (b * 0x9E3779B9#32)
  let h := (h ^^^ (h >>> 16)) * 0x85EBCA6B#32
  let h := (h ^^^ (h >>> 13)) * 0xC2B2AE35#32
  h ^^^ (h >>> 16)

def hash64 (a b : BitVec 64) : BitVec 64 :=
  let h := a ^^^ (b * 0x9E3779B97F4A7C15#64)
  let h := (h ^^^ (h >>> 30)) * 0xBF58476D1CE4E5B9#64
  let h := (h ^^^ (h >>> 27)) * 0x94D049BB133111EB#64
  h ^^^ (h >>> 31)

def semVhash (o : OpV) (s : State) (c x : Nat) : Sem :=
  vec2 o s c x 4 (fun _ _ a _ => ⟨a, 0⟩) fun t a b =>
    if t.w = 32 then ⟨(hash32 (BitVec.ofNat 32 a) (BitVec.ofNat 32 b)).toNat, 0⟩
    else ⟨(hash64 (BitVec.ofNat 64 a) (BitVec.ofNat 64 b)).toNat, 0⟩

/-! Masks (R176, R177). -/

/-- The elements of lane j: both lanes of a pair for 64-bit types (R169, R176). -/
def laneElems (w j : Nat) : List Nat := if w = 64 then [j / 2] else (List.range (32 / w)).map fun i => j * (32 / w) + i

/-- The lanes whose bit the guard admits: the even lane's bit for 64-bit types (R176). -/
def guardLanes (g : BitVec 64) (w : Nat) : List Nat :=
  (List.range 64).filter fun j => if w = 64 then g.getLsbD (j / 2 * 2) else g.getLsbD j

/-- Bits of a mask replaced. -/
def setBits (old : BitVec 64) (js : List Nat) (f : Nat → Bool) : BitVec 64 :=
  js.foldl (fun m j => if f j then m ||| BitVec.ofNat 64 (2 ^ j) else m &&& ~~~(BitVec.ofNat 64 (2 ^ j))) old

/-- An instruction that writes bits of the mask named in vd (R176, R177). -/
def maskWrite (o : OpV) (s : State) (c x : Nat) (t : ETy) (rb : Bool) (f : BitVec 2048 → BitVec 2048 → Nat → Bool)
    (after : BitVec 2048 → BitVec 2048 → State → State) : Sem :=
  let k := s.ctx c x
  let kd := o.vd.toNat % 16
  let a := k.vaVal o t
  let b := k.rv o.vb
  { reads := vaReads o ++ (if rb then [.v o.vb.toNat] else [])
    las := vaLas o
    frees := vaFrees o
    writes := [.k kd]
    eff := fun s1 =>
      after a b (s1.resKV c x kd (setBits (k.rk (BitVec.ofNat 4 kd)) (guardLanes (k.rk o.g) t.w) (f a b))) }

/-- VCMP of one pair of elements (R176). -/
def vcmpElem (t : ETy) (cond : Nat) (a b : Nat) : Bool × Flags :=
  match t.flt with
  | some _ => fCompare cond (t.val a) (t.val b)
  | none => (elemCond cond (t.int a) (t.int b), 0)

def semVcmp (o : OpV) (s : State) (c x : Nat) : Sem :=
  let k := s.ctx c x
  let t := eTy o.ty.toNat (k.nfOf o)
  let cond := bitsOf o.vc 2 0
  let one (a b : BitVec 2048) (i : Nat) := vcmpElem t cond (elem t.w i a) (elem t.w i b)
  maskWrite o s c x t true
    (fun a b j =>
      let es := laneElems t.w j
      if o.vc.getLsbD 3 then es.any fun i => (one a b i).1 else es.all fun i => (one a b i).1)
    fun a b s1 =>
      s1.setFlags c x ((guardLanes (k.rk o.g) t.w).foldl
        (fun fl j => (laneElems t.w j).foldl (fun f i => f ||| (one a b i).2) fl) 0)

def semVsel (o : OpV) (s : State) (c x : Nat) : Sem :=
  let k := s.ctx c x
  let t := (etyOf o)
  let m := k.rk (o.vc.setWidth 4)
  let e := elementWise s c x o t t true false 2 fun a b _ i =>
    ⟨if admits m t.w i then elem t.w i a else elem t.w i b, 0⟩
  { e with reads := .k (o.vc.toNat % 16) :: e.reads }

/-- The object of VFINITE's record: its source (R287). -/
def vfiniteObj (o : OpV) : Nat :=
  match o.cls.toNat with
  | 0 => o.va.toNat
  | 1 => 0x800 + o.va.toNat % 32
  | 2 => 0x840 + o.va.toNat % 64
  | _ => 0x880 + o.va.toNat % 64

/-- VFINITE (R177, R178). DESIGN CHOICE: of a signalling NaN it sets no FINV (log 112). -/
def semVfinite (o : OpV) (s : State) (c x : Nat) : Sem :=
  let k := s.ctx c x
  let t := eTy o.ty.toNat (k.nfOf o)
  let bad (a : BitVec 2048) (j : Nat) : Bool := (laneElems t.w j).any fun i => t.nonFinite (elem t.w i a)
  maskWrite o s c x t false (fun a _ j => !bad a j) fun a _ s1 =>
    if (guardLanes (k.rk o.g) t.w).any (bad a) then s1.noteVec c x (vfiniteObj o) else s1

def semVkmov (o : OpV) (s : State) (c x : Nat) : Sem :=
  maskWrite o s c x (etyOf o) false (fun a _ j => elem 32 j a != 0) fun _ _ s1 => s1

/-- The class code of an element (R178). -/
def classCode (f : Fmt) (e : Nat) : Nat :=
  match f.dec e with
  | .nan true => 8
  | .nan false => 9
  | .inf true => 0
  | .inf false => 7
  | .fin neg m _ =>
    if m = 0 then (if neg then 3 else 4)
    else if m < 2 ^ f.m then (if neg then 2 else 5)
    else (if neg then 1 else 6)

def semVclass (o : OpV) (s : State) (c x : Nat) : Sem :=
  let k := s.ctx c x
  let t := eTy o.ty.toNat (k.nfOf o)
  elementWise s c x o t { t with flt := none } false false 2 fun a _ _ i =>
    match t.flt with
    | some f => ⟨classCode f (elem t.w i a % 2 ^ f.w), 0⟩
    | none => ⟨0, 0⟩

/-! Conversions (R179 to R181). -/

/-- The value of va under the source type of a conversion. -/
def Ctx.cvtSrc (k : Ctx) (o : OpV) : BitVec 2048 := k.vaVal o (k.cvtTypes o).1

/-- The elements of part p of a VCVT: destination index and source index (R179). -/
def cvtPart (ws wd p : Nat) : List (Nat × Nat) :=
  let n := 2048 / max ws wd
  (List.range n).map fun i => if ws < wd then (i, p * n + i) else (p * n + i, i)

def semVcvt (o : OpV) (s : State) (c x : Nat) : Sem :=
  let k := s.ctx c x
  let (src, dst) := k.cvtTypes o
  let a := k.cvtSrc o
  let p := bitsOf o.vb 3 0
  let mode := bitsOf o.vc 2 0
  let q := max src.w dst.w / min src.w dst.w
  { reads := vaReads o, las := vaLas o, frees := vaFrees o, writes := [.v o.vd.toNat]
    trap0 := illopIf (q ≤ p)
    eff := fun s1 =>
      let es := (cvtPart src.w dst.w p).filter fun e => admits (k.rk o.g) dst.w e.1
      let rs := es.map fun e =>
        (e.1, convElem src dst mode (o.vc.getLsbD 3) (rstZ k.srseed e.1) (elem src.w e.2 a))
      (s1.emit c x dst o.vd.toNat (k.rv o.vd) rs 4).advanceSeed c x k.srseed }

def semVpack (o : OpV) (s : State) (c x : Nat) : Sem :=
  let k := s.ctx c x
  let (src, dst) := k.cvtTypes o
  let a := k.cvtSrc o
  let b := k.rv o.vb
  let n := 2048 / src.w
  let mode := plainMode (bitsOf o.vc 2 0)
  { reads := .v o.vb.toNat :: vaReads o, las := vaLas o, frees := vaFrees o, writes := [.v o.vd.toNat]
    trap0 := illopIf (dst.w * 2 != src.w)
    eff := fun s1 =>
      let rs := (admitted (k.rk o.g) dst.w (2 * n)).map fun i =>
        (i, convElem src dst mode (o.vc.getLsbD 3) 0 (if i < n then elem src.w i a else elem src.w (i - n) b))
      s1.emit c x dst o.vd.toNat (k.rv o.vd) rs 3 }

def semVunpack (o : OpV) (s : State) (c x : Nat) : Sem :=
  let k := s.ctx c x
  let (src, dst) := k.cvtTypes o
  let a := k.cvtSrc o
  let m := 2048 / dst.w
  let mode := plainMode (bitsOf o.vc 2 0)
  let half (h : Nat) := (admitted (k.rk o.g) dst.w m).map fun i =>
    (i, convElem src dst mode (o.vc.getLsbD 3) 0 (elem src.w (h * m + i) a))
  { reads := vaReads o, las := vaLas o, frees := vaFrees o, writes := [.v o.vd.toNat, .v (o.vd.toNat + 1)]
    trap0 := illopIf (src.w * 2 != dst.w)
    eff := fun s1 =>
      ((s1.emitRaw c x dst o.vd.toNat (k.rv o.vd) (half 0) 3).emitRaw c x dst (o.vd.toNat + 1) (k.rv (o.vd + 1)) (half 1)
        3).emitNote c x dst o.vd.toNat (half 0 ++ half 1) }

/-- VSAT of one element (R181). -/
def vsatElem (t u : ETy) (e : Nat) : FRes :=
  match t.flt, u.flt with
  | some f, some g =>
    let top := (f.ofVal 1 false 0 (g.dec g.maxBits)).bits
    match f.dec e with
    | .nan sg => f.ofNan sg
    | v =>
      let lim := f.dec top
      if 0 < v.cmp lim then ⟨top, 0⟩
      else if v.cmp lim.flip < 0 then ⟨f.signBit true + top, 0⟩
      else ⟨e, 0⟩
  | _, _ => iRes t (clampInt (t.int e) (intMin u.signed u.w) (intMax u.signed u.w))

def semVsat (o : OpV) (s : State) (c x : Nat) : Sem :=
  let k := s.ctx c x
  let t := (etyOf o)
  let u := eTy (bitsOf o.vc 7 4) (k.nfOf o)
  elementWise s c x o t t false false 4 fun a _ _ i => vsatElem t u (elem t.w i a)

/-! Special functions (R182). -/

def semVdiv (o : OpV) (s : State) (c x : Nat) : Sem :=
  vec2 o s c x 8 (fun f m a b => fDiv f m (f.dec a) (f.dec b)) fun t a b =>
    ⟨(idiv t.signed t.w a b).1, (idiv t.signed t.w a b).2.2⟩

/-- A function of one float operand. -/
def vecFun (o : OpV) (s : State) (c x : Nat) (f : Fmt → RMode → FVal → FRes) : Sem :=
  vec1 o s c x 8 (fun t m a => f t m (t.dec a)) fun _ a => ⟨a, 0⟩

def semVsqrt (o : OpV) (s : State) (c x : Nat) : Sem := vecFun o s c x fSqrt
def semVrsqrt (o : OpV) (s : State) (c x : Nat) : Sem := vecFun o s c x fRsqrt
def semVrcp (o : OpV) (s : State) (c x : Nat) : Sem := vecFun o s c x fRcp
def semVexp2 (o : OpV) (s : State) (c x : Nat) : Sem := vecFun o s c x fun f _ a => fExp2 f a
def semVlog2 (o : OpV) (s : State) (c x : Nat) : Sem := vecFun o s c x fun f _ a => fLog2 f a
def semVtanh (o : OpV) (s : State) (c x : Nat) : Sem := vecFun o s c x fun f _ a => fTanh f a

/-! Permutes (R183). -/

/-- A move of whole elements: `f b i` is the source element of element i. -/
def vecMove (o : OpV) (s : State) (c x : Nat) (rb : Bool) (f : ETy → BitVec 2048 → Nat → Nat) : Sem :=
  let t := (etyOf o)
  elementWise s c x o t t rb false 3 fun a b _ i => ⟨elem t.w (f t b i) a, 0⟩

def semVperm (o : OpV) (s : State) (c x : Nat) : Sem := vecMove o s c x true fun t b i => elem t.w i b % t.count
def semVrot (o : OpV) (s : State) (c x : Nat) : Sem := vecMove o s c x false fun t _ i => (i + o.vb.toNat) % t.count

def semVtrans (o : OpV) (s : State) (c x : Nat) : Sem :=
  let k := s.ctx c x
  { vecMove o s c x false fun t _ i => i % k.rows * k.cols t + i / k.rows with
    trap0 := illopIf ((etyOf o).count < k.rows) }

def semVlaneget (o : OpV) (s : State) (c x : Nat) : Sem :=
  let k := s.ctx c x
  let t := (etyOf o)
  let n := o.vb.toNat
  let e := elem t.w n (k.vaVal o t)
  let sd : BitVec 6 := o.vd.setWidth 6
  let v : BitVec 64 := if t.flt.isNone && t.signed then BitVec.ofInt 64 (sgn t.w e) else BitVec.ofNat 64 e
  { reads := vaReads o, las := vaLas o, frees := vaFrees o, writes := [.s sd.toNat]
    eff := fun s1 =>
      if admits (k.rk o.g) t.w n then
        let co := s1.core c
        s1.result c x (.s sd.toNat) (v.setWidth 2048) ((3 * co.vec + co.cor - 1) / co.cor)
      else s1 }

/-! Reductions (R184, R185). -/

/-- The least or greatest element of a set of floats: a NaN counts only when every element is one (R34, R184). -/
def fRed (f : Fmt) (isMax : Bool) (es : List Nat) : FRes :=
  match es with
  | [] => ⟨0, 0⟩
  | e :: rest =>
    let first : FRes := match f.dec e with
      | .nan sg => f.ofNan sg
      | _ => ⟨e, 0⟩
    rest.foldl (fun a e => let r := fMinMax f isMax a.bits e; ⟨r.bits, a.fl ||| r.fl⟩) first

/-- One reduction of a set of elements (R184). -/
def reduceSet (t : ETy) (mode : RMode) (op : Nat) (es : List Nat) : FRes :=
  match t.flt, op with
  | some f, 0 => fSum f mode (es.map f.dec)
  | some f, 1 => fRed f false es
  | some f, _ => fRed f true es
  | none, 0 => iRes t (es.foldl (fun a e => a + (e : Int)) 0)
  | none, 1 => ⟨es.foldl (fun a e => if t.int e < t.int a then e else a) (es.headD 0), 0⟩
  | none, 2 => ⟨es.foldl (fun a e => if t.int a < t.int e then e else a) (es.headD 0), 0⟩
  | none, 3 => ⟨es.foldl (· &&& ·) (2 ^ t.w - 1), 0⟩
  | none, _ => ⟨es.foldl (· ||| ·) 0, 0⟩

/-- A reduction into elements 0 to n − 1 of vd, element r from the elements `set r` of va; the others are zero. -/
def vecRed (o : OpV) (s : State) (c x n : Nat) (set : Nat → List Nat) : Sem :=
  let t := (etyOf o)
  let m := (s.ctx c x).mode
  elementWise s c x o t t false false 6 fun a _ _ i =>
    if i < n then reduceSet t m (bitsOf o.vb 2 0) ((set i).map fun j => elem t.w j a) else ⟨0, 0⟩

def semVrowred (o : OpV) (s : State) (c x : Nat) : Sem :=
  let k := s.ctx c x
  let cols := k.cols (etyOf o)
  { vecRed o s c x k.rows (fun r => (List.range cols).map fun i => r * cols + i) with
    trap0 := illopIf ((etyOf o).count < k.rows) }

def semVcolred (o : OpV) (s : State) (c x : Nat) : Sem :=
  let k := s.ctx c x
  let cols := k.cols (etyOf o)
  { vecRed o s c x cols (fun e => (List.range k.rows).map fun r => r * cols + e) with
    trap0 := illopIf ((etyOf o).count < k.rows) }

def semVallred (o : OpV) (s : State) (c x : Nat) : Sem :=
  vecRed o s c x 1 fun _ => List.range (etyOf o).count

/-! Each instruction alone in a bundle (R144). -/

/-- VADD alone in a bundle, issued by the context in turn. -/
def execVadd (o : OpV) (s : State) : Host.Outcome State Fault Refusal :=
  issueOne (if o.u then .vb else .va) (.vadd o) o.g (semVadd o) s

/-- VSUB alone in a bundle, issued by the context in turn. -/
def execVsub (o : OpV) (s : State) : Host.Outcome State Fault Refusal :=
  issueOne (if o.u then .vb else .va) (.vsub o) o.g (semVsub o) s

/-- VMUL alone in a bundle, issued by the context in turn. -/
def execVmul (o : OpV) (s : State) : Host.Outcome State Fault Refusal :=
  issueOne (if o.u then .vb else .va) (.vmul o) o.g (semVmul o) s

/-- VFMA alone in a bundle, issued by the context in turn. -/
def execVfma (o : OpV) (s : State) : Host.Outcome State Fault Refusal :=
  issueOne (if o.u then .vb else .va) (.vfma o) o.g (semVfma o) s

/-- VFMS alone in a bundle, issued by the context in turn. -/
def execVfms (o : OpV) (s : State) : Host.Outcome State Fault Refusal :=
  issueOne (if o.u then .vb else .va) (.vfms o) o.g (semVfms o) s

/-- VFNMA alone in a bundle, issued by the context in turn. -/
def execVfnma (o : OpV) (s : State) : Host.Outcome State Fault Refusal :=
  issueOne (if o.u then .vb else .va) (.vfnma o) o.g (semVfnma o) s

/-- VMIN alone in a bundle, issued by the context in turn. -/
def execVmin (o : OpV) (s : State) : Host.Outcome State Fault Refusal :=
  issueOne (if o.u then .vb else .va) (.vmin o) o.g (semVmin o) s

/-- VMAX alone in a bundle, issued by the context in turn. -/
def execVmax (o : OpV) (s : State) : Host.Outcome State Fault Refusal :=
  issueOne (if o.u then .vb else .va) (.vmax o) o.g (semVmax o) s

/-- VABS alone in a bundle, issued by the context in turn. -/
def execVabs (o : OpV) (s : State) : Host.Outcome State Fault Refusal :=
  issueOne (if o.u then .vb else .va) (.vabs o) o.g (semVabs o) s

/-- VNEG alone in a bundle, issued by the context in turn. -/
def execVneg (o : OpV) (s : State) : Host.Outcome State Fault Refusal :=
  issueOne (if o.u then .vb else .va) (.vneg o) o.g (semVneg o) s

/-- VMULHI alone in a bundle, issued by the context in turn. -/
def execVmulhi (o : OpV) (s : State) : Host.Outcome State Fault Refusal :=
  issueOne (if o.u then .vb else .va) (.vmulhi o) o.g (semVmulhi o) s

/-- VSCALE alone in a bundle, issued by the context in turn. -/
def execVscale (o : OpV) (s : State) : Host.Outcome State Fault Refusal :=
  issueOne (if o.u then .vb else .va) (.vscale o) o.g (semVscale o) s

/-- VAND alone in a bundle, issued by the context in turn. -/
def execVand (o : OpV) (s : State) : Host.Outcome State Fault Refusal :=
  issueOne (if o.u then .vb else .va) (.vand o) o.g (semVand o) s

/-- VOR alone in a bundle, issued by the context in turn. -/
def execVor (o : OpV) (s : State) : Host.Outcome State Fault Refusal :=
  issueOne (if o.u then .vb else .va) (.vor o) o.g (semVor o) s

/-- VXOR alone in a bundle, issued by the context in turn. -/
def execVxor (o : OpV) (s : State) : Host.Outcome State Fault Refusal :=
  issueOne (if o.u then .vb else .va) (.vxor o) o.g (semVxor o) s

/-- VNOT alone in a bundle, issued by the context in turn. -/
def execVnot (o : OpV) (s : State) : Host.Outcome State Fault Refusal :=
  issueOne (if o.u then .vb else .va) (.vnot o) o.g (semVnot o) s

/-- VSHL alone in a bundle, issued by the context in turn. -/
def execVshl (o : OpV) (s : State) : Host.Outcome State Fault Refusal :=
  issueOne (if o.u then .vb else .va) (.vshl o) o.g (semVshl o) s

/-- VSHR alone in a bundle, issued by the context in turn. -/
def execVshr (o : OpV) (s : State) : Host.Outcome State Fault Refusal :=
  issueOne (if o.u then .vb else .va) (.vshr o) o.g (semVshr o) s

/-- VSHA alone in a bundle, issued by the context in turn. -/
def execVsha (o : OpV) (s : State) : Host.Outcome State Fault Refusal :=
  issueOne (if o.u then .vb else .va) (.vsha o) o.g (semVsha o) s

/-- VMOV alone in a bundle, issued by the context in turn. -/
def execVmov (o : OpV) (s : State) : Host.Outcome State Fault Refusal :=
  issueOne (if o.u then .vb else .va) (.vmov o) o.g (semVmov o) s

/-- VBCAST alone in a bundle, issued by the context in turn. -/
def execVbcast (o : OpV) (s : State) : Host.Outcome State Fault Refusal :=
  issueOne (if o.u then .vb else .va) (.vbcast o) o.g (semVbcast o) s

/-- VIOTA alone in a bundle, issued by the context in turn. -/
def execViota (o : OpV) (s : State) : Host.Outcome State Fault Refusal :=
  issueOne (if o.u then .vb else .va) (.viota o) o.g (semViota o) s

/-- VHASH alone in a bundle, issued by the context in turn. -/
def execVhash (o : OpV) (s : State) : Host.Outcome State Fault Refusal :=
  issueOne (if o.u then .vb else .va) (.vhash o) o.g (semVhash o) s

/-- VCMP alone in a bundle, issued by the context in turn. -/
def execVcmp (o : OpV) (s : State) : Host.Outcome State Fault Refusal :=
  issueOne (if o.u then .vb else .va) (.vcmp o) o.g (semVcmp o) s

/-- VSEL alone in a bundle, issued by the context in turn. -/
def execVsel (o : OpV) (s : State) : Host.Outcome State Fault Refusal :=
  issueOne (if o.u then .vb else .va) (.vsel o) o.g (semVsel o) s

/-- VFINITE alone in a bundle, issued by the context in turn. -/
def execVfinite (o : OpV) (s : State) : Host.Outcome State Fault Refusal :=
  issueOne (if o.u then .vb else .va) (.vfinite o) o.g (semVfinite o) s

/-- VKMOV alone in a bundle, issued by the context in turn. -/
def execVkmov (o : OpV) (s : State) : Host.Outcome State Fault Refusal :=
  issueOne (if o.u then .vb else .va) (.vkmov o) o.g (semVkmov o) s

/-- VCLASS alone in a bundle, issued by the context in turn. -/
def execVclass (o : OpV) (s : State) : Host.Outcome State Fault Refusal :=
  issueOne (if o.u then .vb else .va) (.vclass o) o.g (semVclass o) s

/-- VCVT alone in a bundle, issued by the context in turn. -/
def execVcvt (o : OpV) (s : State) : Host.Outcome State Fault Refusal :=
  issueOne (if o.u then .vb else .va) (.vcvt o) o.g (semVcvt o) s

/-- VPACK alone in a bundle, issued by the context in turn. -/
def execVpack (o : OpV) (s : State) : Host.Outcome State Fault Refusal :=
  issueOne (if o.u then .vb else .va) (.vpack o) o.g (semVpack o) s

/-- VUNPACK alone in a bundle, issued by the context in turn. -/
def execVunpack (o : OpV) (s : State) : Host.Outcome State Fault Refusal :=
  issueOne (if o.u then .vb else .va) (.vunpack o) o.g (semVunpack o) s

/-- VSAT alone in a bundle, issued by the context in turn. -/
def execVsat (o : OpV) (s : State) : Host.Outcome State Fault Refusal :=
  issueOne (if o.u then .vb else .va) (.vsat o) o.g (semVsat o) s

/-- VDIV alone in a bundle, issued by the context in turn. -/
def execVdiv (o : OpV) (s : State) : Host.Outcome State Fault Refusal :=
  issueOne (if o.u then .vb else .va) (.vdiv o) o.g (semVdiv o) s

/-- VSQRT alone in a bundle, issued by the context in turn. -/
def execVsqrt (o : OpV) (s : State) : Host.Outcome State Fault Refusal :=
  issueOne (if o.u then .vb else .va) (.vsqrt o) o.g (semVsqrt o) s

/-- VRSQRT alone in a bundle, issued by the context in turn. -/
def execVrsqrt (o : OpV) (s : State) : Host.Outcome State Fault Refusal :=
  issueOne (if o.u then .vb else .va) (.vrsqrt o) o.g (semVrsqrt o) s

/-- VRCP alone in a bundle, issued by the context in turn. -/
def execVrcp (o : OpV) (s : State) : Host.Outcome State Fault Refusal :=
  issueOne (if o.u then .vb else .va) (.vrcp o) o.g (semVrcp o) s

/-- VEXP2 alone in a bundle, issued by the context in turn. -/
def execVexp2 (o : OpV) (s : State) : Host.Outcome State Fault Refusal :=
  issueOne (if o.u then .vb else .va) (.vexp2 o) o.g (semVexp2 o) s

/-- VLOG2 alone in a bundle, issued by the context in turn. -/
def execVlog2 (o : OpV) (s : State) : Host.Outcome State Fault Refusal :=
  issueOne (if o.u then .vb else .va) (.vlog2 o) o.g (semVlog2 o) s

/-- VTANH alone in a bundle, issued by the context in turn. -/
def execVtanh (o : OpV) (s : State) : Host.Outcome State Fault Refusal :=
  issueOne (if o.u then .vb else .va) (.vtanh o) o.g (semVtanh o) s

/-- VPERM alone in a bundle, issued by the context in turn. -/
def execVperm (o : OpV) (s : State) : Host.Outcome State Fault Refusal :=
  issueOne (if o.u then .vb else .va) (.vperm o) o.g (semVperm o) s

/-- VROT alone in a bundle, issued by the context in turn. -/
def execVrot (o : OpV) (s : State) : Host.Outcome State Fault Refusal :=
  issueOne (if o.u then .vb else .va) (.vrot o) o.g (semVrot o) s

/-- VTRANS alone in a bundle, issued by the context in turn. -/
def execVtrans (o : OpV) (s : State) : Host.Outcome State Fault Refusal :=
  issueOne (if o.u then .vb else .va) (.vtrans o) o.g (semVtrans o) s

/-- VLANEGET alone in a bundle, issued by the context in turn. -/
def execVlaneget (o : OpV) (s : State) : Host.Outcome State Fault Refusal :=
  issueOne (if o.u then .vb else .va) (.vlaneget o) o.g (semVlaneget o) s

/-- VROWRED alone in a bundle, issued by the context in turn. -/
def execVrowred (o : OpV) (s : State) : Host.Outcome State Fault Refusal :=
  issueOne (if o.u then .vb else .va) (.vrowred o) o.g (semVrowred o) s

/-- VCOLRED alone in a bundle, issued by the context in turn. -/
def execVcolred (o : OpV) (s : State) : Host.Outcome State Fault Refusal :=
  issueOne (if o.u then .vb else .va) (.vcolred o) o.g (semVcolred o) s

/-- VALLRED alone in a bundle, issued by the context in turn. -/
def execVallred (o : OpV) (s : State) : Host.Outcome State Fault Refusal :=
  issueOne (if o.u then .vb else .va) (.vallred o) o.g (semVallred o) s

end Sys2Proof.Machine
end

