-- ==== Sys2Proof/Machine/Bundle.lean ====
section
/-! DEFINITION. The issue of whole bundles (R47, R144): the meaning of each slot, the fetch, and the steps that a context's
next issue, a bundle of NOPs and a bundle of PLOG alone take. -/

namespace Sys2Proof.Machine

/-- The guard and the meaning of a slot instruction; none for NOP, and for a step that is no slot instruction. -/
def semOf (i : Instr) : Option (BitVec 4 × (State → Nat → Nat → Sem)) :=
  match i with
  | .add o => some (o.g, semAdd o)
  | .sub o => some (o.g, semSub o)
  | .addi o => some (o.g, semAddi o)
  | .mul o => some (o.g, semMul o)
  | .mulh o => some (o.g, semMulh o)
  | .mulhn o => some (o.g, semMulhn o)
  | .div o => some (o.g, semDiv o)
  | .divn o => some (o.g, semDivn o)
  | .rem o => some (o.g, semRem o)
  | .remn o => some (o.g, semRemn o)
  | .and o => some (o.g, semAnd o)
  | .or o => some (o.g, semOr o)
  | .xor o => some (o.g, semXor o)
  | .andi o => some (o.g, semAndi o)
  | .ori o => some (o.g, semOri o)
  | .xori o => some (o.g, semXori o)
  | .shl o => some (o.g, semShl o)
  | .shr o => some (o.g, semShr o)
  | .sha o => some (o.g, semSha o)
  | .shli o => some (o.g, semShli o)
  | .shri o => some (o.g, semShri o)
  | .shai o => some (o.g, semShai o)
  | .roti o => some (o.g, semRoti o)
  | .min o => some (o.g, semMin o)
  | .max o => some (o.g, semMax o)
  | .minn o => some (o.g, semMinn o)
  | .maxn o => some (o.g, semMaxn o)
  | .clz o => some (o.g, semClz o)
  | .popc o => some (o.g, semPopc o)
  | .movi o => some (o.g, semMovi o)
  | .movhi o => some (o.g, semMovhi o)
  | .cmp o => some (o.g, semCmp o)
  | .cmpi o => some (o.g, semCmpi o)
  | .sel o => some (o.g, semSel o)
  | .bfx o => some (o.g, semBfx o)
  | .bfi o => some (o.g, semBfi o)
  | .fadd o => some (o.g, semFadd o)
  | .fmul o => some (o.g, semFmul o)
  | .ffma o => some (o.g, semFfma o)
  | .fcmp o => some (o.g, semFcmp o)
  | .fcvt o => some (o.g, semFcvt o)
  | .kmov o => some (o.g, semKmov o)
  | .kget o => some (o.g, semKget o)
  | .kpopc o => some (o.g, semKpopc o)
  | .setshape o => some (o.g, semSetshape o)
  | .widf o => some (o.g, semWidf o)
  | .br o => some (o.g, semBr o)
  | .bri o => some (o.g, semBri o)
  | .call o => some (o.g, semCall o)
  | .ret o => some (o.g, semRet o)
  | .loop o => some (o.g, semLoop o)
  | .timer o => some (o.g, semTimer o)
  | .sysrd o => some (o.g, semSysrd o)
  | .syswr o => some (o.g, semSyswr o)
  | .vadd o => some (o.g, semVadd o)
  | .vsub o => some (o.g, semVsub o)
  | .vmul o => some (o.g, semVmul o)
  | .vfma o => some (o.g, semVfma o)
  | .vfms o => some (o.g, semVfms o)
  | .vfnma o => some (o.g, semVfnma o)
  | .vmin o => some (o.g, semVmin o)
  | .vmax o => some (o.g, semVmax o)
  | .vabs o => some (o.g, semVabs o)
  | .vneg o => some (o.g, semVneg o)
  | .vcmp o => some (o.g, semVcmp o)
  | .vsel o => some (o.g, semVsel o)
  | .vand o => some (o.g, semVand o)
  | .vor o => some (o.g, semVor o)
  | .vxor o => some (o.g, semVxor o)
  | .vnot o => some (o.g, semVnot o)
  | .vshl o => some (o.g, semVshl o)
  | .vshr o => some (o.g, semVshr o)
  | .vsha o => some (o.g, semVsha o)
  | .vcvt o => some (o.g, semVcvt o)
  | .vscale o => some (o.g, semVscale o)
  | .vclass o => some (o.g, semVclass o)
  | .vbcast o => some (o.g, semVbcast o)
  | .vmov o => some (o.g, semVmov o)
  | .vmulhi o => some (o.g, semVmulhi o)
  | .vsat o => some (o.g, semVsat o)
  | .vhash o => some (o.g, semVhash o)
  | .vfinite o => some (o.g, semVfinite o)
  | .viota o => some (o.g, semViota o)
  | .vkmov o => some (o.g, semVkmov o)
  | .vdiv o => some (o.g, semVdiv o)
  | .vsqrt o => some (o.g, semVsqrt o)
  | .vrsqrt o => some (o.g, semVrsqrt o)
  | .vrcp o => some (o.g, semVrcp o)
  | .vexp2 o => some (o.g, semVexp2 o)
  | .vlog2 o => some (o.g, semVlog2 o)
  | .vtanh o => some (o.g, semVtanh o)
  | .vperm o => some (o.g, semVperm o)
  | .vtrans o => some (o.g, semVtrans o)
  | .vrowred o => some (o.g, semVrowred o)
  | .vcolred o => some (o.g, semVcolred o)
  | .vallred o => some (o.g, semVallred o)
  | .vrot o => some (o.g, semVrot o)
  | .vpack o => some (o.g, semVpack o)
  | .vunpack o => some (o.g, semVunpack o)
  | .vlaneget o => some (o.g, semVlaneget o)
  | .cube o => some (o.g, semCube o)
  | .mresume o => some (o.g, semMresume o)
  | .mresumeAbandon o => some (o.g, semMresumeAbandon o)
  | .mpusha o => some (o.g, semMpusha o)
  | .mpushb o => some (o.g, semMpushb o)
  | .mstep o => some (o.g, semMstep o)
  | .mdrain o => some (o.g, semMdrain o)
  | .mzero o => some (o.g, semMzero o)
  | .mouter o => some (o.g, semMouter o)
  | .mrdacc o => some (o.g, semMrdacc o)
  | .mwracc o => some (o.g, semMwracc o)
  | .mscacc o => some (o.g, semMscacc o)
  | .mrenorm o => some (o.g, semMrenorm o)
  | .mexp o => some (o.g, semMexp o)
  | .mexpW o => some (o.g, semMexpW o)
  | .mfmt o => some (o.g, semMfmt o)
  | .mprog o => some (o.g, semMprog o)
  | .ldg o => some (o.g, semLdg o)
  | .ldgv o => some (o.g, semLdgv o)
  | .ldgx o => some (o.g, semLdgx o)
  | .ldv o => some (o.g, semLdv o)
  | .ldvv o => some (o.g, semLdvv o)
  | .ldvs o => some (o.g, semLdvs o)
  | .ldvx o => some (o.g, semLdvx o)
  | .wld o => some (o.g, semWld o)
  | .wldv o => some (o.g, semWldv o)
  | .lda o => some (o.g, semLda o)
  | .ldk o => some (o.g, semLdk o)
  | .dld o => some (o.g, semDld o)
  | .stg o => some (o.g, semStg o)
  | .stgv o => some (o.g, semStgv o)
  | .stgx o => some (o.g, semStgx o)
  | .stv o => some (o.g, semStv o)
  | .stvv o => some (o.g, semStvv o)
  | .stvs o => some (o.g, semStvs o)
  | .stvx o => some (o.g, semStvx o)
  | .stl o => some (o.g, semStl o)
  | .stk o => some (o.g, semStk o)
  | .dst o => some (o.g, semDst o)
  | .cebase o => some (o.g, semCebase o)
  | .celvl o => some (o.g, semCelvl o)
  | .celen o => some (o.g, semCelen o)
  | .cego o => some (o.g, semCego o)
  | .ceidx o => some (o.g, semCeidx o)
  | .ceidxv o => some (o.g, semCeidxv o)
  | .ceidxend o => some (o.g, semCeidxend o)
  | .cestat o => some (o.g, semCestat o)
  | .cecancel o => some (o.g, semCecancel o)
  | .ceresume o => some (o.g, semCeresume o)
  | .cefab o => some (o.g, semCefab o)
  | .fork o => some (o.g, semFork o)
  | .join o => some (o.g, semJoin o)
  | .joinPark o => some (o.g, semJoinPark o)
  | .exit o => some (o.g, semExit o)
  | .yield o => some (o.g, semYield o)
  | .ckpt o => some (o.g, semCkpt o)
  | .spawn o => some (o.g, semSpawn o)
  | .kill o => some (o.g, semKill o)
  | .killL o => some (o.g, semKillL o)
  | .binit o => some (o.g, semBinit o)
  | .barr o => some (o.g, semBarr o)
  | .bwait o => some (o.g, semBwait o)
  | .cewait o => some (o.g, semCewait o)
  | .fence o => some (o.g, semFence o)
  | .gred o => some (o.g, semGred o)
  | .aadd o => some (o.g, semAadd o)
  | .amin o => some (o.g, semAmin o)
  | .amax o => some (o.g, semAmax o)
  | .aand o => some (o.g, semAand o)
  | .aor o => some (o.g, semAor o)
  | .axor o => some (o.g, semAxor o)
  | .aswp o => some (o.g, semAswp o)
  | .acas o => some (o.g, semAcas o)
  | .vaadd o => some (o.g, semVaadd o)
  | .vaor o => some (o.g, semVaor o)
  | .dmode o => some (o.g, semDmode o)
  | .dreg o => some (o.g, semDreg o)
  | .tapemk o => some (o.g, semTapemk o)
  | .tune o => some (o.g, semTune o)
  | .clkdiv o => some (o.g, semClkdiv o)
  | .ballastOff o => some (o.g, semBallastOff o)
  | .ballastLevel o => some (o.g, semBallastLevel o)
  | .ballastAuto o => some (o.g, semBallastAuto o)
  | .trap o => some (o.g, semTrap o)
  | .eret o => some (o.g, semEret o)
  | .statq o => some (o.g, semStatq o)
  | .waitt o => some (o.g, semWaitt o)
  | .event o => some (o.g, semEvent o)
  | .steptag o => some (o.g, semSteptag o)
  | .steptagW o => some (o.g, semSteptagW o)
  | _ => none

/-- The slots of a bundle at the context's present issue (R50, R62). A stopped CUBE that restarts with it comes first
(R273). -/
def slotParts (b : Bundle) (c x : Nat) (s : State) : List Part :=
  (if (s.ctx c x).restart then [{ sl := .mx, on := true, g := 0, sem := restartSem s c x }] else [])
    ++ (b.slotsAt (s.ctx c x).rep).filterMap fun p => (semOf p.2).map fun m => part s c x p.1 m.1 m.2

/-- The bundle of NOPs, and of PLOG alone. -/
def idleBundle : Bundle := Bundle.single .s (.nop .s)
def plogBundle (op : BitVec 3) (kd ka kb : BitVec 4) : Bundle :=
  { idleBundle with plogop := op, plogd := kd, ploga := ka, plogb := kb }

/-! Fetch. -/

/-- What a fetch comes to: a bundle; 512 bits whose encoding is none, with their trap; its page is not in the µTLB; a trap;
data that cannot be corrected, at a physical address. -/
inductive Fetch
  | run (b : Bundle)
  | bad (t : TrapReq) (w : Nat)
  | miss
  | fault (t : TrapReq)
  | poison (pa : Nat)
deriving DecidableEq, Repr

/-- The slot against which ILLOP of a bundle with an unassigned opcode is recorded (R76): an earlier slot whose fields are
reserved comes first. -/
def badOpcode (f : Form) (w j : Nat) (sl : Slot) : Slot :=
  let before := (Slot.all.takeWhile (· != sl)).filterMap fun t => (decodeSlot t (slotOfBundle w t)).map fun i => (t, i)
  let b : Bundle := { rep := w % 64, step := w / 2 ^ 6 % 256, plogop := 0, plogd := 0, ploga := 0, plogb := 0, slots := before }
  (illSlot b f j).getD sl

/-- A bundle of 512 bits at issue j. -/
def fetched (f : Form) (w j : Nat) : Fetch :=
  match decodeBundle w with
  | .ok b => .run b
  | .error .illb => .bad ⟨2, 0, 0⟩ w
  | .error (.illop sl) => .bad ⟨1, (badOpcode f w j sl).idx, 0⟩ w

/-- The bundle at the context's pc (R47, R389), which memory holds as it stands. Registers and fabric windows hold no
bundles. -/
def State.fetch (s : State) (c x : Nat) : Fetch :=
  let pc := (s.ctx c x).pc
  match s.xlate c 0 x (s.asid c x) (s.supv c x) (s.core c).utlb pc false true with
  | .miss => .miss
  | .bad code => .fault ⟨code, 0, pc⟩
  | .ok pa =>
    if isReg pa || isFabric pa then .fault ⟨9, 0, pc⟩
    else if s.poisoned pa 64 then .poison pa
    else fetched s.form (s.rd pa 64) (s.ctx c x).rep

/-- A fetch meets the errors of its words (R377). -/
def State.fetchMeets (s : State) (c x : Nat) : State :=
  match s.xlate c 0 x (s.asid c x) (s.supv c x) (s.core c).utlb (s.ctx c x).pc false true with
  | .ok pa => if isReg pa || isFabric pa then s else s.meetAll [(pa, 64)]
  | _ => s

/-- A group that has ended although its context returned to it (R148), whether or not its bundle decodes: the following
bundle is next. -/
def State.skipEnded (s : State) (c x : Nat) : State :=
  match s.fetch c x with
  | .run b => if b.rep < (s.ctx c x).rep then s.modCtx c x Ctx.groupEnd else s
  | .bad _ w => if w % 64 < (s.ctx c x).rep then s.modCtx c x Ctx.groupEnd else s
  | _ => s

/-- An attempt of a context to issue its next bundle. -/
def State.tryIssue (s0 : State) (c x : Nat) : State :=
  let s1 := s0.skipEnded c x
  let s := s1.fetchMeets c x
  let k := s.ctx c x
  match s.fetch c x with
  | .run b => issueBundle s c x b (slotParts b c x)
  | .bad t _ => takeTrap (settle s c x) c x t
  | .fault t => takeTrap (settle s c x) c x t
  | .poison pa =>
    let t := settle s c x
    let known := s.latent == s1.latent
    takeTrap (if known && homeStack pa < 4 then t.countUe (homeStack pa) (ueMem pa) else t) c x ⟨0x10, 0, k.pc⟩
  | .miss =>
    ((settle s c x).askTlb c 0 x (s.asid c x) k.pc false true).modCtx c x fun k => k.countFrz .land

/-- Whether a context has a bundle to issue: it holds a strand that is not being saved or restored, and has no branch cycle
to spend. -/
def Ctx.ready (k : Ctx) : Bool := k.strand.isSome && k.save.isNone && k.restore.isNone && k.bubble == 0

/-- BUNDLE_ISSUE (R144). -/
def execBundleIssue (c x : Nat) (s : State) : Host.Outcome State Fault Refusal :=
  if s.hasCore c ∧ x < 2 then
    .next (if (s.ctx c x).ready then State.tryIssue { s with cur := (c, x) } c x else s)
  else .fault .noUnit

/-- NOP (R50): alone in a bundle of the context in turn, one cycle (R67). -/
def execNop (_sl : Slot) (s : State) : Host.Outcome State Fault Refusal :=
  .next (issueBundle s s.cur.1 s.cur.2 idleBundle fun _ => [])

/-- PLOG (R61): alone in a bundle of the context in turn. -/
def execPlog (op : BitVec 3) (kd ka kb : BitVec 4) (s : State) : Host.Outcome State Fault Refusal :=
  .next (issueBundle s s.cur.1 s.cur.2 (plogBundle op kd ka kb) fun _ => [])

/-! A program's first bundle (log 6). -/

/-- A context that is about to fetch: it holds a strand, its own or else one whose record is at the start of the fifth HBM
megabyte, and waits for nothing. Its pc keeps the bits that a bundle address may have. -/
def Ctx.atFetch (k : Ctx) : Ctx :=
  { k with
    strand := match k.strand with
      | some t => some t
      | none => some { slot := 0x8000500000, wid := 0, launch := 0, hdr := 0, pjoin := 0, out := 0, fault := 0, kill := 0 }
    pc := k.pc &&& 0x00FFFFFFFFFFFFC0
    rep := 0
    bubble := 0
    save := none
    restore := none
    restart := false }

/-- The bundle w placed where context 0 of core 0 fetches next: the context about to fetch, its page in the µTLB, the bytes
in HBM, and the issue next on the agenda. -/
def State.placeBundle (s : State) (w : Nat) : State :=
  let k := (s.ctx 0 0).atFetch
  let va := bitsOf k.pc 56 12 * 4096
  let s1 := s.setCtx 0 0 k
  let e : TlbEnt := { asid := s1.asid 0 0, va := va, size := 4096, pa := 0x8000000000 + va % 2 ^ 30, w := true, u := true, x := true }
  let s2 := s1.modCore 0 fun q => { q with utlb := e :: q.utlb }
  let s3 := s2.wr (0x8000000000 + bitsOf k.pc 56 0 % 2 ^ 30) 64 w
  { s3 with agenda := .bundleIssue 0 0 :: s3.agenda }

/-! Current weights (R154). -/

/-- The opcode of a slot instruction. -/
def opcodeOf (i : Instr) : Nat :=
  match encodeSlot i with
  | some (_, w) => w / 2 ^ 54 % 64
  | none => 0

/-- A step of the matrix domain over n layers with format weight fw. -/
def stepWeight (n fw : Nat) : Nat := (5 * n * fw + 1) / 2

/-- The weight of a vector operation by its opcode: special functions; permutations; bitwise operations, moves, compares and
the class operations, which R34 names (VCLASS, VFINITE); arithmetic. -/
def vecWeight (op : Nat) : Nat :=
  if 0x20 ≤ op ∧ op ≤ 0x26 then 8
  else if op = 0x27 ∨ op = 0x28 ∨ (0x2C ≤ op ∧ op ≤ 0x2F) then 4
  else if (0x0B ≤ op ∧ op ≤ 0x13) ∨ (0x16 ≤ op ∧ op ≤ 0x18) ∨ (0x1C ≤ op ∧ op ≤ 0x1E) then 3
  else if op = 0x09 ∨ op = 0x0A then Config.weight op
  else 6

/-- The weight of a slot with a true guard (R154, R252). -/
def slotWeight (s : State) (c x : Nat) (sl : Slot) (i : Instr) (m : Sem) : Nat :=
  let op := opcodeOf i
  let k := s.ctx c x
  match sl with
  | .s => if (4 ≤ op ∧ op ≤ 0x0A) ∨ (0x25 ≤ op ∧ op ≤ 0x29) then 2 else 1
  | .va | .vb => vecWeight op
  | .ld | .st => if m.near then 4 else 2
  | .ce => 1
  | .sy => if 0x18 ≤ op ∧ op ≤ 0x21 then 2 else 1
  | .mx =>
    match i with
    | .mstep o => stepWeight (layersOf o.mask.toNat).length (weightOf (widthG o.af.toNat (k.rf o.fa.toNat) (k.rf o.fb.toNat)))
    | .mouter o => stepWeight 1 (if o.ty.toNat = 5 ∨ o.ty.toNat = 8 then 2 else 4)
    | _ => if op ≤ 2 ∨ 0x0E ≤ op then 2 else 6

/-- The weight of a bundle's issue: its base, and its slots with true guards. -/
def bundleWeight (b : Bundle) (s : State) (c x : Nat) : Nat :=
  1 + ((b.slotsAt (s.ctx c x).rep).map fun p =>
    match semOf p.2 with
    | some m =>
      if guardOn p.1 ((s.ctx c x).rk m.1) then slotWeight s c x p.1 p.2 (m.2 s c x) else 0
    | none => 0).sum

end Sys2Proof.Machine
end

