-- ==== Sys2Proof/Machine/Clock.lean ====
section
/-! DEFINITION. The core cycle (R128, R155), and the passing of time: what is due at each reference cycle, and what may come
about in it (R446, log 4). -/

namespace Sys2Proof.Machine

/-! The core cycle. -/

/-- The units that the sequencer's next beat reads, which its context's bundle sees (R192, R262). -/
def State.seqUnits (s : State) (c : Nat) : List Nat :=
  match (s.core c).seq with
  | some q =>
    if q.born < s.now then
      match (q.d.stream q.start)[q.beat]? with
      | some it => (q.d.itemUnits it).map (·.2)
      | none => []
    else []
  | none => []

/-- The weight of the sequencer's next beat (R154). -/
def seqWeight (q : Seq) : Nat :=
  match q.op with
  | .cubeStep d _ _ _ => stepWeight d.layers d.fw
  | _ => 6

/-- A cycle in which a context has no bundle to issue: idle, being restored, being saved (R138), or in the extra cycle of a
taken branch (R68). -/
def Ctx.emptyCycle (k : Ctx) : Ctx :=
  let k1 : Ctx := { k with issued := false }
  if k.strand.isNone || k.restore.isSome then { k1 with frozen := none }
  else if k.save.isSome then k1.countFrz .sync
  else if k.bubble ≠ 0 then { k1 with bubble := k.bubble - 1, cyc := k.cyc + 1, issued := true }
  else k1

/-- The empty cycle of a context: in the extra cycle of a branch its results land as in any other (R66, R69). A restore
behind a running channel waits under FRZ.SYNC (R138, R248). -/
def State.emptyCycle (s : State) (c x : Nat) : State :=
  let k := s.ctx c x
  if k.restore.isSome && k.frozen == some .sync then s.modCtx c x fun k => { k.countFrz .sync with issued := false }
  else (if k.bubble ≠ 0 then settle s c x else s).modCtx c x Ctx.emptyCycle

/-- What a context does in a cycle: it issues (or traps), is frozen, has its bundle nullified, or has none. -/
inductive Turn
  | rest
  | frozen
  | nullified
  | issues
deriving DecidableEq, Repr

/-- What an attempt from one context state to another has been. -/
def turnOf (before after : Ctx) : Turn :=
  if !before.ready then .rest
  else if after.frozen.isSome then .frozen
  else if after.strand.isSome && after.save.isNone && !after.issued then .nullified
  else .issues

/-- The bundle that a context is about to issue, and the state in which its slots are read. -/
def State.coming (s : State) (c x : Nat) : State × Option Bundle :=
  let s1 := settle (s.skipEnded c x) c x
  match s1.fetch c x with
  | .run b => (s1, some b)
  | _ => (s1, none)

/-- The weight of what a context is about to issue. -/
def State.comingWeight (s : State) (c x : Nat) : Nat :=
  match s.coming c x with
  | (s1, some b) => bundleWeight b s1 c x
  | (_, none) => 1

/-- Banks of the local port that a context's next issue touches with true guards (R128). -/
def State.comingBanks (s : State) (c x : Nat) : List Nat :=
  match s.coming c x with
  | (s1, some b) => (slotParts b c x s1).flatMap fun p => if p.on then p.sem.units.map fun u => u.1 % 128 else []
  | (_, none) => []

/-- The slots that a context's next bundle occupies, and its repeat count, whether or not its encodings are assigned: a slot
counts by its opcode (R128). -/
def State.comingSlots (s : State) (c x : Nat) : List Slot × Nat :=
  match (settle (s.skipEnded c x) c x).fetch c x with
  | .run b => ((b.slots.filter fun p => !p.2.isNop).map (·.1), b.rep)
  | .bad _ w => (Slot.all.filter fun t => slotOfBundle w t / 2 ^ 54 % 64 != 0, w % 64)
  | _ => ([], 0)

/-- Whether the drone's bundle may issue beside the lead's, or alone when the lead issues none (R128). `s` is the state
before the lead's issue, `t` after it. -/
def droneFits (s t : State) (c lead : Nat) (leadIssues seqOn : Bool) : Bool :=
  let d := 1 - lead
  let seqBanks := if seqOn then (s.core c).seqUse.map (· % 128) else []
  let banks := t.comingBanks c d
  let mine := t.comingSlots c d
  let its := s.comingSlots c lead
  let apart (l : List Nat) : Bool := !banks.any l.contains
  if leadIssues then
    apart seqBanks && apart (s.comingBanks c lead) && !mine.1.any its.1.contains && !mine.1.contains .mx
      && mine.2 == 0 && its.2 == 0
  else apart seqBanks

/-- The ballast of a cycle that charges w beside a window of sum S (R314). -/
def Core.ballast (k : Core) (S w : Nat) : Nat :=
  if k.balMode = 0 then 0 else min (k.balF / 16 - w) (k.ilim - S - w)

/-- What the core cycle decides: a core freeze, with its counter, or who issues and whether the sequencer emits. -/
inductive Decision
  | freeze (f : Core → Core)
  | limited
  | go (lead drone seq : Bool) (w : Nat) (withheld limited iss mst : Bool)

/-- The decision of a cycle (R128, R139, R152, R155, R267). `s` has had its idle contexts' cycle and the sequencer's bank
uses published. -/
def decide' (s0 s : State) (c : Nat) : Decision :=
  let k := s0.core c
  let l := k.lead
  let d := 1 - l
  let sL := if (s0.ctx c l).ready then State.tryIssue s c l else s
  let tl := turnOf (s0.ctx c l) (sL.ctx c l)
  let stopped := (sL.core c).frzGov != k.frzGov || (sL.core c).frzClk != k.frzClk
  let q := if (sL.core c).seq.isSome then k.seq.filter fun q => sL.seqRuns c q else none
  match if stopped || q.isSome then s.beatStop c else none with
  | some f => .freeze f
  | none =>
    let sD := if (s0.ctx c d).ready then State.tryIssue sL c d else sL
    let td := turnOf (s0.ctx c d) (sD.ctx c d)
    let S := (k.win.take 31).sum + k.copyCharge
    let wl := (if tl = .issues then s.comingWeight c l else 0) + (match q with | some q => seqWeight q | none => 0)
    let fits := td == .issues && droneFits s sL c l (tl == .issues) q.isSome
    let wd := if fits then sL.comingWeight c d else 0
    let leadWants := tl == .issues || q.isSome
    let both := S + wl + wd ≤ k.ilim
    if both || (leadWants && S + wl ≤ k.ilim) || !(leadWants || fits) then
      let drone := fits && both
      .go (tl != .rest) (td != .rest && (td != .issues || drone)) q.isSome
        (k.copyCharge + wl + (if drone then wd else 0)) (td == .issues && !drone) (fits && !both) (tl == .issues || drone)
        ((sL.ctx c l).frozen == some .land || (sL.ctx c l).frozen == some .scor)
    else .limited

/-- A core cycle: its decision, its counters and charge, and the issues and the beat that follow. -/
def coreCycle (s : State) (c : Nat) : State :=
  let k := s.core c
  let l := k.lead
  let s1 := ((s.emptyCycle c 0).emptyCycle c 1).modCore c fun k => { k with seqUse := s.seqUnits c }
  let held (t : State) : State :=
    if (s.ctx c l).strand.isSome then t.modCluster (clusterOf c) fun q => { q with heldCyc := q.heldCyc + 1 } else t
  match decide' s s1 c with
  | .freeze f => held (s.modCore c fun k => (f k).charge k.copyCharge 0)
  | .limited =>
    (held (s.modCore c fun k => ({ k with frzCur := (k.frzCur + 1) % 2 ^ 64 }).charge k.copyCharge 0)).modPkg fun p =>
      { p with telLimited := true }
  | .go lead drone seq w withheld limited iss mst =>
    let b := k.ballast (k.win.take 31).sum w
    let s2 := held (s1.modCore c fun k =>
      { (k.charge w b) with
        dstarve := (k.dstarve + (if withheld then 1 else 0)) % 2 ^ 64
        iss := k.iss + (if iss then 1 else 0)
        mst := k.mst + (if mst then 1 else 0) })
    let s3 := s2.modPkg fun p => { p with telLimited := p.telLimited || limited, telBallast := p.telBallast || b != 0 }
    { s3 with agenda := (if lead then [.bundleIssue c l] else []) ++ (if drone then [.bundleIssue c (1 - l)] else [])
                ++ (if seq then [.cubeSeqBeat c] else []) ++ s3.agenda }

/-- A core cycle of a crossing's hold: the strands stay where they are. -/
def heldCycle (s : State) (c : Nat) : State :=
  let t := s.modCore c Core.hold
  if (s.ctx c (s.core c).lead).strand.isSome then t.modCluster (clusterOf c) fun q => { q with heldCyc := q.heldCyc + 1 } else t

/-- CORE_CYCLE (R155): one of the hold of a crossing that is being switched (R153, R371), or one in which the core decides. -/
def execCoreCycle (c : Nat) (s : State) : Host.Outcome State Fault Refusal :=
  if s.hasCore c then
    .next ((if (s.core c).holdCyc ≠ 0 then heldCycle s c else if (s.core c).holdUntil ≠ 0 then s else coreCycle s c).modCore c
      fun k => { k with nextCore := s.now + k.cor })
  else .fault .noUnit

/-! The passing of time. -/

/-- The rate correction of PTIME in ppb (R403): software's, or that of the firmware that follows a group, whose last one stays
while PTIME runs free after its group has gone (R436). -/
def Pkg.rate (p : Pkg) : Int := if p.ptimeCfg % 4 = 2 then p.ptimeRate else p.ptimeAdj

/-- One nanosecond of PTIME (R403). A slew of 500 ppm holds it back one in 2,000. -/
def Pkg.nanosecond (p : Pkg) (ns : Nat) : Pkg :=
  if p.ptimeSlew ≠ 0 ∧ ns % 2000 = 0 then { p with ptimeSlew := p.ptimeSlew - 1 }
  else
    let f := ((p.ptimeFrac : Int) + 1000000000 + p.rate).toNat
    { p with ptime := (p.ptime + f / 1000000000) % 2 ^ 64, ptimeFrac := f % 1000000000 }

/-- One reference cycle of a strand's checkpoint timer (R118). -/
def Ctx.countCkpt (k : Ctx) : Ctx :=
  if k.strand.isSome && k.restore.isNone && !k.trapm && k.frozen != some .sync && k.ckpt != 0 then
    { k with ckpt := k.ckpt - 1 }
  else k

/-- Time goes on by one reference cycle of the 4 GHz clock. -/
def State.advanceTime (s : State) : State :=
  let now := s.now + 1
  let p := if now % 4 = 0 then s.pkg.nanosecond (now / 4) else s.pkg
  { s with now := now, pkg := p
           ctxs := s.ctxs.map fun q => if s.isDrone (q.1 / 2) (q.1 % 2) then q else (q.1, q.2.countCkpt) }

/-- The cores of the part. -/
def State.coreList (s : State) : List Nat := (List.range 96).filter s.hasCore

/-- The requests in each core's crossing leave one per vault-die cycle (R371). -/
def State.crossings (s : State) : State :=
  if s.now % 4 = 0 ∧ s.cores.any (fun p => p.2.xing != 0) then
    { s with cores := s.cores.map fun p => (p.1, { p.2 with xing := p.2.xing - 1 }) }
  else s

/-- Whether the outbound request queue of a core with requests under way is full: the spec gives no size, and it is free
(R195, R333, log 7). -/
def State.outQueues (s : State) : State :=
  s.cores.foldl (fun a p =>
    let busy := s.net.any fun m => m.core == p.1
    let (n, b) := if busy then a.pick 2 else (0, a)
    if (n == 1) == p.2.outFull then b else b.modCore p.1 fun k => { k with outFull := n == 1 }) s

/-- The steps that a core owes at this time: its matrix beat, the end of its crossing's switch, or its core cycle. -/
def State.coreDue (s : State) (c : Nat) : List Instr :=
  let k := s.core c
  (if !k.fifo.isEmpty && k.nextBeat ≤ s.now then [.matrixBeat c] else [])
    ++ (if k.holdUntil ≠ 0 && k.holdUntil ≤ s.now then [.crossingRatioSwitch c] else [])
    ++ (if s.inService c && k.nextCore ≤ s.now then [.coreCycle c] else [])
    ++ (if s.now % 4 = 0 then [.heatRefill c] else [])

/-- The rails' steps that are due: they come before the issues of their reference cycle (R338). The cores of a cluster have
switched within 0.25 µs (R310). -/
def State.railsDue (s : State) : List Instr :=
  s.clusterList.flatMap fun q =>
    let k := s.cluster q
    if (k.mstate == 1 || k.mstate == 3) && k.railAt ≤ s.now then [.railCodeStep q]
    else if k.mstate == 2 && s.divisorsDone q && k.divAt + 1000 ≤ s.now then [.railDivisorDone q]
    else []

/-- The rails' steps that may come (R310). -/
def State.railsMay (s : State) : List Instr :=
  (s.clusterList.filter fun q => (s.cluster q).mstate == 2 && s.divisorsDone q && s.now < (s.cluster q).divAt + 1000).map
    fun q => .railDivisorDone q

/-- Whether a strand's checkpoint timer has run out (R118). -/
def State.ckptOut (s : State) (c x : Nat) : Bool :=
  let k := s.ctx c x
  match k.strand with
  | some st =>
    k.ckpt == 0 && (s.hdrOf st).ckpti != 0 && !s.isDrone c x && !k.trapm && k.restore.isNone && k.save.isNone
      && k.frozen != some .sync
  | none => false

/-- Checkpoint timers that have run out, before the issue that would have come next. -/
def State.ckptsDue (s : State) : List Instr :=
  (s.ctxs.filter fun p => s.ckptOut (p.1 / 2) (p.1 % 2)).map fun p => .ckptTimerExpire (p.1 / 2) (p.1 % 2)

/-- Timers that have run out: reservations, fabric re-requests and retries, group drains. -/
def State.timersDue (s : State) : List Instr :=
  (s.units.flatMap fun u => (u.2.resv.filter fun r => r.2 ≤ s.now).map fun r => .atomicReservationExpire u.1 r.1)
  ++ (((s.pkg.holes.map (·.src)).eraseDups.filter fun r =>
        (s.pkg.dueHole r s.now).isSome && mget 0 s.pkg.rereqAt r ≤ s.now).map fun r => .rereqSend r)
  ++ (((s.pkg.sent.zipIdx.filter fun m => m.1.sentAt + 4000 * s.pkg.rto ≤ s.now).map fun m => .rtoExpire m.2).take 1)
  ++ ((s.pkg.groups.filter fun p => p.2.state == 3 && (p.2.deadline ≤ s.now || s.drained p.1)).map fun p => .groupDrainEnd p.1)

/-- The distributor hands a range as soon as it has a target (R334, R335). -/
def State.rangesDue (s : State) : List Instr :=
  (s.pkg.launches.filter fun p => p.2.state == 1 && p.2.nhand < p.2.hdr.total).map fun p => .dispatchRange p.1

/-- What falls due with the boundaries of time: each µs the sensors (R372) with readings from outside, each stack's 10 µs
(R376); with PTIME's µs the ballast and the limiter (R314, R402), its 100 µs (R404) and its dwell periods (R440). -/
def State.boundariesDue (old s : State) : List Instr :=
  let crossed (n : Nat) : Bool := old.pkg.ptime / n != s.pkg.ptime / n
  let out := s.stackList.filter fun t => (s.stk t).released
  (if s.now % 4000 = 0 then s.stackList.map fun t => .sensorSample t ((List.range 216).map fun i => Config.sensor (s.now * 216 + i + t)) else [])
  ++ ((out.filter fun t => (s.now - (s.stk t).releasedAt) % 40000 == 0).map fun t => .sampleBoundary t)
  ++ (if crossed 1000 then s.coreList.flatMap fun c => [.ballastFloorUpdate c, .ilimUpdate c] else [])
  ++ (if crossed 100000 then [.telemetryRecord] else [])
  ++ (if crossed 1000000 then [.slackDwell] else [])

/-! What may come about: its time is not fixed (R445, R446). -/

/-- The step that a message in flight may take. -/
def msgStep (m : Msg) : Instr :=
  match m.st, m.op with
  | _, .phaseReport _ _ => .barrierPhaseReport m.id
  | _, .raceReport _ => .raceReport m.id
  | .replied _ _, _ => .landingArrival m.id
  | .nacked _, _ => .atomicRetry m.id
  | _, .atomic _ _ _ _ _ => .atomicRequest m.id
  | _, .vatom _ _ _ => .vectorAtomicElement m.id
  | _, .accum _ => .adjointAccumulate m.id
  | _, .exch => .adjointExchange m.id
  | _, .binit _ _ _ _ => .barrierRequest m.id
  | _, .barr _ => .barrierRequest m.id
  | _, .bwait _ => .barrierRequest m.id
  | _, .arrive _ => .barrierRequest m.id
  | _, .capture _ _ => if (vaultOf m.pa).isSome then .vaultNetRequest m.id else .hbmRequest m.id
  | _, .gred _ _ _ _ => .gredContribution m.id
  | _, .event _ => .eventPost m.id
  | _, .joinWord _ _ _ => .joinWordUpdate m.id
  | _, _ =>
    if isReg m.pa then .registerWindowAccess m.id
    else if (vaultOf m.pa).isSome then .vaultNetRequest m.id
    else .hbmRequest m.id

/-- The steps that a core may take: copy iterations, saves, restores, and work for an idle context. -/
def State.coreMay (s : State) (c : Nat) : List Instr :=
  (((List.range 4).filter fun ch => s.chanActive c ch).map fun ch => .copyIteration c ch)
  ++ [0, 1].flatMap fun x =>
    let k := s.ctx c x
    (if k.save.isSome then [.strandSaveDone c x] else []) ++ (if k.restore.isSome then [.strandRestore c x] else [])
      ++ (if k.strand.isNone && s.inService c then [.contextTakeWork c x] else [])

/-- The steps that the launches, the TLBs, the event unit and the scrubbers may take. -/
def State.unitsMay (s : State) : List Instr :=
  ((s.pkg.launches.filter fun p => p.2.state == 1).map fun p => .gangAdmit p.1)
  ++ ((s.pkg.launches.filter fun p => p.2.state == 1 || !p.2.used.isEmpty || s.ctxs.any fun k => k.2.preempt == some p.1).map
        fun p => .preemptRequest p.1)
  ++ (s.clusterList.flatMap fun q =>
        let k := s.cluster q
        (if k.misses.any fun m => !m.walking && m.fail.isNone then [.tlbFill q] else [])
          ++ (if k.misses.any (·.walking) then [.pageWalkDone q] else []))
  ++ ((s.servedQueue.map fun q => .lqEntryRead q).toList)
  ++ (if s.pkg.evBuf.isEmpty then [] else [.eventBufferDrain])
  ++ ((s.stackList.filter fun t => (s.stk t).released).map fun t => .stampScrubPass t)
  ++ (if s.stackList.any fun t => (s.stk t).released then
        [.patrolScrub (Config.choice (2 * s.now) % s.coreList.length) (Config.choice (2 * s.now + 1) % 2 ^ 23)]
      else [])

/-- The BXC's next step: a command of its request register (R406), or a step of the bring-up (R408). -/
def State.bxcMay (s : State) : List Instr :=
  (match s.pkg.bxcReq with
    | some pa =>
      match s.rd pa 1 with
      | 1 => [.attest pa]
      | 2 => [.ident pa]
      | 3 => [.mclog pa]
      | 4 => [.fwload pa]
      | _ => []
    | none => [])
  ++ (match s.pkg.boot with
    | 0 => [.bxcFirmwareBoot]
    | 1 => []
    | n =>
      ((s.stackList.filter fun t => !(s.stk t).tested && !(s.stk t).released).map fun t => .stackBringup t)
        ++ ((s.stackList.filter fun t => 4 ≤ n && (s.stk t).repaired && !(s.stk t).released && !(s.stk t).failed).map
            fun t => .stackRelease t)
        ++ (if n = 2 then [.hbmBridgeTraining] else if n = 4 then [.hostLinkTraining] else []))

/-- The first command in progress of each register that takes commands may end, and the bridge may retransmit what it holds: what
does now is free (R386, R390). -/
def State.pkgPass (s : State) : State :=
  let s1 := [0x430, 0x541, 0x543].foldl (fun (t : State) i =>
    match t.pkg.cmds.find? fun a => a.1 == i with
    | some a =>
      let (n, t1) := t.pick 2
      if n = 1 then t1.runCmd a.1 a.2 else t1
    | none => t) s
  s.pkg.brgHoles.foldl (fun t h =>
    let (n, t1) := t.pick 2
    if n = 1 then stepped (execBridgeRetransmission h.1 t1) t1 else t1) s1

/-- A command that the BXC does not know ends with an error (log 8). -/
def State.bxcUnknown (s : State) : State :=
  match s.pkg.bxcReq with
  | some pa => if s.rd pa 1 = 0 ∨ 4 < s.rd pa 1 then s.bxcFail else s
  | none => s

/-- Everything that may come about now. -/
def State.may (s : State) : List Instr :=
  s.bxcMay ++ s.net.map msgStep ++ s.coreList.flatMap s.coreMay ++ s.unitsMay

/-- Reference cycles within which a step that may come about does so (log 98). -/
def patience : Nat := 2 ^ 20

/-- Of the steps that may come about, those that do now: the choice is free (log 4). -/
def State.chosen (s : State) : List Instr → List Instr × State
  | [] => ([], s)
  | i :: t =>
    let (n, s1) := s.pick 2
    let (l, s2) := State.chosen s1 t
    (if n = 1 then i :: l else l, s2)

/-- The steps that come about now of those that may: a free choice, and at the end of each span of patience all of them, so
that what the device promises comes about (R125). DESIGN CHOICE: the manual bounds no such delay (log 98). -/
def State.comeAbout (s : State) (l : List Instr) : List Instr × State :=
  if s.now % patience = 0 then (l, s) else s.chosen l

/-- Work that an idle context does not leave for longer: a child forked beside it issues within 50 ns, and every forked child
runs (R113, R125). -/
def State.takesDue (s : State) : List Instr :=
  if s.now % 128 = 0 then
    s.coreList.flatMap fun c =>
      [0, 1].flatMap fun x => if (s.ctx c x).strand.isNone && s.inService c then [.contextTakeWork c x] else []
  else []

/-- A reference cycle passes: the divisor steps of the last one, then what is due and what comes about is set to happen: the
rails first, then the checkpoint timers and the cores (R118, R338). -/
def State.tick (s : State) : State :=
  let s1 := s.divSteps.advanceTime.crossings.outQueues
  let due := s1.coreList.flatMap s1.coreDue ++ s1.timersDue ++ s.boundariesDue s1 ++ s1.rangesDue ++ s1.takesDue
  let (rails, s2) := s1.bxcUnknown.pkgPass.chosen s1.railsMay
  let (l, s3) := s2.comeAbout s1.may
  { s3 with agenda := s3.agenda ++ s1.railsDue ++ rails ++ s1.ckptsDue ++ due ++ l }

end Sys2Proof.Machine
end

