-- ==== Sys2Proof/Machine/Dispatch.lean ====
section
/-! DEFINITION. The meaning of every instruction and step: one arm per constructor of Instr. -/

namespace Sys2Proof.Machine

def exec (i : Instr) (s : State) : Host.Outcome State Fault Refusal :=
  match i with
  | .add o => Sys2Proof.Machine.execAdd o s
  | .sub o => Sys2Proof.Machine.execSub o s
  | .addi o => Sys2Proof.Machine.execAddi o s
  | .mul o => Sys2Proof.Machine.execMul o s
  | .mulh o => Sys2Proof.Machine.execMulh o s
  | .mulhn o => Sys2Proof.Machine.execMulhn o s
  | .div o => Sys2Proof.Machine.execDiv o s
  | .divn o => Sys2Proof.Machine.execDivn o s
  | .rem o => Sys2Proof.Machine.execRem o s
  | .remn o => Sys2Proof.Machine.execRemn o s
  | .and o => Sys2Proof.Machine.execAnd o s
  | .or o => Sys2Proof.Machine.execOr o s
  | .xor o => Sys2Proof.Machine.execXor o s
  | .andi o => Sys2Proof.Machine.execAndi o s
  | .ori o => Sys2Proof.Machine.execOri o s
  | .xori o => Sys2Proof.Machine.execXori o s
  | .shl o => Sys2Proof.Machine.execShl o s
  | .shr o => Sys2Proof.Machine.execShr o s
  | .sha o => Sys2Proof.Machine.execSha o s
  | .shli o => Sys2Proof.Machine.execShli o s
  | .shri o => Sys2Proof.Machine.execShri o s
  | .shai o => Sys2Proof.Machine.execShai o s
  | .roti o => Sys2Proof.Machine.execRoti o s
  | .min o => Sys2Proof.Machine.execMin o s
  | .max o => Sys2Proof.Machine.execMax o s
  | .minn o => Sys2Proof.Machine.execMinn o s
  | .maxn o => Sys2Proof.Machine.execMaxn o s
  | .clz o => Sys2Proof.Machine.execClz o s
  | .popc o => Sys2Proof.Machine.execPopc o s
  | .movi o => Sys2Proof.Machine.execMovi o s
  | .movhi o => Sys2Proof.Machine.execMovhi o s
  | .cmp o => Sys2Proof.Machine.execCmp o s
  | .cmpi o => Sys2Proof.Machine.execCmpi o s
  | .sel o => Sys2Proof.Machine.execSel o s
  | .bfx o => Sys2Proof.Machine.execBfx o s
  | .bfi o => Sys2Proof.Machine.execBfi o s
  | .fadd o => Sys2Proof.Machine.execFadd o s
  | .fmul o => Sys2Proof.Machine.execFmul o s
  | .ffma o => Sys2Proof.Machine.execFfma o s
  | .fcmp o => Sys2Proof.Machine.execFcmp o s
  | .fcvt o => Sys2Proof.Machine.execFcvt o s
  | .kmov o => Sys2Proof.Machine.execKmov o s
  | .kget o => Sys2Proof.Machine.execKget o s
  | .kpopc o => Sys2Proof.Machine.execKpopc o s
  | .setshape o => Sys2Proof.Machine.execSetshape o s
  | .widf o => Sys2Proof.Machine.execWidf o s
  | .br o => Sys2Proof.Machine.execBr o s
  | .bri o => Sys2Proof.Machine.execBri o s
  | .call o => Sys2Proof.Machine.execCall o s
  | .ret o => Sys2Proof.Machine.execRet o s
  | .loop o => Sys2Proof.Machine.execLoop o s
  | .timer o => Sys2Proof.Machine.execTimer o s
  | .sysrd o => Sys2Proof.Machine.execSysrd o s
  | .syswr o => Sys2Proof.Machine.execSyswr o s
  | .vadd o => Sys2Proof.Machine.execVadd o s
  | .vsub o => Sys2Proof.Machine.execVsub o s
  | .vmul o => Sys2Proof.Machine.execVmul o s
  | .vfma o => Sys2Proof.Machine.execVfma o s
  | .vfms o => Sys2Proof.Machine.execVfms o s
  | .vfnma o => Sys2Proof.Machine.execVfnma o s
  | .vmin o => Sys2Proof.Machine.execVmin o s
  | .vmax o => Sys2Proof.Machine.execVmax o s
  | .vabs o => Sys2Proof.Machine.execVabs o s
  | .vneg o => Sys2Proof.Machine.execVneg o s
  | .vcmp o => Sys2Proof.Machine.execVcmp o s
  | .vsel o => Sys2Proof.Machine.execVsel o s
  | .vand o => Sys2Proof.Machine.execVand o s
  | .vor o => Sys2Proof.Machine.execVor o s
  | .vxor o => Sys2Proof.Machine.execVxor o s
  | .vnot o => Sys2Proof.Machine.execVnot o s
  | .vshl o => Sys2Proof.Machine.execVshl o s
  | .vshr o => Sys2Proof.Machine.execVshr o s
  | .vsha o => Sys2Proof.Machine.execVsha o s
  | .vcvt o => Sys2Proof.Machine.execVcvt o s
  | .vscale o => Sys2Proof.Machine.execVscale o s
  | .vclass o => Sys2Proof.Machine.execVclass o s
  | .vbcast o => Sys2Proof.Machine.execVbcast o s
  | .vmov o => Sys2Proof.Machine.execVmov o s
  | .vmulhi o => Sys2Proof.Machine.execVmulhi o s
  | .vsat o => Sys2Proof.Machine.execVsat o s
  | .vhash o => Sys2Proof.Machine.execVhash o s
  | .vfinite o => Sys2Proof.Machine.execVfinite o s
  | .viota o => Sys2Proof.Machine.execViota o s
  | .vkmov o => Sys2Proof.Machine.execVkmov o s
  | .vdiv o => Sys2Proof.Machine.execVdiv o s
  | .vsqrt o => Sys2Proof.Machine.execVsqrt o s
  | .vrsqrt o => Sys2Proof.Machine.execVrsqrt o s
  | .vrcp o => Sys2Proof.Machine.execVrcp o s
  | .vexp2 o => Sys2Proof.Machine.execVexp2 o s
  | .vlog2 o => Sys2Proof.Machine.execVlog2 o s
  | .vtanh o => Sys2Proof.Machine.execVtanh o s
  | .vperm o => Sys2Proof.Machine.execVperm o s
  | .vtrans o => Sys2Proof.Machine.execVtrans o s
  | .vrowred o => Sys2Proof.Machine.execVrowred o s
  | .vcolred o => Sys2Proof.Machine.execVcolred o s
  | .vallred o => Sys2Proof.Machine.execVallred o s
  | .vrot o => Sys2Proof.Machine.execVrot o s
  | .vpack o => Sys2Proof.Machine.execVpack o s
  | .vunpack o => Sys2Proof.Machine.execVunpack o s
  | .vlaneget o => Sys2Proof.Machine.execVlaneget o s
  | .cube o => Sys2Proof.Machine.execCube o s
  | .mresume o => Sys2Proof.Machine.execMresume o s
  | .mresumeAbandon o => Sys2Proof.Machine.execMresumeAbandon o s
  | .mpusha o => Sys2Proof.Machine.execMpusha o s
  | .mpushb o => Sys2Proof.Machine.execMpushb o s
  | .mstep o => Sys2Proof.Machine.execMstep o s
  | .mdrain o => Sys2Proof.Machine.execMdrain o s
  | .mzero o => Sys2Proof.Machine.execMzero o s
  | .mouter o => Sys2Proof.Machine.execMouter o s
  | .mrdacc o => Sys2Proof.Machine.execMrdacc o s
  | .mwracc o => Sys2Proof.Machine.execMwracc o s
  | .mscacc o => Sys2Proof.Machine.execMscacc o s
  | .mrenorm o => Sys2Proof.Machine.execMrenorm o s
  | .mexp o => Sys2Proof.Machine.execMexp o s
  | .mexpW o => Sys2Proof.Machine.execMexpW o s
  | .mfmt o => Sys2Proof.Machine.execMfmt o s
  | .mprog o => Sys2Proof.Machine.execMprog o s
  | .ldg o => Sys2Proof.Machine.execLdg o s
  | .ldgv o => Sys2Proof.Machine.execLdgv o s
  | .ldgx o => Sys2Proof.Machine.execLdgx o s
  | .ldv o => Sys2Proof.Machine.execLdv o s
  | .ldvv o => Sys2Proof.Machine.execLdvv o s
  | .ldvs o => Sys2Proof.Machine.execLdvs o s
  | .ldvx o => Sys2Proof.Machine.execLdvx o s
  | .wld o => Sys2Proof.Machine.execWld o s
  | .wldv o => Sys2Proof.Machine.execWldv o s
  | .lda o => Sys2Proof.Machine.execLda o s
  | .ldk o => Sys2Proof.Machine.execLdk o s
  | .dld o => Sys2Proof.Machine.execDld o s
  | .stg o => Sys2Proof.Machine.execStg o s
  | .stgv o => Sys2Proof.Machine.execStgv o s
  | .stgx o => Sys2Proof.Machine.execStgx o s
  | .stv o => Sys2Proof.Machine.execStv o s
  | .stvv o => Sys2Proof.Machine.execStvv o s
  | .stvs o => Sys2Proof.Machine.execStvs o s
  | .stvx o => Sys2Proof.Machine.execStvx o s
  | .stl o => Sys2Proof.Machine.execStl o s
  | .stk o => Sys2Proof.Machine.execStk o s
  | .dst o => Sys2Proof.Machine.execDst o s
  | .cebase o => Sys2Proof.Machine.execCebase o s
  | .celvl o => Sys2Proof.Machine.execCelvl o s
  | .celen o => Sys2Proof.Machine.execCelen o s
  | .cego o => Sys2Proof.Machine.execCego o s
  | .ceidx o => Sys2Proof.Machine.execCeidx o s
  | .ceidxv o => Sys2Proof.Machine.execCeidxv o s
  | .ceidxend o => Sys2Proof.Machine.execCeidxend o s
  | .cestat o => Sys2Proof.Machine.execCestat o s
  | .cecancel o => Sys2Proof.Machine.execCecancel o s
  | .ceresume o => Sys2Proof.Machine.execCeresume o s
  | .cefab o => Sys2Proof.Machine.execCefab o s
  | .fork o => Sys2Proof.Machine.execFork o s
  | .join o => Sys2Proof.Machine.execJoin o s
  | .joinPark o => Sys2Proof.Machine.execJoinPark o s
  | .exit o => Sys2Proof.Machine.execExit o s
  | .yield o => Sys2Proof.Machine.execYield o s
  | .ckpt o => Sys2Proof.Machine.execCkpt o s
  | .spawn o => Sys2Proof.Machine.execSpawn o s
  | .kill o => Sys2Proof.Machine.execKill o s
  | .killL o => Sys2Proof.Machine.execKillL o s
  | .binit o => Sys2Proof.Machine.execBinit o s
  | .barr o => Sys2Proof.Machine.execBarr o s
  | .bwait o => Sys2Proof.Machine.execBwait o s
  | .cewait o => Sys2Proof.Machine.execCewait o s
  | .fence o => Sys2Proof.Machine.execFence o s
  | .gred o => Sys2Proof.Machine.execGred o s
  | .aadd o => Sys2Proof.Machine.execAadd o s
  | .amin o => Sys2Proof.Machine.execAmin o s
  | .amax o => Sys2Proof.Machine.execAmax o s
  | .aand o => Sys2Proof.Machine.execAand o s
  | .aor o => Sys2Proof.Machine.execAor o s
  | .axor o => Sys2Proof.Machine.execAxor o s
  | .aswp o => Sys2Proof.Machine.execAswp o s
  | .acas o => Sys2Proof.Machine.execAcas o s
  | .vaadd o => Sys2Proof.Machine.execVaadd o s
  | .vaor o => Sys2Proof.Machine.execVaor o s
  | .dmode o => Sys2Proof.Machine.execDmode o s
  | .dreg o => Sys2Proof.Machine.execDreg o s
  | .tapemk o => Sys2Proof.Machine.execTapemk o s
  | .tune o => Sys2Proof.Machine.execTune o s
  | .clkdiv o => Sys2Proof.Machine.execClkdiv o s
  | .ballastOff o => Sys2Proof.Machine.execBallastOff o s
  | .ballastLevel o => Sys2Proof.Machine.execBallastLevel o s
  | .ballastAuto o => Sys2Proof.Machine.execBallastAuto o s
  | .trap o => Sys2Proof.Machine.execTrap o s
  | .eret o => Sys2Proof.Machine.execEret o s
  | .statq o => Sys2Proof.Machine.execStatq o s
  | .waitt o => Sys2Proof.Machine.execWaitt o s
  | .event o => Sys2Proof.Machine.execEvent o s
  | .steptag o => Sys2Proof.Machine.execSteptag o s
  | .steptagW o => Sys2Proof.Machine.execSteptagW o s
  | .bundleIssue c x => Sys2Proof.Machine.execBundleIssue c x s
  | .landingArrival m => Sys2Proof.Machine.execLandingArrival m s
  | .nop sl => Sys2Proof.Machine.execNop sl s
  | .plog op kd ka kb => Sys2Proof.Machine.execPlog op kd ka kb s
  | .ckptTimerExpire c x => Sys2Proof.Machine.execCkptTimerExpire c x s
  | .strandSaveDone c x => Sys2Proof.Machine.execStrandSaveDone c x s
  | .strandRestore c x => Sys2Proof.Machine.execStrandRestore c x s
  | .contextTakeWork c x => Sys2Proof.Machine.execContextTakeWork c x s
  | .gangAdmit l => Sys2Proof.Machine.execGangAdmit l s
  | .dispatchRange l => Sys2Proof.Machine.execDispatchRange l s
  | .preemptRequest l => Sys2Proof.Machine.execPreemptRequest l s
  | .joinWordUpdate m => Sys2Proof.Machine.execJoinWordUpdate m s
  | .cubeSeqBeat c => Sys2Proof.Machine.execCubeSeqBeat c s
  | .matrixBeat c => Sys2Proof.Machine.execMatrixBeat c s
  | .heatRefill c => Sys2Proof.Machine.execHeatRefill c s
  | .copyIteration c ch => Sys2Proof.Machine.execCopyIteration c ch s
  | .vaultNetRequest m => Sys2Proof.Machine.execVaultNetRequest m s
  | .hbmRequest m => Sys2Proof.Machine.execHbmRequest m s
  | .atomicRequest m => Sys2Proof.Machine.execAtomicRequest m s
  | .atomicRetry m => Sys2Proof.Machine.execAtomicRetry m s
  | .atomicReservationExpire u r => Sys2Proof.Machine.execAtomicReservationExpire u r s
  | .vectorAtomicElement m => Sys2Proof.Machine.execVectorAtomicElement m s
  | .adjointAccumulate m => Sys2Proof.Machine.execAdjointAccumulate m s
  | .adjointExchange m => Sys2Proof.Machine.execAdjointExchange m s
  | .barrierRequest m => Sys2Proof.Machine.execBarrierRequest m s
  | .barrierPhaseReport m => Sys2Proof.Machine.execBarrierPhaseReport m s
  | .gredContribution m => Sys2Proof.Machine.execGredContribution m s
  | .raceReport m => Sys2Proof.Machine.execRaceReport m s
  | .tlbFill q => Sys2Proof.Machine.execTlbFill q s
  | .pageWalkDone q => Sys2Proof.Machine.execPageWalkDone q s
  | .stampScrubPass st => Sys2Proof.Machine.execStampScrubPass st s
  | .patrolScrub v w => Sys2Proof.Machine.execPatrolScrub v w s
  | .crossingRatioSwitch c => Sys2Proof.Machine.execCrossingRatioSwitch c s
  | .railCodeStep q => Sys2Proof.Machine.execRailCodeStep q s
  | .railDivisorDone q => Sys2Proof.Machine.execRailDivisorDone q s
  | .sampleBoundary st => Sys2Proof.Machine.execSampleBoundary st s
  | .sensorSample st temps => Sys2Proof.Machine.execSensorSample st temps s
  | .ballastFloorUpdate c => Sys2Proof.Machine.execBallastFloorUpdate c s
  | .ilimUpdate c => Sys2Proof.Machine.execIlimUpdate c s
  | .eventPost m => Sys2Proof.Machine.execEventPost m s
  | .lqEntryRead q => Sys2Proof.Machine.execLqEntryRead q s
  | .rstStack st => Sys2Proof.Machine.execRstStack st s
  | .stackBringup st => Sys2Proof.Machine.execStackBringup st s
  | .stackRelease st => Sys2Proof.Machine.execStackRelease st s
  | .attest pa => Sys2Proof.Machine.execAttest pa s
  | .ident pa => Sys2Proof.Machine.execIdent pa s
  | .mclog pa => Sys2Proof.Machine.execMclog pa s
  | .fwload pa => Sys2Proof.Machine.execFwload pa s
  | .groupDrainEnd g => Sys2Proof.Machine.execGroupDrainEnd g s
  | .rereqSend r => Sys2Proof.Machine.execRereqSend r s
  | .rtoExpire m => Sys2Proof.Machine.execRtoExpire m s
  | .ranklost r why => Sys2Proof.Machine.execRanklost r why s
  | .coreCycle c => Sys2Proof.Machine.execCoreCycle c s
  | .registerWindowAccess m => Sys2Proof.Machine.execRegisterWindowAccess m s
  | .resultLand c x => Sys2Proof.Machine.execResultLand c x s
  | .telemetryRecord => Sys2Proof.Machine.execTelemetryRecord s
  | .slackDwell => Sys2Proof.Machine.execSlackDwell s
  | .vbusFlitRetry st lane => Sys2Proof.Machine.execVbusFlitRetry st lane s
  | .layerRuntimeFail c layer => Sys2Proof.Machine.execLayerRuntimeFail c layer s
  | .clusterFail q cause => Sys2Proof.Machine.execClusterFail q cause s
  | .stackFail st cause => Sys2Proof.Machine.execStackFail st cause s
  | .eventBufferDrain => Sys2Proof.Machine.execEventBufferDrain s
  | .lqProdWrite q v => Sys2Proof.Machine.execLqProdWrite q v s
  | .pkgKill v => Sys2Proof.Machine.execPkgKill v s
  | .pkgResume v => Sys2Proof.Machine.execPkgResume v s
  | .tlbInvAll q => Sys2Proof.Machine.execTlbInvAll q s
  | .tlbInvAsid q asid => Sys2Proof.Machine.execTlbInvAsid q asid s
  | .tlbInvPage q asid vpn => Sys2Proof.Machine.execTlbInvPage q asid vpn s
  | .pkgTlbinvAll => Sys2Proof.Machine.execPkgTlbinvAll s
  | .pkgTlbinvAsid asid => Sys2Proof.Machine.execPkgTlbinvAsid asid s
  | .pkgTlbinvPage asid vpn => Sys2Proof.Machine.execPkgTlbinvPage asid vpn s
  | .swapreqWrite c => Sys2Proof.Machine.execSwapreqWrite c s
  | .govMinWrite st v => Sys2Proof.Machine.execGovMinWrite st v s
  | .featEnWrite n v => Sys2Proof.Machine.execFeatEnWrite n v s
  | .ptimeOfsWrite v => Sys2Proof.Machine.execPtimeOfsWrite v s
  | .rstWarm => Sys2Proof.Machine.execRstWarm s
  | .rstCold => Sys2Proof.Machine.execRstCold s
  | .powerOn => Sys2Proof.Machine.execPowerOn s
  | .perst => Sys2Proof.Machine.execPerst s
  | .pcieHotReset => Sys2Proof.Machine.execPcieHotReset s
  | .bxcFirmwareBoot => Sys2Proof.Machine.execBxcFirmwareBoot s
  | .hbmBridgeTraining => Sys2Proof.Machine.execHbmBridgeTraining s
  | .hostLinkTraining => Sys2Proof.Machine.execHostLinkTraining s
  | .hostWindowRead pa n => Sys2Proof.Machine.execHostWindowRead pa n s
  | .hostWindowWrite pa n v => Sys2Proof.Machine.execHostWindowWrite pa n v s
  | .bridgeTrimmedHeader m => Sys2Proof.Machine.execBridgeTrimmedHeader m s
  | .grpGo g => Sys2Proof.Machine.execGrpGo g s
  | .groupRetrainDone g ok trimx => Sys2Proof.Machine.execGroupRetrainDone g ok trimx s
  | .rankUpdAll => Sys2Proof.Machine.execRankUpdAll s
  | .rankUpdOne r => Sys2Proof.Machine.execRankUpdOne r s
  | .rwBind w => Sys2Proof.Machine.execRwBind w s
  | .rwUnbind w => Sys2Proof.Machine.execRwUnbind w s
  | .rwSnapshot w => Sys2Proof.Machine.execRwSnapshot w s
  | .write p => Sys2Proof.Machine.execWrite p s
  | .reduce p => Sys2Proof.Machine.execReduce p s
  | .read p => Sys2Proof.Machine.execRead p s
  | .readresp p => Sys2Proof.Machine.execReadresp p s
  | .ack p => Sys2Proof.Machine.execAck p s
  | .rereq p => Sys2Proof.Machine.execRereq p s
  | .result p => Sys2Proof.Machine.execResult p s
  | .resultIncomplete p => Sys2Proof.Machine.execResultIncomplete p s
  | .trimmedHeader p => Sys2Proof.Machine.execTrimmedHeader p s
  | .cxlWriteFail g off => Sys2Proof.Machine.execCxlWriteFail g off s
  | .registerWrite c x idx v => Sys2Proof.Machine.execRegisterWrite c x idx v s
  | .softError place ue => Sys2Proof.Machine.execSoftError place ue s
  | .bridgeRetransmission m => Sys2Proof.Machine.execBridgeRetransmission m s
  | .pkgRootWrite n v => Sys2Proof.Machine.execPkgRootWrite n v s
  | .ptimeCfgWrite v => Sys2Proof.Machine.execPtimeCfgWrite v s
  | .ieee1588EventMessage g t => Sys2Proof.Machine.execIeee1588EventMessage g t s

end Sys2Proof.Machine
end

