-- ==== Sys2Proof/Machine/Step.lean ====
section
/-! DEFINITION. One step of the machine: what is set to happen, else what the outside world does, else the passing of
time; and the placing of a program's first bundle. -/

namespace Sys2Proof.Machine

/-- One step. The agenda comes first, then the oldest input whose time has come, then the next reference cycle. -/
def step (s : State) : Host.Outcome State Fault Refusal :=
  match s.agenda with
  | i :: rest => exec i { s with agenda := rest }
  | [] =>
    match s.inputs with
    | (t, i) :: rest => if t ≤ s.now then exec i { s with inputs := rest } else .next s.tick
    | [] => .next s.tick

/-- The state with a bundle placed where context 0 of core 0 fetches next, and that issue next to happen. -/
def State.withFetchWord (s : State) (nbits w : Nat) : State := s.placeBundle (w % 2 ^ nbits)

end Sys2Proof.Machine
end

