-- ==== Sys2Proof/Safety.lean ====
section
/-! DEFINITION. What counts as a safe run, and the terms in which statements speak of an issue: a context with nothing in
flight, an instruction that is enabled, a value on its way to its register, and what an issue leaves alone. -/

namespace Sys2Proof.Machine

/-- A run of n steps that stops at no fault and no refusal. -/
def Safe (n : Nat) (s : State) : Prop :=
  match n with
  | 0 => True
  | n + 1 => ∃ t, step s = .next t ∧ Safe n t

/-- An outcome is a next state of which something holds. -/
def Gives (r : Host.Outcome State Fault Refusal) (P : State → Prop) : Prop := ∃ t, r = .next t ∧ P t

/-- The context in turn. -/
def State.here (s : State) : Ctx := s.ctx s.cur.1 s.cur.2

/-- Nothing of a context is in flight or owed: no result or local read pending, no marked register, no trap to take, no
branch, and the first issue of a group at which no hardware loop acts. -/
def Ctx.calm (k : Ctx) : Bool :=
  k.pend.isEmpty && k.marks.isEmpty && k.trapNext.isNone && k.target.isNone && !k.leaveTrap && !k.restart
    && k.rep == 0 && !k.loopActs && k.la.all fun p => p.2.due.isNone

/-- The context in turn is calm, of a core of the part, and no fence holds it (R306); the core's sequencer and beat FIFO are
empty. -/
def State.calm (s : State) : Bool :=
  s.here.calm && s.hasCore s.cur.1 && decide (s.cur.2 < 2) && (s.core s.cur.1).seq.isNone && (s.core s.cur.1).fifo.isEmpty
    && !s.fenced s.cur.1 s.cur.2

/-- The encoding is an instruction of the part's form, and its features are there and enabled (R75, R249, R400). -/
def State.enabled (s : State) (i : Instr) : Bool := i.wf && !s.featOff s.cur.1 i

/-- Calm, enabled, and the guard true (R60). -/
def State.runs (s : State) (i : Instr) (sl : Slot) (g : BitVec 4) : Prop :=
  s.calm = true ∧ s.enabled i = true ∧ guardOn sl (s.here.rk g) = true

/-- s0 and k0, which no write changes (R51). -/
def Dst.fixed : Dst → Bool
  | .s r => r == 0
  | .v _ => false
  | .k r => r == 0

/-- A register of a context, as wide as a vector register. -/
def Ctx.reg (k : Ctx) : Dst → BitVec 2048
  | .s r => if r = 0 then 0 else (mget 0 k.s r).setWidth 2048
  | .v r => mget 0 k.v r
  | .k r => if r = 0 then (BitVec.allOnes 64).setWidth 2048 else (mget 0 k.k r).setWidth 2048

/-- What a register holds once every result on its way has landed (R69). -/
def Ctx.hold (k : Ctx) (d : Dst) : BitVec 2048 :=
  if d.fixed then k.reg d
  else match k.pend.find? fun p => p.dst == d with
    | some p => p.val
    | none => k.reg d

/-- Two contexts that agree on everything but their registers S, V and K with what is pending on them, where they go on, and
the marks of progress with the requests and translations of its slots: so on flags, formats, shape, rounding, special, loop, trap and tape
registers, landing slots and freeze counters. -/
def Ctx.restSame (k k1 : Ctx) : Prop :=
  { k1 with
    s := k.s, v := k.v, k := k.k, pend := k.pend, maskAt := k.maskAt, wait := k.wait, xl := k.xl, pc := k.pc
    rep := k.rep, cyc := k.cyc, frozen := k.frozen, issued := k.issued, syncRun := k.syncRun, slackWait := k.slackWait } = k

/-- Every context but the one in turn is as before. -/
def othersSame (s t : State) : Prop := ∀ c x, x < 2 → (c, x) ≠ s.cur → t.ctx c x = s.ctx c x

/-- The machine apart from its contexts is as before: every byte of memory, every core, cluster, stack, the package and the
fabric, every message. -/
def machineSame (s t : State) : Prop := { t with ctxs := s.ctxs } = s

/-- What an issue of the context in turn comes to: the values that registers will hold, the core cycles until they do, what
becomes of the rest of the context and of the machine apart from its contexts, the address at which the context goes on,
that of the next bundle unless one is named, and the registers whose values a reply of a given number will bring. -/
structure Effect where
  regs : List (Dst × BitVec 2048) := []
  lat : Nat := 1
  awaits : List (Dst × Nat) := []
  rest : Ctx → Ctx := id
  mach : State → State := id
  pc : Option (BitVec 64) := none

/-- A register holds its value at the next issue when the latency is 1, else from the cycle that the latency gives (R69); s0 and
k0 keep what they hold. -/
def Ctx.lands (k0 k : Ctx) (d : Dst) (v : BitVec 2048) (lat : Nat) : Prop :=
  d.fixed = true ∨ (if lat ≤ 1 then k.reg d = v else ∃ q ∈ k.pend, q.dst = d ∧ q.val = v ∧ q.mark = none
      ∧ ∃ tm, q.due = .cycle (k0.cyc + lat) tm)

/-- An outcome is a next state that has an effect and no other: each named register will hold its value (s0 and k0 keep what
they hold) after the latency, each awaited one is pending on its reply, every other register holds what it did, the rest of the
context and the machine are as said, every other context is as before, and the context has issued one bundle and awaits the
answer to no request of a slot and holds no translation for one. -/
def Does (s : State) (r : Host.Outcome State Fault Refusal) (e : Effect) : Prop :=
  Gives r fun t =>
    (∀ p ∈ e.regs, t.here.hold p.1 = (if p.1.fixed then s.here.hold p.1 else p.2) ∧ s.here.lands t.here p.1 p.2 e.lat)
      ∧ (∀ p ∈ e.awaits, ∃ q ∈ t.here.pend, q.dst = p.1 ∧ q.due = .reply p.2)
      ∧ (∀ d, d ∉ e.regs.map Prod.fst → d ∉ e.awaits.map Prod.fst → t.here.hold d = s.here.hold d)
      ∧ (e.rest s.here).restSame t.here ∧ othersSame s t ∧ machineSame (e.mach s) t
      ∧ t.here.pc = e.pc.getD (s.here.pc + 64) ∧ t.here.rep = 0 ∧ t.here.cyc = s.here.cyc + 1
      ∧ t.here.wait = [] ∧ t.here.xl = []

/-- An outcome in which register d holds v after n cycles and nothing else is written. -/
def Writes (s : State) (r : Host.Outcome State Fault Refusal) (d : Dst) (v : BitVec 2048) (n : Nat) : Prop :=
  Does s r { regs := [(d, v)], lat := n }

/-- A local access has entered the core's crossing into the vault die (R370). -/
def State.crossed (s : State) : State := s.cross s.cur.1 1

/-- The state after an issue of the context in turn whose effect is f: the effect, then the context's advance (R144). -/
def State.after (s : State) (f : State → State) : State :=
  (f (s.setCtx s.cur.1 s.cur.2 s.here)).modCtx s.cur.1 s.cur.2 fun k => k.advance 0

/-- The context in turn has no message in flight and no translation under way (R198, R329). -/
def State.quiet (s : State) : Prop :=
  (∀ m ∈ s.net, ¬(m.core = s.cur.1 ∧ m.x = s.cur.2))
    ∧ ∀ m ∈ (s.cluster (clusterOf s.cur.1)).misses, ¬(m.core = s.cur.1 ∧ m.unit = 0 ∧ m.x = s.cur.2)

/-- Flags set and nothing cleared (R31). -/
def Ctx.flagged (k : Ctx) (f : BitVec 5) : Ctx := { k with stat := k.stat ||| f }

/-- Landing slots freed (R142). -/
def Ctx.freed (k : Ctx) (ls : List Nat) : Ctx := { k with la := ls.foldl (fun a i => mdel i a) k.la }

/-- Landing slots that may be read: full, at or after their arrival cycle, and unmarked (R142, R145). -/
def Ctx.laReady (k : Ctx) (ls : List Nat) : Prop :=
  ∀ i ∈ ls, (k.slot i).st = .full ∧ (k.slot i).arr ≤ k.cyc ∧ (k.slot i).mark = none

/-- A 64-bit value as a register holds it. -/
def asReg (v : BitVec 64) : BitVec 2048 := v.setWidth 2048

/-! Vector instructions. -/

/-- The slot of a vector instruction. -/
def vslot (o : OpV) : Slot := if o.u then .vb else .va

/-- A vector latency in core cycles (R150). -/
def Core.vecCycles (k : Core) (n : Nat) : Nat := (n * k.vec + k.cor - 1) / k.cor

/-- The elements of a register after an instruction: each element that `f` names and the guard admits has its new value, every
other its old one (R172). -/
def merged (g : BitVec 64) (t : ETy) (old : BitVec 2048) (f : Nat → Option FRes) : BitVec 2048 :=
  joinElems t.w ((List.range t.count).map fun i =>
    match f i with
    | some r => if admits g t.w i then r.bits else elem t.w i old
    | none => elem t.w i old)

/-- The results that are written. -/
def written (g : BitVec 64) (t : ETy) (f : Nat → Option FRes) : List FRes :=
  ((List.range t.count).filter (admits g t.w)).filterMap f

/-- The flags of the elements written (R31), and whether one of them is a non-finite value of a floating type (R172). -/
def flagsOf (rs : List FRes) : BitVec 5 := rs.foldl (fun a r => a ||| r.fl) 0
def anyNonFinite (t : ETy) (rs : List FRes) : Bool := rs.any fun r => t.nonFinite r.bits

/-- NFS.VEC set (R32). -/
def Ctx.noted (k : Ctx) (b : Bool) : Ctx := { k with nfs := k.nfs ||| (if b then 2 else 0) }

/-- The statistics record of a non-finite result, the object `obj` (R288). -/
def State.noted (s : State) (b : Bool) (obj : Nat) : State := if b then s.stat s.cur.1 s.cur.2 1 obj 1 1 s.here.pc else s

/-- The effect of a vector instruction that writes elements of vd: each has the value and the flags of `f`. -/
def vecEffect (s : State) (o : OpV) (t : ETy) (n : Nat) (f : Nat → Option FRes) : Effect :=
  let rs := written (s.here.rk o.g) t f
  { regs := [(.v o.vd.toNat, merged (s.here.rk o.g) t (s.here.rv o.vd) f)]
    lat := (s.core s.cur.1).vecCycles n
    rest := fun k => ((k.freed (vaFrees o)).flagged (flagsOf rs)).noted (anyNonFinite t rs)
    mach := fun s => s.noted (anyNonFinite t rs) o.vd.toNat }

/-- The mask whose bit j is p j. -/
def mask64 (p : Nat → Bool) : BitVec 64 := (List.range 64).foldl (fun m j => if p j then m ||| BitVec.twoPow 64 j else m) 0

/-- The guard bit of lane j, the even lane's for 64-bit types (R169, R176). -/
def laneGuard (g : BitVec 64) (t : ETy) (j : Nat) : Bool := if t.w = 64 then g.getLsbD (j / 2 * 2) else g.getLsbD j

/-- The effect of a vector instruction that writes bits of the mask in vd, with its flags and whether it meets a non-finite
element (R176, R177). -/
def maskEffect (s : State) (o : OpV) (t : ETy) (p : Nat → Bool) (fl : BitVec 5) (bad : Bool) (obj : Nat) : Effect :=
  let old := s.here.rk (o.vd.extractLsb' 0 4)
  { regs := [(.k (o.vd.toNat % 16), asReg (mask64 fun j => if laneGuard (s.here.rk o.g) t j then p j else old.getLsbD j))]
    lat := (s.core s.cur.1).vecCycles 1
    rest := fun k => ((k.freed (vaFrees o)).flagged fl).noted bad
    mach := fun s => s.noted bad obj }

end Sys2Proof.Machine
end

