-- ==== Sys2Proof/Certificates/Slice0/Obligations.lean ====
section
/-! DEFINITION. The statements about the model. A statement about an instruction is about its issue alone in a bundle by a calm
context (`State.runs`); its effect says what changes, and that nothing else does. -/

/-! Slot S. -/

namespace Sys2Proof.Claims

open Sys2Proof.Machine

/-- A register-form instruction of slot S with latency n writes sd with f of its sources and the context, and nothing else. -/
def rr (mk : OpR → Instr) (n : Nat) (f : Ctx → OpR → BitVec 64) : Prop :=
  ∀ (o : OpR) (s : State), s.runs (mk o) .s o.g → Writes s (exec (mk o) s) (.s o.sd.toNat) (asReg (f s.here o)) n

/-- The same of an immediate-form instruction, latency 1. -/
def ri (mk : OpI → Instr) (f : Ctx → OpI → BitVec 64) : Prop :=
  ∀ (o : OpI) (s : State), s.runs (mk o) .s o.g → Writes s (exec (mk o) s) (.s o.sd.toNat) (asReg (f s.here o)) 1

/-- A register-form instruction that sets flags besides. -/
def rf (mk : OpR → Instr) (n : Nat) (f : Ctx → OpR → BitVec 64 × BitVec 5) : Prop :=
  ∀ (o : OpR) (s : State), s.runs (mk o) .s o.g →
    Does s (exec (mk o) s)
      { regs := [(.s o.sd.toNat, asReg (f s.here o).1)], lat := n, rest := fun k => k.flagged (f s.here o).2 }

/-- A compare writes all ones or all zeros into kd, visible to the next issue, and sets flags. -/
def cmp (mk : OpC → Instr) (f : Ctx → OpC → Bool × BitVec 5) : Prop :=
  ∀ (o : OpC) (s : State), s.runs (mk o) .s o.g →
    Does s (exec (mk o) s)
      { regs := [(.k o.kd.toNat, asReg (if (f s.here o).1 then BitVec.allOnes 64 else 0))]
        rest := fun k => k.flagged (f s.here o).2 }

/-- The third source of a compare. -/
def sbOf (o : OpC) : BitVec 6 := o.rest.extractLsb' 30 6

/-- The condition of CMP and CMPI by its code (R160). -/
def holdsInt (cond : Nat) (a b : BitVec 64) : Bool :=
  match cond with
  | 0 => a == b
  | 1 => a != b
  | 2 => a.slt b
  | 3 => a.sle b
  | 4 => b.slt a
  | 5 => b.sle a
  | 6 => a.ult b
  | 7 => a.ule b
  | 8 => b.ult a
  | _ => b.ule a

/-- A quotient or remainder with DIVZ (R16): by zero the quotient is −1 with the dividend's sign, or all ones unsigned, and the
remainder the dividend. -/
def divide (signed quot : Bool) (a b : BitVec 64) : BitVec 64 × BitVec 5 :=
  if b = 0 then
    (if quot then (if signed then (if a.slt 0 then BitVec.allOnes 64 else 0) else BitVec.allOnes 64) else a, Flags.divz)
  else
    (match signed, quot with
     | true, true => BitVec.ofInt 64 (a.toInt.tdiv b.toInt)
     | true, false => BitVec.ofInt 64 (a.toInt.tmod b.toInt)
     | false, true => a / b
     | false, false => a % b, 0)

/-- The float formats of FADD, FMUL and FFMA by type (R161). -/
def scalarFmt (o : OpR) : Fmt := match bitsOf o.md 3 0 with
  | 0 => .f32
  | 1 => .f16
  | _ => .bf16

/-- A float source: the low bits of a scalar (R161). -/
def scalarFloat (k : Ctx) (o : OpR) (r : BitVec 6) : FVal := (scalarFmt o).dec ((k.rs r).toNat % 2 ^ (scalarFmt o).w)

/-- A float result, zero-extended, with its flags. -/
def floatRes (r : FRes) : BitVec 64 × BitVec 5 := (BitVec.ofNat 64 r.bits, r.fl)

end Sys2Proof.Claims

open Sys2Proof Sys2Proof.Machine Sys2Proof.Claims

/-- The register-form integer operations write the value of the table of R157 after its latency, and nothing else; a division
writes the quotient or remainder of R16 and sets DIVZ when the divisor is zero. -/
def Obligations.IntegerOperationsWriteTheirResult : Prop :=
  rr .add 1 (fun k o => k.rs o.sa + k.rs o.sb)
    ∧ rr .sub 1 (fun k o => k.rs o.sa - k.rs o.sb)
    ∧ rr .and 1 (fun k o => k.rs o.sa &&& k.rs o.sb)
    ∧ rr .or 1 (fun k o => k.rs o.sa ||| k.rs o.sb)
    ∧ rr .xor 1 (fun k o => k.rs o.sa ^^^ k.rs o.sb)
    ∧ rr .shl 1 (fun k o => k.rs o.sa <<< (k.rs o.sb).toNat.mod 64)
    ∧ rr .shr 1 (fun k o => k.rs o.sa >>> (k.rs o.sb).toNat.mod 64)
    ∧ rr .sha 1 (fun k o => (k.rs o.sa).sshiftRight ((k.rs o.sb).toNat.mod 64))
    ∧ rr .min 1 (fun k o => if (k.rs o.sa).sle (k.rs o.sb) then k.rs o.sa else k.rs o.sb)
    ∧ rr .max 1 (fun k o => if (k.rs o.sa).sle (k.rs o.sb) then k.rs o.sb else k.rs o.sa)
    ∧ rr .minn 1 (fun k o => if (k.rs o.sa).ule (k.rs o.sb) then k.rs o.sa else k.rs o.sb)
    ∧ rr .maxn 1 (fun k o => if (k.rs o.sa).ule (k.rs o.sb) then k.rs o.sb else k.rs o.sa)
    ∧ rr .clz 1 (fun k o => BitVec.ofNat 64 ((List.range 64).takeWhile fun i => !(k.rs o.sa).getMsbD i).length)
    ∧ rr .popc 1 (fun k o => BitVec.ofNat 64 ((List.range 64).countP fun i => (k.rs o.sa).getLsbD i))
    ∧ rr .sel 1 (fun k o => if (k.rk (o.md.extractLsb' 0 4)).getLsbD 0 then k.rs o.sa else k.rs o.sb)
    ∧ rr .mul 3 (fun k o => k.rs o.sa * k.rs o.sb)
    ∧ rr .mulh 3 (fun k o => ((k.rs o.sa).signExtend 128 * (k.rs o.sb).signExtend 128).extractLsb' 64 64)
    ∧ rr .mulhn 3 (fun k o => ((k.rs o.sa).setWidth 128 * (k.rs o.sb).setWidth 128).extractLsb' 64 64)
    ∧ rf .div 20 (fun k o => divide true true (k.rs o.sa) (k.rs o.sb))
    ∧ rf .divn 20 (fun k o => divide false true (k.rs o.sa) (k.rs o.sb))
    ∧ rf .rem 20 (fun k o => divide true false (k.rs o.sa) (k.rs o.sb))
    ∧ rf .remn 20 (fun k o => divide false false (k.rs o.sa) (k.rs o.sb))

/-- The immediate-form operations and the bit fields write the values of R158 and R159 at once, and nothing else. -/
def Obligations.ImmediateOperationsWriteTheirResult : Prop :=
  ri .addi (fun k o => k.rs o.sa + o.imm.signExtend 64)
    ∧ ri .andi (fun k o => k.rs o.sa &&& o.imm.signExtend 64)
    ∧ ri .ori (fun k o => k.rs o.sa ||| o.imm.signExtend 64)
    ∧ ri .xori (fun k o => k.rs o.sa ^^^ o.imm.signExtend 64)
    ∧ ri .shli (fun k o => k.rs o.sa <<< o.imm.toNat)
    ∧ ri .shri (fun k o => k.rs o.sa >>> o.imm.toNat)
    ∧ ri .shai (fun k o => (k.rs o.sa).sshiftRight o.imm.toNat)
    ∧ ri .roti (fun k o => (k.rs o.sa).rotateRight o.imm.toNat)
    ∧ ri .movi (fun _ o => o.imm.signExtend 64)
    ∧ ri .movhi (fun k o => o.imm ++ (k.rs o.sa).extractLsb' 0 32)
    ∧ ri .bfx (fun k o =>
        let len := bitsOf o.imm 13 8 + 1
        let f := (k.rs o.sa).extractLsb' (bitsOf o.imm 5 0) len
        if o.imm.getLsbD 16 then f.signExtend 64 else f.setWidth 64)
    ∧ ri .bfi (fun k o =>
        let pos := bitsOf o.imm 5 0
        let mask := (BitVec.allOnes (bitsOf o.imm 13 8 + 1)).setWidth 64 <<< pos
        (k.rs o.sd &&& ~~~mask) ||| (k.rs o.sa <<< pos &&& mask))

/-- CMP and CMPI write all ones into kd when the condition of R160 holds and all zeros when it does not; FCMP compares the F32
values and sets the flags of R34. -/
def Obligations.ComparesWriteWholeMasks : Prop :=
  cmp .cmp (fun k o => (holdsInt o.cond.toNat (k.rs o.sa) (k.rs (sbOf o)), 0))
    ∧ cmp .cmpi (fun k o => (holdsInt o.cond.toNat (k.rs o.sa) (o.rest.signExtend 64), 0))
    ∧ cmp .fcmp (fun k o =>
        fCompare o.cond.toNat (Fmt.f32.dec ((k.rs o.sa).toNat % 2 ^ 32)) (Fmt.f32.dec ((k.rs (sbOf o)).toNat % 2 ^ 32)))

/-- FADD, FMUL, FFMA and FCVT write one rounded result after four cycles, with the flags of its rounding (R161, R162). Where
the manual leaves a choice, the model's: logs 9, 10, 11 and 23. -/
def Obligations.ScalarFloatsRoundOnce : Prop :=
  rf .fadd 4 (fun k o => floatRes (fAdd (scalarFmt o) k.mode (scalarFloat k o o.sa) (scalarFloat k o o.sb)))
    ∧ rf .fmul 4 (fun k o => floatRes (fMul (scalarFmt o) k.mode (scalarFloat k o o.sa) (scalarFloat k o o.sb)))
    ∧ rf .ffma 4 (fun k o => floatRes (fFma (scalarFmt o) k.mode (scalarFloat k o o.sa) (scalarFloat k o o.sb)
        (scalarFloat k o (o.md.extractLsb' 4 6))))
    ∧ rf .fcvt 4 (fun k o =>
        let src := eTy (bitsOf o.md 7 4) .f32
        let dst := eTy (bitsOf o.md 3 0) .f32
        cvtScalar k.mode src dst (src == dst && src.flt.isSome) (o.md.getLsbD 8) (k.rs o.sa))

/-- KMOV, KGET and KPOPC move masks and scalars, WIDF reads a field of the strand's place in its launch, TIMER reads the
context's cycle count, the cluster's count of reference cycles or the package time, and SETSHAPE sets SHAPE (R112, R163, R164). -/
def Obligations.MaskShapeAndTimeInstructions : Prop :=
  (∀ (o : OpR) (s : State), s.runs (.kmov o) .s o.g →
      Writes s (exec (.kmov o) s) (.k (o.sd.extractLsb' 0 4).toNat) (asReg (s.here.rs o.sa)) 1)
    ∧ rr .kget 1 (fun k o => k.rk (o.sa.extractLsb' 0 4))
    ∧ rr .kpopc 1 (fun k o => BitVec.ofNat 64 ((List.range 64).countP fun i => (k.rk (o.sa.extractLsb' 0 4)).getLsbD i))
    ∧ (∀ (o : OpR) (s : State), s.runs (.timer o) .s o.g →
        Writes s (exec (.timer o) s) (.s o.sd.toNat)
          (asReg (BitVec.ofNat 64 (match o.md.toNat with
            | 0 => s.here.cyc
            | 1 => s.refCount s.cur.1
            | _ => if s.form = .s then 0 else s.pkg.ptime))) 1)
    ∧ (∀ (o : OpI) (s : State), s.runs (.setshape o) .s o.g →
        Does s (exec (.setshape o) s) { rest := fun k => { k with shape := o.imm.toNat } })
    ∧ (∀ (o : OpI) (s : State) (st : Strand), s.runs (.widf o) .s o.g → s.here.strand = some st →
        let h := s.hdrOf st
        let w := st.wid.toNat
        let a := o.aux.toNat
        Writes s (exec (.widf o) s) (.s o.sd.toNat)
          (asReg (BitVec.ofNat 64 (if a ≤ 5 then h.field w a
            else if a ≤ 13 then h.ext (a - 8)
            else if a = 16 then w
            else if a = 17 then h.index w h.glev
            else if a = 18 then h.gang
            else s.cur.1 + (if s.isDrone s.cur.1 s.cur.2 then 128 else 0)))) 1)

/-- BR and RET go to sa with bits 5:0 ignored, BRI and CALL to the branching bundle's address plus 64 times the offset; CALL
writes the address of the next bundle to its link register. A taken branch costs one cycle more. LOOP sets LOOP.END and LOOP.CNT
and branches past its body when the count is zero (R68, R165, R167). -/
def Obligations.BranchesAndLoopsGoToTheirTarget : Prop :=
  (∀ (o : OpR) (s : State), s.runs (.br o) .s o.g →
      Does s (exec (.br o) s)
        { rest := fun k => { k with bubble := 1 }, pc := some (s.here.rs o.sa &&& 0xFFFFFFFFFFFFFFC0) })
    ∧ (∀ (o : OpR) (s : State), s.runs (.ret o) .s o.g →
      Does s (exec (.ret o) s)
        { rest := fun k => { k with bubble := 1 }, pc := some (s.here.rs o.sa &&& 0xFFFFFFFFFFFFFFC0) })
    ∧ (∀ (o : OpB) (s : State), s.runs (.bri o) .s o.g →
      Does s (exec (.bri o) s)
        { rest := fun k => { k with bubble := 1 }
          pc := some ((s.here.pc + o.off.signExtend 64 * 64) &&& 0xFFFFFFFFFFFFFFC0) })
    ∧ (∀ (o : OpB) (s : State), s.runs (.call o) .s o.g →
      Does s (exec (.call o) s)
        { regs := [(.s o.sl.toNat, asReg (s.here.pc + 64))]
          rest := fun k => { k with bubble := 1 }
          pc := some ((s.here.pc + o.off.signExtend 64 * 64) &&& 0xFFFFFFFFFFFFFFC0) })
    ∧ (∀ (o : OpI) (s : State), s.runs (.loop o) .s o.g →
      let last := s.here.pc + 64 * o.imm.setWidth 64
      let n := (s.here.rs o.sa).extractLsb' 0 40
      Does s (exec (.loop o) s)
        { rest := fun k =>
            { k with loopEnd := last, loopCnt := o.imm.extractLsb' 0 24 ++ n, bubble := if n = 0 then 1 else k.bubble }
          pc := if n = 0 then some ((last + 64) &&& 0xFFFFFFFFFFFFFFC0) else none })

/-! Slots VA and VB. -/

namespace Sys2Proof.Claims

/-- A vector instruction writes elements of vd: under `ok`, with latency n in vector cycles, of type `t`. -/
def vec (mk : OpV → Instr) (n : Nat) (ok : Ctx → OpV → Prop) (t : Ctx → OpV → ETy) (f : Ctx → OpV → Nat → Option FRes) : Prop :=
  ∀ (o : OpV) (s : State), s.runs (mk o) (vslot o) o.g → s.here.laReady (vaLas o) → ok s.here o →
    Does s (exec (mk o) s) (vecEffect s o (t s.here o) n (f s.here o))

/-- The usual form: the element type of the type field, on any operands. -/
def elems (mk : OpV → Instr) (n : Nat) (f : Ctx → OpV → Nat → FRes) : Prop :=
  vec mk n (fun _ _ => True) (fun _ o => etyOf o) fun k o i => some (f k o i)

/-- Element i of va, vb and vc. -/
def ea (k : Ctx) (o : OpV) (i : Nat) : Nat := elem (etyOf o).w i (k.vaVal o (etyOf o))
def eb (k : Ctx) (o : OpV) (i : Nat) : Nat := elem (etyOf o).w i (k.rv o.vb)
def ec (k : Ctx) (o : OpV) (i : Nat) : Nat := elem (etyOf o).w i (k.rv o.vc)

/-- An element result by type: `ff` for floats, `fi` for integers of w bits. -/
def byType (o : OpV) (ff : Fmt → FRes) (fi : Nat → Int) : FRes :=
  match (etyOf o).flt with
  | some f => ff f
  | none => ⟨((fi (etyOf o).w) % 2 ^ (etyOf o).w).toNat, 0⟩

/-- The integer value of an element, signed by the type. -/
def iv (o : OpV) (e : Nat) : Int := (etyOf o).int e

/-- A bit pattern without flags. -/
def bits (n : Nat) : FRes := ⟨n, 0⟩

/-- The conversion of an element under the control word of vc, with RST index j where `st`. -/
def convert (k : Ctx) (o : OpV) (st : Bool) (e j : Nat) : FRes :=
  let (src, dst) := k.cvtTypes o
  if st then convElem src dst (bitsOf o.vc 2 0) (o.vc.getLsbD 3) (rstZ k.srseed j) e
  else convElem src dst (plainMode (bitsOf o.vc 2 0)) (o.vc.getLsbD 3) 0 e

/-- Element i of va and of vb as the source type of a conversion. -/
def ca (k : Ctx) (o : OpV) (i : Nat) : Nat := elem (k.cvtTypes o).1.w i (k.vaVal o (k.cvtTypes o).1)
def cb (k : Ctx) (o : OpV) (i : Nat) : Nat := elem (k.cvtTypes o).1.w i (k.rv o.vb)

/-- Rows do not exceed the elements (R169). -/
def fits (k : Ctx) (o : OpV) : Prop := k.rows ≤ (etyOf o).count

/-- A compare's two elements. -/
def vcmpAt (k : Ctx) (o : OpV) (i : Nat) : Bool × BitVec 5 :=
  let t := eTy o.ty.toNat (k.nfOf o)
  vcmpElem t (bitsOf o.vc 2 0) (elem t.w i (k.vaVal o t)) (elem t.w i (k.rv o.vb))

end Sys2Proof.Claims

/-- The arithmetic of R173 writes each admitted element of vd with its own value, rounded once or wrapped, and its own flags,
leaves every other element, and records a non-finite element. -/
def Obligations.VectorArithmeticIsElementwise : Prop :=
  elems .vadd 4 (fun k o i => byType o (fun f => fAdd f k.mode (f.dec (ea k o i)) (f.dec (eb k o i)))
      fun _ => iv o (ea k o i) + iv o (eb k o i))
    ∧ elems .vsub 4 (fun k o i => byType o (fun f => fAdd f k.mode (f.dec (ea k o i)) (f.dec (eb k o i)).flip)
      fun _ => iv o (ea k o i) - iv o (eb k o i))
    ∧ elems .vmul 4 (fun k o i => byType o (fun f => fMul f k.mode (f.dec (ea k o i)) (f.dec (eb k o i)))
      fun _ => iv o (ea k o i) * iv o (eb k o i))
    ∧ elems .vfma 4 (fun k o i => byType o
        (fun f => fFma f k.mode (f.dec (ea k o i)) (f.dec (eb k o i)) (f.dec (ec k o i)))
        fun _ => iv o (ea k o i) * iv o (eb k o i) + iv o (ec k o i))
    ∧ elems .vfms 4 (fun k o i => byType o
        (fun f => fFma f k.mode (f.dec (ea k o i)) (f.dec (eb k o i)) (f.dec (ec k o i)).flip)
        fun _ => iv o (ea k o i) * iv o (eb k o i) - iv o (ec k o i))
    ∧ elems .vfnma 4 (fun k o i => byType o
        (fun f => fFma f k.mode (f.dec (ea k o i)).flip (f.dec (eb k o i)) (f.dec (ec k o i)))
        fun _ => iv o (ec k o i) - iv o (ea k o i) * iv o (eb k o i))
    ∧ elems .vmin 4 (fun k o i => byType o (fun f => fMinMax f false (ea k o i) (eb k o i))
        fun _ => min (iv o (ea k o i)) (iv o (eb k o i)))
    ∧ elems .vmax 4 (fun k o i => byType o (fun f => fMinMax f true (ea k o i) (eb k o i))
        fun _ => max (iv o (ea k o i)) (iv o (eb k o i)))
    ∧ elems .vabs 4 (fun k o i => byType o (fun f => signOp f (ea k o i) (ea k o i % 2 ^ (f.w - 1)))
        fun _ => (iv o (ea k o i)).natAbs)
    ∧ elems .vneg 4 (fun k o i => byType o (fun f => signOp f (ea k o i) (ea k o i ^^^ 2 ^ (f.w - 1)))
        fun _ => -iv o (ea k o i))
    ∧ elems .vmulhi 4 (fun k o i => byType o (fun _ => bits (ea k o i))
        fun w => iv o (ea k o i) * iv o (eb k o i) / 2 ^ w)
    ∧ elems .vscale 4 (fun k o i => byType o
        (fun f => fScale f k.mode (f.dec (ea k o i)) (clampInt (sgn f.w (eb k o i)) (-1024) 1024)) fun _ => ea k o i)

/-- The logical operations, shifts and moves act on the bit pattern of each admitted element (R174, R175, R177). -/
def Obligations.VectorLogicAndMovesActOnBitPatterns : Prop :=
  elems .vand 2 (fun k o i => bits (ea k o i &&& eb k o i))
    ∧ elems .vor 2 (fun k o i => bits (ea k o i ||| eb k o i))
    ∧ elems .vxor 2 (fun k o i => bits (ea k o i ^^^ eb k o i))
    ∧ elems .vnot 2 (fun k o i => bits (2 ^ (etyOf o).w - 1 - ea k o i))
    ∧ elems .vshl 2 (fun k o i => bits (ea k o i * 2 ^ (eb k o i % (etyOf o).w) % 2 ^ (etyOf o).w))
    ∧ elems .vshr 2 (fun k o i => bits (ea k o i / 2 ^ (eb k o i % (etyOf o).w)))
    ∧ elems .vsha 2 (fun k o i => bits
        (sgn (etyOf o).w (ea k o i) / 2 ^ (eb k o i % (etyOf o).w) % 2 ^ (etyOf o).w).toNat)
    ∧ elems .vmov 2 (fun k o i => bits (ea k o i))
    ∧ vec .vbcast 2 (fun k o => fits k o ∧ o.vb.toNat < k.rows) (fun _ o => etyOf o)
        (fun k o i => some (bits (ea k o (o.vb.toNat * k.cols (etyOf o) + i % k.cols (etyOf o)))))
    ∧ elems .viota 2 (fun k o i => bits ((ea k o i + i) % 2 ^ (etyOf o).w))
    ∧ elems .vhash 4 (fun k o i => bits
        (if (etyOf o).w = 32 then (hash32 (ea k o i) (eb k o i)).toNat else (hash64 (ea k o i) (eb k o i)).toNat))
    ∧ elems .vsel 2 (fun k o i => bits
        (if (k.rk (o.vc.extractLsb' 0 4)).getLsbD ((etyOf o).w * i / 32) then ea k o i else eb k o i))

/-- VCMP, VFINITE and VKMOV write the bits of a mask that the guard admits and keep the others; VFINITE records a non-finite
element of a guarded lane (R176, R177). -/
def Obligations.VectorComparesWriteGuardedMaskBits : Prop :=
  (∀ (o : OpV) (s : State), s.runs (.vcmp o) (vslot o) o.g → s.here.laReady (vaLas o) →
      let t := eTy o.ty.toNat (s.here.nfOf o)
      let k := s.here
      Does s (exec (.vcmp o) s)
        (maskEffect s o t
          (fun j => if o.vc.getLsbD 3 then (laneElems t.w j).any fun i => (vcmpAt k o i).1
            else (laneElems t.w j).all fun i => (vcmpAt k o i).1)
          (((List.range 64).filter (laneGuard (k.rk o.g) t)).foldl
            (fun f j => (laneElems t.w j).foldl (fun f i => f ||| (vcmpAt k o i).2) f) 0) false 0))
    ∧ (∀ (o : OpV) (s : State), s.runs (.vfinite o) (vslot o) o.g → s.here.laReady (vaLas o) →
      let t := eTy o.ty.toNat (s.here.nfOf o)
      let bad (j : Nat) : Bool := (laneElems t.w j).any fun i => t.nonFinite (elem t.w i (s.here.vaVal o t))
      Does s (exec (.vfinite o) s)
        (maskEffect s o t (fun j => !bad j) 0 (((List.range 64).filter (laneGuard (s.here.rk o.g) t)).any bad) (vfiniteObj o)))
    ∧ (∀ (o : OpV) (s : State), s.runs (.vkmov o) (vslot o) o.g → s.here.laReady (vaLas o) →
      Does s (exec (.vkmov o) s)
        (maskEffect s o (etyOf o) (fun j => elem 32 j (s.here.vaVal o (etyOf o)) != 0) 0 false 0))

/-- VCVT converts the elements of its part and advances SRSEED; VPACK narrows two registers into one and VUNPACK widens one
into two; VSAT clamps and VCLASS gives class codes (R178 to R181). Where the manual leaves a choice, the model's: logs 8, 9,
10, 11, 17 and 23. -/
def Obligations.VectorConversionsConvertEachElement : Prop :=
  (∀ (o : OpV) (s : State), s.runs (.vcvt o) (vslot o) o.g → s.here.laReady (vaLas o) →
      let (src, dst) := s.here.cvtTypes o
      let q := max src.w dst.w / min src.w dst.w
      let p := bitsOf o.vb 3 0
      let n := 2048 / max src.w dst.w
      p < q →
        let e := vecEffect s o dst 4 fun j =>
          if src.w < dst.w then some (convert s.here o true (ca s.here o (p * n + j)) j)
          else if p * n ≤ j ∧ j < p * n + n then some (convert s.here o true (ca s.here o (j - p * n)) j)
          else none
        Does s (exec (.vcvt o) s) { e with rest := fun k => { e.rest k with srseed := k.srseed + 1 } })
    ∧ vec .vpack 3 (fun k o => (k.cvtTypes o).2.w * 2 = (k.cvtTypes o).1.w) (fun k o => (k.cvtTypes o).2)
        (fun k o i =>
          let n := 2048 / (k.cvtTypes o).1.w
          some (convert k o false (if i < n then ca k o i else cb k o (i - n)) i))
    ∧ (∀ (o : OpV) (s : State), s.runs (.vunpack o) (vslot o) o.g → s.here.laReady (vaLas o) →
      let (src, dst) := s.here.cvtTypes o
      let m := 2048 / dst.w
      src.w * 2 = dst.w →
        let half (h i : Nat) : Option FRes := some (convert s.here o false (ca s.here o (h * m + i)) i)
        let g := s.here.rk o.g
        let rs := written g dst (half 0) ++ written g dst (half 1)
        Does s (exec (.vunpack o) s)
          { regs := [(.v o.vd.toNat, merged g dst (s.here.rv o.vd) (half 0)),
                     (.v (o.vd.toNat + 1), merged g dst (s.here.rv (o.vd + 1)) (half 1))]
            lat := (s.core s.cur.1).vecCycles 3
            rest := fun k => ((k.freed (vaFrees o)).flagged (flagsOf rs)).noted (anyNonFinite dst rs)
            mach := fun s => s.noted (anyNonFinite dst rs) o.vd.toNat })
    ∧ elems .vsat 4 (fun k o i => vsatElem (etyOf o) (eTy (bitsOf o.vc 7 4) (k.nfOf o)) (ea k o i))
    ∧ vec .vclass 2 (fun _ _ => True) (fun k o => { eTy o.ty.toNat (k.nfOf o) with flt := none })
        (fun k o i =>
          let t := eTy o.ty.toNat (k.nfOf o)
          (t.flt.map fun f => bits (classCode f (elem t.w i (k.vaVal o t) % 2 ^ f.w))).orElse fun _ => some (bits 0))

/-- The special functions of R182 round each element's exact result once. Where the manual leaves a choice, the model's: log
15. -/
def Obligations.SpecialFunctionsRoundEachElement : Prop :=
  elems .vdiv 8 (fun k o i =>
      match (etyOf o).flt with
      | some f => fDiv f k.mode (f.dec (ea k o i)) (f.dec (eb k o i))
      | none => ⟨(idiv (etyOf o).signed (etyOf o).w (ea k o i) (eb k o i)).1,
                 (idiv (etyOf o).signed (etyOf o).w (ea k o i) (eb k o i)).2.2⟩)
    ∧ elems .vsqrt 8 (fun k o i => byType o (fun f => fSqrt f k.mode (f.dec (ea k o i))) fun _ => ea k o i)
    ∧ elems .vrsqrt 8 (fun k o i => byType o (fun f => fRsqrt f k.mode (f.dec (ea k o i))) fun _ => ea k o i)
    ∧ elems .vrcp 8 (fun k o i => byType o (fun f => fRcp f k.mode (f.dec (ea k o i))) fun _ => ea k o i)
    ∧ elems .vexp2 8 (fun k o i => byType o (fun f => fExp2 f (f.dec (ea k o i))) fun _ => ea k o i)
    ∧ elems .vlog2 8 (fun k o i => byType o (fun f => fLog2 f (f.dec (ea k o i))) fun _ => ea k o i)
    ∧ elems .vtanh 8 (fun k o i => byType o (fun f => fTanh f (f.dec (ea k o i))) fun _ => ea k o i)

/-- The permutes move whole elements, VLANEGET an element into a scalar, and the reductions put the results of their sets into
the lowest elements and zero into the others (R183, R184). -/
def Obligations.PermutesMoveElementsAndReductionsCombineSets : Prop :=
  elems .vperm 3 (fun k o i => bits (ea k o (eb k o i % (etyOf o).count)))
    ∧ elems .vrot 3 (fun k o i => bits (ea k o ((i + o.vb.toNat) % (etyOf o).count)))
    ∧ vec .vtrans 3 fits (fun _ o => etyOf o)
        (fun k o i => some (bits (ea k o (i % k.rows * k.cols (etyOf o) + i / k.rows))))
    ∧ (∀ (o : OpV) (s : State), s.runs (.vlaneget o) (vslot o) o.g → s.here.laReady (vaLas o) →
        let e := ea s.here o o.vb.toNat
        let t := etyOf o
        let v := if t.flt.isNone && t.signed then BitVec.ofInt 64 (sgn t.w e) else BitVec.ofNat 64 e
        Does s (exec (.vlaneget o) s)
          { regs := if admits (s.here.rk o.g) t.w o.vb.toNat then [(.s (o.vd.extractLsb' 0 6).toNat, asReg v)] else []
            lat := (s.core s.cur.1).vecCycles 3
            rest := fun k => k.freed (vaFrees o) })
    ∧ vec .vrowred 6 fits (fun _ o => etyOf o)
        (fun k o i =>
          let c := k.cols (etyOf o)
          some (if i < k.rows then reduceSet (etyOf o) k.mode (bitsOf o.vb 2 0) ((List.range c).map fun j => ea k o (i * c + j))
            else bits 0))
    ∧ vec .vcolred 6 fits (fun _ o => etyOf o)
        (fun k o i =>
          let c := k.cols (etyOf o)
          some (if i < c then reduceSet (etyOf o) k.mode (bitsOf o.vb 2 0) ((List.range k.rows).map fun r => ea k o (r * c + i))
            else bits 0))
    ∧ elems .vallred 6 (fun k o i =>
        if i = 0 then reduceSet (etyOf o) k.mode (bitsOf o.vb 2 0) ((List.range (etyOf o).count).map (ea k o)) else bits 0)

/-! Slots LD and ST, and differentiable accesses. -/

namespace Sys2Proof.Claims

/-- A piece's translation is held and permits the access (R193, R194). -/
def translated (s : State) (a : Acc) (p : Piece) : Prop :=
  ∃ pa, s.xslot a.c a.x p.ea a.write = .ok pa ∧ (a.write = true → s.cxlFull pa p.n = false)

/-- Nothing freezes an access or turns it away: no acquire under way, no own message to its bytes that it would have to wait for,
room for its requests, no live chunk of the scoreboard under it, its translations held, no primal range touched in reverse
mode. -/
def freeOf (s : State) (a : Acc) : Prop :=
  s.acquiring a.c a.x = false ∧ a.behind s = false ∧ (a.isLocal = true ∨ (s.core a.c).outFull = false) ∧ ∀ p ∈ a.ps,
    (a.plain = true → s.primalHit a.c a.x a.vault p = none)
      ∧ (if a.vault then s.scoreVault a.c p = false
         else s.scoreGlobal a.c (s.asid a.c a.x) p = false ∧ translated s a p)

/-- The same, with no message of its context in flight. -/
def clear (s : State) (a : Acc) : Prop := s.quiet ∧ freeOf s a

/-- An atomic unit owns each address of an access (R292). -/
def owned (s : State) (a : Acc) : Prop :=
  a.vault = false → ∀ p ∈ a.ps, (vaultOf (a.pa s p)).isSome = true ∨ isHbm (a.pa s p) = true

/-- A vault access whose base names a vault, whose elements are aligned, and which stays below row 8,191 unless it is
supervisor's (R188 to R191). -/
def aimed (s : State) (a : Acc) (base : BitVec 64) (align : Nat) : Prop :=
  a.vault = true →
    s.badVp a.c base = false ∧ (∀ p ∈ a.ps, p.off % align = 0 → p.ea.toNat % align = 0)
      ∧ (s.supv a.c a.x = true ∨ ∀ p ∈ a.ps, vpLin p.ea < 8191 * 8192)

/-- The same, its local units in different banks (R192). -/
def pointed (s : State) (a : Acc) (base : BitVec 64) (align : Nat) : Prop :=
  aimed s a base align ∧ (a.units.map fun u => u.1 % 128).Nodup

/-- No piece of an access is a race (R352). -/
def raceless (s : State) (a : Acc) : Prop := ∀ p ∈ a.ps, s.racy a.c (a.pa s p) p.n = false

/-- Messages of an access sent behind all others, in order, one for each piece. -/
def sent (a : Acc) (ws : List (Piece × Nat)) (op : Piece → MsgOp) (dest : Piece → Dest) (rel acq : Bool) (s : State) : State :=
  { s with
    nextId := s.nextId + ws.length
    net := s.net ++ ws.zipIdx.map fun p =>
      { id := s.nextId + p.2, core := a.c, x := a.x, pa := p.1.2, va := p.1.1.ea, op := op p.1.1, dest := dest p.1.1
        st := .live, region := (s.core a.c).rgCur, rel := rel, acq := acq } }

/-- The number that the next message takes is used. -/
def numbered (s : State) : State := { s with nextId := s.nextId + 1 }

/-- What follows a local access's own effect: it has entered the crossing (R370). -/
def near (a : Acc) (s : State) : State := if a.isLocal then s.crossed else s

/-- A read into landing slot la with arrival distance d: local bytes land after eight cycles, marked where they are poisoned or
raced for, and others when their messages are answered (R141, R145, R197). -/
def loads (s : State) (a : Acc) (la d : Nat) (acq : Bool) : Effect :=
  let ws := a.wire s
  if a.isLocal then
    { rest := fun k =>
        { k with la := mset la { st := .pending, arr := k.cyc + d, data := localData s a, rid := s.nextId, mark := localMark s a
                                 due := some (k.cyc + 8, (s.core a.c).tick + 8) } k.la }
      mach := fun s =>
        State.crossed (if a.ps.any fun p => s.racy a.c (vaultPiecePa a.c p) p.n then (a.meets (numbered s)).countRace a.c
          else a.meets (numbered s)) }
  else
    { rest := fun k =>
        { k with la := mset la { st := if ws.isEmpty then .full else .pending, arr := k.cyc + d, rid := s.nextId
                                 need := ws.length } k.la }
      mach := fun t => sent a ws (fun p => .read p.n) (fun p => .la la s.nextId p.off) false acq (numbered t) }

/-- A load instruction: under `ok`, the access `f`, from the base pointer `b` with elements of `n` bytes. -/
def loading {α : Type} (mk : α → Instr) (g : α → BitVec 4) (la d : α → Nat) (acq : Bool) (b : Ctx → α → BitVec 64)
    (n : α → Nat) (ok : Ctx → α → Prop) (f : State → α → Acc) : Prop :=
  ∀ (o : α) (s : State), s.runs (mk o) .ld (g o) → ok s.here o → clear s (f s o) → pointed s (f s o) (b s.here o) (n o) →
    Does s (exec (mk o) s) (loads s (f s o) (la o) (d o) acq)

/-- The bytes that a size field names. -/
def size (o : OpLd) : Nat := sizeBytes o.size.toNat
def sizeSt (o : OpSt) : Nat := sizeBytes o.size.toNat

/-- The addresses of the forms of slot LD (R188, R193, R207, R208). -/
def eaG (k : Ctx) (o : OpLd) : BitVec 64 := globalEA (k.rs o.base) (k.rs o.idx) o.off
def eaV (k : Ctx) (o : OpLd) : BitVec 64 := vaultEA (k.rs o.base) (k.rs o.idx) (offBank o.off) (offRow o.off)
def accG (s : State) (o : OpLd) : Acc := ⟨false, pieces (eaG s.here o) 0 (size o), false, true, false, s.cur.1, s.cur.2⟩
def accV (s : State) (o : OpLd) : Acc := ⟨true, pieces (eaV s.here o) 0 (size o), false, true, false, s.cur.1, s.cur.2⟩
def accS (s : State) (o : OpLd) : Acc :=
  ⟨true, stridedPieces (s.here.rs o.base) (s.here.rs o.idx) o.off (size o), false, true, false, s.cur.1, s.cur.2⟩
def accX (vault : Bool) (s : State) (o : OpLdX) : Acc :=
  ⟨vault, indexedPieces vault (s.here.rs o.base) (indexOf (s.here.rv o.xv) o.xw.toNat o.sh.toNat (o.sg == 1))
    (sizeBytes o.size.toNat), false, true, true, s.cur.1, s.cur.2⟩

/-- A load of the common form. -/
def loadO (mk : OpLd → Instr) (acq : Bool) (n : OpLd → Nat) (ok : Ctx → OpLd → Prop) (f : State → OpLd → Acc) : Prop :=
  loading mk (·.g) (·.la.toNat) (·.dist.toNat) acq (fun k o => k.rs o.base) n ok f

/-- The same addresses in slot ST. -/
def stEaG (k : Ctx) (o : OpSt) : BitVec 64 := globalEA (k.rs o.base) (k.rs o.idx) o.off
def stEaV (k : Ctx) (o : OpSt) : BitVec 64 := vaultEA (k.rs o.base) (k.rs o.idx) (offBank o.off) (offRow o.off)
def stAccG (s : State) (o : OpSt) : Acc :=
  ⟨false, pieces (stEaG s.here o) 0 (sizeSt o), true, true, false, s.cur.1, s.cur.2⟩
def stAccV (s : State) (o : OpSt) : Acc :=
  ⟨true, pieces (stEaV s.here o) 0 (sizeSt o), true, true, false, s.cur.1, s.cur.2⟩
def stAccS (s : State) (o : OpSt) : Acc :=
  ⟨true, stridedPieces (s.here.rs o.base) (s.here.rs o.idx) o.off (sizeSt o), true, true, false, s.cur.1, s.cur.2⟩
def stAccX (vault : Bool) (s : State) (o : OpStX) : Acc :=
  ⟨vault, indexedPieces vault (s.here.rs o.base) (indexOf (s.here.rv o.xv) o.xw.toNat o.sh.toNat (o.sg == 1))
    (sizeBytes o.size.toNat), true, true, true, s.cur.1, s.cur.2⟩

/-- A store of the bytes of v: a local one writes at once, in the order of its pieces and stamped; others send their bytes
(R211, R332, R349). -/
def storesTo (s : State) (a : Acc) (v : BitVec 2048) (rel : Bool) : State → State := fun t =>
  if a.isLocal then a.ps.foldl (fun t p => t.store a.c (s.core a.c).rgCur (vaultPiecePa a.c p) (p.bytes v)) t
  else sent a (a.wire s) (fun p => .write (p.bytes v) false) (fun _ => .none) rel false t

/-- A store instruction: the access `f`, from the base pointer `b` with elements of n bytes, of the data `v`. -/
def storing {α : Type} (mk : α → Instr) (g : α → BitVec 4) (b : Ctx → α → BitVec 64) (n : α → Nat) (f : State → α → Acc)
    (v : Ctx → α → BitVec 2048) : Prop :=
  ∀ (o : α) (s : State), s.runs (mk o) .st (g o) → clear s (f s o) → pointed s (f s o) (b s.here o) (n o) →
    ((f s o).isLocal = true → raceless s (f s o)) →
    Does s (exec (mk o) s) { mach := fun t => near (f s o) (storesTo s (f s o) (v s.here o) false t) }

def storeO (mk : OpSt → Instr) (f : State → OpSt → Acc) (v : Ctx → OpSt → BitVec 2048) : Prop :=
  storing mk (·.g) (fun k o => k.rs o.base) sizeSt f v

/-- A scalar, vector or mask source of a store. -/
def srcScalar (k : Ctx) (o : OpSt) : BitVec 2048 := (k.rs (srcS o)).setWidth 2048
def srcVector (k : Ctx) (o : OpSt) : BitVec 2048 := k.rv o.src
def srcMask (k : Ctx) (o : OpSt) : BitVec 2048 := (k.rk (BitVec.ofNat 4 (bitsOf o.src 10 7))).setWidth 2048

/-- An access that fills a register: local bytes after eight cycles, with the flags of their conversion, others when the answers to
its messages are there. -/
def fills (s : State) (a : Acc) (d : Dst) (kind : Nat) (conv : BitVec 2048 → BitVec 2048) (fl : BitVec 2048 → BitVec 5) :
    Effect :=
  if a.isLocal then
    { regs := [(d, conv (localData s a))], lat := 8, rest := fun k => k.flagged (fl (localData s a))
      mach := fun s => (a.meets s).crossed }
  else
    { awaits := [(d, s.nextId)]
      mach := fun t => sent a (a.wire s) (fun p => .read p.n) (fun p => .reg s.nextId p.off kind) false false (numbered t) }

/-- A differentiable access lies whole in a valid region, at one of its elements, and a vault pointer is aligned (R218). -/
def inRegion (s : State) (o : OpD) (d : DAcc) (r : DRegion) : Prop :=
  d.r = some r ∧ (d.a.toNat - r.primal.toNat) % r.es = 0 ∧ (o.space = 1 → d.ea.toNat % (d.n * r.es) = 0)

/-- Words pushed on the tape: a message for each, at the counts from TOP on, in the own vault (R216, R220). -/
def pushed (s : State) (ws : List (List (BitVec 8) × Bool)) (t : State) : State :=
  let k := s.here
  let at8 (i : Nat) : Nat := k.tapePa s.cur.1 (k.tapeTop + BitVec.ofNat 32 (8 * i)).toNat
  { t with
    nextId := t.nextId + ws.length
    net := t.net ++ ws.zipIdx.map fun p =>
      { id := t.nextId + p.2, core := s.cur.1, x := s.cur.2, pa := at8 p.2, va := mkVp 127 (at8 p.2)
        op := .write p.1.1 p.1.2, dest := .none, st := .live, region := (s.core s.cur.1).rgCur, tape := true } }

/-- A message to the owner of each 8-byte word that a forward DST touches, which takes the old word and writes the new bytes, each
followed by the push of that word, which waits for it; then the push of the header (R219, R220). -/
def captures (s : State) (u : Acc) (m len : Nat) (v : BitVec 2048) (header : List (BitVec 8)) (t : State) : State :=
  let k := s.here
  let at8 (i : Nat) : Nat := k.tapePa s.cur.1 (k.tapeTop + BitVec.ofNat 32 (8 * i)).toNat
  let push (n i : Nat) (bs : List (BitVec 8)) (st : MsgSt) : Msg :=
    { id := n, core := s.cur.1, x := s.cur.2, pa := at8 i, va := mkVp 127 (at8 i), op := .write bs false, dest := .none
      st := st, region := (s.core s.cur.1).rgCur, tape := true }
  { t with
    nextId := t.nextId + 2 * u.ps.length + 1
    net := t.net ++ (u.ps.zipIdx.flatMap fun p =>
      [{ id := t.nextId + 2 * p.2, core := s.cur.1, x := s.cur.2, pa := u.pa s p.1
         va := p.1.ea + BitVec.ofNat 64 (wordBytes m len p.2 v).1, op := .capture (wordBytes m len p.2 v).1 (wordBytes m len p.2 v).2
         dest := .none, st := .live, region := (s.core s.cur.1).rgCur },
       push (t.nextId + 2 * p.2 + 1) p.2 [] .accepted])
      ++ [push (t.nextId + 2 * u.ps.length) u.ps.length header .live] }

/-- The words of a tape entry written back: at once in the own vault, else by messages, as tape traffic (R223). -/
def restores (s : State) (ra : Acc) (word : Nat → Nat) (t : State) : State :=
  let bs (p : Piece) : List (BitVec 8) := toBytes (s.rd (word (p.off / 8)) 8) 8
  if ra.isLocal then ra.ps.foldl (fun t p => t.store s.cur.1 (s.core s.cur.1).rgCur (ra.pa s p) (bs p)) t
  else
    { t with
      nextId := t.nextId + ra.ps.length
      net := t.net ++ ra.ps.zipIdx.map fun p =>
        { id := t.nextId + p.2, core := s.cur.1, x := s.cur.2, pa := ra.pa s p.1, va := p.1.ea, op := .write (bs p.1) false
          dest := .none, st := .live, region := (s.core s.cur.1).rgCur, tape := true } }

end Sys2Proof.Claims

/-- The loads of R205 to R208: the landing slot becomes pending on the bytes of the access, and nothing else changes. Where
the manual leaves a choice, the model's: log 7. -/
def Obligations.LoadsFillTheirLandingSlot : Prop :=
  loadO .ldg false (fun _ => 1) (fun _ _ => True) accG
    ∧ loadO .ldgv false (fun _ => 1) (fun _ _ => True) accG
    ∧ loadO .lda true (fun _ => 1) (fun k o => (eaG k o).toNat % size o = 0) accG
    ∧ loadO .ldv false size (fun _ _ => True) accV
    ∧ loadO .ldvv false size (fun _ _ => True) accV
    ∧ loadO .ldvs false size (fun _ _ => True) accS
    ∧ loading .ldgx (·.g) (·.la.toNat) (·.dist.toNat) false (fun k o => k.rs o.base) (fun o => sizeBytes o.size.toNat)
        (fun _ _ => True) (accX false)
    ∧ loading .ldvx (·.g) (·.la.toNat) (·.dist.toNat) false (fun k o => k.rs o.base) (fun o => sizeBytes o.size.toNat)
        (fun _ _ => True) (accX true)

/-- The window loads read the part of the access that lies inside a bound window and set PWOOB when a part does not (R203,
R204). Where the manual leaves a choice, the model's: log 7. -/
def Obligations.WindowLoadsReadInsideTheirWindow : Prop :=
  ∀ mk, mk = Instr.wld ∨ mk = Instr.wldv → ∀ (o : OpLd) (s : State), s.runs (mk o) .ld o.g →
    let (wb, sz) := s.window s.cur.1 s.cur.2 (o.base.toNat % 8)
    let at0 := s.here.rs o.idx + o.off.setWidth 64
    let m := min (size o) (sz - at0.toNat)
    let a : Acc := ⟨false, pieces (wb + at0) 0 m, false, true, false, s.cur.1, s.cur.2⟩
    let e := loads s a o.la.toNat o.dist.toNat false
    sz ≠ 0 → clear s a →
      Does s (exec (mk o) s) { e with rest := fun k => (e.rest k).flagged (if m < size o then Flags.pwoob else 0) }

/-- LDK fills a mask register and a forward DLD a vector register, its primal elements widened to F32; a reverse DLD adds the
elements of its register into the adjoint cells and zeroes the register (R210, R214, R219, R222). Where the manual leaves a
choice, the model's: logs 7 and 24. -/
def Obligations.RegisterLoadsFillTheirRegister : Prop :=
  (∀ (o : OpLd) (s : State), s.runs (.ldk o) .ld o.g →
      let a : Acc := ⟨true, pieces (eaV s.here o) 0 8, false, true, false, s.cur.1, s.cur.2⟩
      clear s a → pointed s a (s.here.rs o.base) 8 → (a.isLocal = true → localMark s a = none) →
        Does s (exec (.ldk o) s) (fills s a (.k (o.la.toNat % 16)) 0 id fun _ => 0))
    ∧ (∀ (o : OpD) (s : State) (r : DRegion), s.runs (.dld o) .ld o.g → s.here.rev = false →
      let d := dAccess o s s.cur.1 s.cur.2
      let a : Acc := ⟨o.space == 1, pieces d.ea 0 (d.n * r.es), false, false, false, s.cur.1, s.cur.2⟩
      inRegion s o d r → clear s a → pointed s a (s.here.rs o.base) 1 → (a.isLocal = true → localMark s a = none) →
        Does s (exec (.dld o) s) (fills s a (.v o.v.toNat) r.kind (widen r.kind d.n) (widenFlags r.kind d.n)))
    ∧ (∀ (o : OpD) (s : State) (r : DRegion), s.runs (.dld o) .ld o.g → s.here.rev = true →
      let d := dAccess o s s.cur.1 s.cur.2
      let a : Acc := ⟨o.space == 1, pieces d.ea 0 (d.n * r.es), false, false, false, s.cur.1, s.cur.2⟩
      let cs : Acc := ⟨o.space == 1, (List.range d.n).map fun i => ⟨r.cell d.a + BitVec.ofNat 64 (4 * i), 4, 4 * i⟩, true,
        false, false, s.cur.1, s.cur.2⟩
      inRegion s o d r → aimed s a (s.here.rs o.base) 1 → clear s cs → owned s cs → aimed s cs (r.cell d.a) 1 →
      (∀ p ∈ a.ps, if a.vault then s.scoreVault s.cur.1 p = false
        else s.scoreGlobal s.cur.1 (s.asid s.cur.1 s.cur.2) p = false) →
        Does s (exec (.dld o) s)
          { regs := [(.v o.v.toNat, 0)]
            mach := fun t => near a (sent cs (cs.ps.map fun p => (p, cs.pa s p))
              (fun p => .accum (BitVec.ofNat 32 (elem 32 (p.off / 4) (s.here.rv o.v)))) (fun _ => .none) false false t) })

/-- The stores of R211 and R212 write, or send to the owner, the bytes of their source at the addresses of their form, and
change nothing else; STL sends them as a release and moves CUR on (R350). Where the manual leaves a choice, the model's: log
7. -/
def Obligations.StoresWriteTheirBytes : Prop :=
  storeO .stg stAccG srcScalar
    ∧ storeO .stgv stAccG srcVector
    ∧ storeO .stv stAccV srcScalar
    ∧ storeO .stvv stAccV srcVector
    ∧ storeO .stk stAccV srcMask
    ∧ storeO .stvs stAccS srcVector
    ∧ storing .stgx (·.g) (fun k o => k.rs o.base) (fun o => sizeBytes o.size.toNat) (stAccX false) (fun k o => k.rv o.src)
    ∧ storing .stvx (·.g) (fun k o => k.rs o.base) (fun o => sizeBytes o.size.toNat) (stAccX true) (fun k o => k.rv o.src)
    ∧ (∀ (o : OpSt) (s : State), s.runs (.stl o) .st o.g → clear s (stAccG s o) → s.relHeld s.cur.1 = false →
      (stEaG s.here o).toNat % sizeSt o = 0 →
        Does s (exec (.stl o) s)
          { mach := fun t => (storesTo s (stAccG s o) (srcScalar s.here o) true t).release s.cur.1 })

/-- A local vault store leaves each of its bytes at its address, in increasing order, and every other byte of memory as it
was; the data of a local load are the bytes of memory in increasing order, zero above them (R9, R197, R211). Where the manual
leaves a choice, the model's: log 7. -/
def Obligations.LocalAccessesMoveTheirBytesAndNoOther : Prop :=
  (∀ (o : OpSt) (s : State),
    let a := stAccV s o
    let ea := stEaV s.here o
    let at1 (j : Nat) : Nat := vaultPa (vaultNum s.cur.1 (ea + BitVec.ofNat 64 j)) (vpLin (ea + BitVec.ofNat 64 j))
    clear s a → pointed s a (s.here.rs o.base) (sizeSt o) → a.isLocal = true → raceless s a →
    (∀ j, j < sizeSt o → s.shut (at1 j) = false) →
      ∀ i v, (i = .stv o ∧ v = srcScalar s.here o) ∨ (i = .stvv o ∧ v = srcVector s.here o) ∨ (i = .stk o ∧ v = srcMask s.here o) →
        s.runs i .st o.g →
          Gives (exec i s) fun t =>
            (∀ j, j < sizeSt o → t.mem.read (at1 j) = v.extractLsb' (8 * j) 8)
              ∧ ∀ q, (∀ j, j < sizeSt o → q ≠ at1 j) → t.mem.read q = s.mem.read q)
    ∧ ∀ (s : State) (c x : Nat) (ea : BitVec 64) (n j : Nat) (w p l : Bool), n ≤ 256 → j < 256 →
      (localData s ⟨true, pieces ea 0 n, w, p, l, c, x⟩).extractLsb' (8 * j) 8
        = if j < n then s.mem.read (vaultPa (vaultNum c (ea + BitVec.ofNat 64 j)) (vpLin (ea + BitVec.ofNat 64 j))) else 0

/-- A forward DST captures the words its bytes touch, pushes them with a header on the tape, and writes its elements rounded
to the primal type, at once in the own vault and else at their owner; a reverse DST pops an entry, restores its words, and exchanges the adjoint cells with zero (R219 to R223).
Where the manual leaves a choice, the model's: logs 7 and 24. -/
def Obligations.DifferentiableStoresUseTheTape : Prop :=
  (∀ (o : OpD) (s : State) (r : DRegion), s.runs (.dst o) .st o.g → s.here.rev = false →
      let d := dAccess o s s.cur.1 s.cur.2
      let a : Acc := ⟨o.space == 1, pieces d.ea 0 (d.n * r.es), true, false, false, s.cur.1, s.cur.2⟩
      let u := d.unitsAcc o s.cur.1 s.cur.2 (d.n * r.es)
      let out := narrowPrimal r.fmt s.here.mode d.n (s.here.rv o.v)
      inRegion s o d r → clear s a → pointed s a (s.here.rs o.base) 1 → (a.isLocal = true → raceless s a) →
      s.here.tapeFull (8 * (u.ps.length + 1)) = false →
        Does s (exec (.dst o) s)
          { rest := fun k =>
              { k.flagged out.2.1 with
                tapeTop := k.tapeTop + BitVec.ofNat 32 (8 * (u.ps.length + 1))
                nfs := k.nfs ||| (if out.2.2 then Nfs.vec else 0) }
            mach := fun t =>
              let header := toBytes (tapeHeader u.ps.length (d.ea &&& ~~~7) false a.vault) 8
              if a.isLocal then
                State.crossed (pushed s ((u.ps.map fun p => (toBytes (s.rd (u.pa s p) 8) 8, s.poisoned (u.pa s p) 8))
                    ++ [(header, false)])
                  (a.ps.foldl (fun t p => t.store s.cur.1 (s.core s.cur.1).rgCur (a.pa s p) (p.bytes out.1)) (u.meets t)))
              else captures s u (d.ea.toNat % 8) (d.n * r.es) out.1 header t })
    ∧ (∀ (o : OpD) (s : State) (r : DRegion) (sk len h : Nat) (w : WaitRec), s.runs (.dst o) .st o.g → s.here.rev = true →
      let d := dAccess o s s.cur.1 s.cur.2
      let pr : Acc := ⟨o.space == 1, pieces d.ea 0 (d.n * r.es), true, false, false, s.cur.1, s.cur.2⟩
      let cs : Acc := ⟨o.space == 1, (List.range d.n).map fun i => ⟨r.cell d.a + BitVec.ofNat 64 (4 * i), 4, 4 * i⟩, true,
        false, false, s.cur.1, s.cur.2⟩
      let first := s.here.tapeTop - BitVec.ofNat 32 (8 * (sk + len + 1))
      let word (i : Nat) : Nat := s.here.tapePa s.cur.1 (first + BitVec.ofNat 32 (8 * i)).toNat
      let ra := restoreAcc h len s.cur.1 s.cur.2
      s.here.answered 5 = some w → s.here.tapeTopEntry s s.cur.1 = some (sk, len, h) →
      inRegion s o d r → aimed s pr (s.here.rs o.base) 1 → clear s cs → owned s cs → aimed s cs (r.cell d.a) 1 → clear s ra →
      (∀ p, ra.ps.head? = some p → aimed s ra p.ea 1) → raceless s ra →
      (∀ p ∈ pr.ps, if pr.vault then s.scoreVault s.cur.1 p = false
        else s.scoreGlobal s.cur.1 (s.asid s.cur.1 s.cur.2) p = false) →
      (∀ i, i ≤ len → s.poisoned (word i) 8 = false ∧ s.racy s.cur.1 (word i) 8 = false) →
      (∀ p ∈ cs.ps, ∀ q ∈ ra.ps, canonPa (cs.pa s p) + 4 ≤ canonPa (ra.pa s q) ∨ canonPa (ra.pa s q) + 8 ≤ canonPa (cs.pa s p)) →
        Does s (exec (.dst o) s)
          { awaits := [(.v o.v.toNat, s.nextId)]
            rest := fun k => { k with tapeTop := first }
            mach := fun t =>
              near pr (restores s ra word
                (sent cs (cs.ps.map fun p => (p, cs.pa s p)) (fun _ => .exch) (fun p => .reg s.nextId p.off 4) false false
                  (numbered t))) })

/-- DMODE sets the direction once no differentiable access is under way, DREG binds or refuses a descriptor and writes its
status, and TAPEMK pushes a marker (R213, R215, R217, R221). -/
def Obligations.DirectionRegionsAndMarkers : Prop :=
  (∀ (o : OpSy) (s : State), s.runs (.dmode o) .sy o.g → s.diffBusy s.cur.1 s.cur.2 = false →
      Does s (exec (.dmode o) s) { rest := fun k => { k with rev := o.imm == 1 } })
    ∧ (∀ (o : OpSy) (s : State) (st : Strand), s.runs (.dreg o) .sy o.g → s.here.strand = some st →
      (s.here.rev = true ∨ (s.hdrOf st).dtab = 0) →
        Writes s (exec (.dreg o) s) (.s o.sd.toNat) (asReg (if s.here.rev then 3 else 1)) 1)
    ∧ (∀ (o : OpSy) (s : State) (st : Strand) (w : WaitRec), s.runs (.dreg o) .sy o.g → s.here.strand = some st →
      s.here.rev = false → (s.hdrOf st).dtab ≠ 0 →
      let a : Acc := ⟨false, pieces ((s.hdrOf st).dtab + s.here.rs o.sa * 32) 0 32, false, false, false, s.cur.1, s.cur.2⟩
      clear s a → s.here.answered 7 = some w → w.mark = none →
        let res := bindRegion s.cur.1 s.here.dreg o.imm.toNat w.val.toNat
        Does s (exec (.dreg o) s)
          { regs := [(.s o.sd.toNat, asReg (BitVec.ofNat 64 res.1))], rest := fun k => { k with dreg := res.2 } })
    ∧ (∀ (o : OpSy) (s : State), s.runs (.tapemk o) .sy o.g → s.here.tapeFull 8 = false →
      s.acquiring s.cur.1 s.cur.2 = false →
      Does s (exec (.tapemk o) s)
        { rest := fun k => { k with tapeTop := k.tapeTop + 8 }
          mach := pushed s [(toBytes ((s.here.rs o.sa).toNat % 2 ^ 58) 8, false)] })

/-! Slot MX. -/

namespace Sys2Proof.Claims

/-- The context in turn may use the matrix domain: it leads its core, its launch has the cube, no CUBE of its own runs, and the
governor does not hold its column (R253, R269, R374). -/
def mxReady (s : State) : Prop :=
  s.isDrone s.cur.1 s.cur.2 = false ∧ (∃ st, s.here.strand = some st ∧ (s.hdrOf st).cube = true)
    ∧ s.here.mx.phase ≠ 1 ∧ s.paused s.cur.1 = false

/-- Whether the column of the core has a failed layer (R365). -/
def columnFailed (s : State) : Bool := (s.stk (stackOf s.cur.1)).rtFail / 2 ^ (s.cur.1 % 24) % 2 == 1

/-- An effect that sends a beat to the matrix domain and takes heat tokens; in a failed column its context takes POISON
next (R152, R275, R365). -/
def beat (s : State) (heat : Nat) (op : BeatOp) (e : Effect) : Effect :=
  { e with
    rest := fun k => if columnFailed s then { e.rest k with trapNext := some ⟨0x10, 3, 0⟩ } else e.rest k
    mach := fun t => (e.mach t).modCore s.cur.1 fun q =>
      { q with heat := q.heat - heat, fifo := q.fifo ++ [⟨s.cur.2, s.here.pc, s.now, q.tick, op⟩] } }

/-- An instruction that sends the beat `op` for `heat` tokens when `ok` holds. -/
def mx {α : Type} (mk : α → Instr) (g : α → BitVec 4) (heat : State → α → Nat) (ok : State → α → Prop)
    (op : State → α → BeatOp) (e : State → α → Effect) : Prop :=
  ∀ (o : α) (s : State), s.runs (mk o) .mx (g o) → mxReady s → ok s o → heat s o ≤ (s.core s.cur.1).heat →
    Does s (exec (mk o) s) (beat s (heat s o) (op s o) (e s o))

/-- A beat that nothing but itself follows from. -/
def plain {α : Type} (_s : State) (_o : α) : Effect := {}

/-- A beat whose result a register awaits under the number that it carries. -/
def awaited (s : State) (d : Dst) : Effect := { awaits := [(d, s.nextId)], mach := numbered }

/-- No premise, no heat. -/
def always {α : Type} (_s : State) (_o : α) : Prop := True
def noHeat {α : Type} (_s : State) (_o : α) : Nat := 0

/-- The sequencer set going on descriptor d from a step: its claims, its first beat, MX.PROG; with no item left the CUBE is
complete (R264, R266, R271, R273). -/
def started (s : State) (d : CubeDesc) (p : MxProg) (start : Nat) (clear : Bool) : Effect :=
  let its := d.stream start
  { rest := fun k => { k with mx := { p with phase := if its.isEmpty then 0 else 1 }, cubeId := d.id }
    mach := fun t => t.modCore s.cur.1 fun q =>
      if its.isEmpty then q.clearFaces d.mask
      else
        { q with
          score := q.score ++ (d.claim s.cur.1 false its).toList ++ (d.claim s.cur.1 true its).toList
          seq := some { d := d, start := start, beat := 0, buf := [], ready := [], clear := clear, born := s.now } } }

/-- A new CUBE takes a number and its heat tokens, and gives a stopped one up: the slices of its layers are zero (R256, R272,
R275). -/
def renewed (s : State) (heat : Nat) (e : Effect) : Effect :=
  { e with mach := fun t => e.mach ((numbered t).modCore s.cur.1 fun q =>
      { (if s.here.mx.phase = 2 then q.clearFaces s.here.mx.mask else q) with heat := q.heat - heat }) }

end Sys2Proof.Claims

/-- The operations of the matrix domain send their beat with its operands, in issue order, for their heat tokens; the drains
and the exponent read leave their register awaiting it (R252 to R256, R276 to R283). Where the manual leaves a choice, the
model's: log 22. -/
def Obligations.MatrixOperationsSendTheirBeat : Prop :=
  mx .mpusha (·.g) noHeat always (fun s o => .push false o.l.toNat (s.here.rv o.vs)) plain
    ∧ mx .mpushb (·.g) noHeat always (fun s o => .push true o.l.toNat (s.here.rv o.vs)) plain
    ∧ mx .mstep (·.g)
        (fun s o => (layersOf o.mask.toNat).length
          * weightOf (widthG o.af.toNat (s.here.rf o.fa.toNat) (s.here.rf o.fb.toNat)))
        (fun s o => widthG o.af.toNat (s.here.rf o.fa.toNat) (s.here.rf o.fb.toNat)
          = widthG o.bf.toNat (s.here.rf o.fa.toNat) (s.here.rf o.fb.toNat))
        (fun s o => .step (tileNo o.ts o.tile) o.mask.toNat o.af.toNat o.bf.toNat (s.here.rf o.fa.toNat)
          (s.here.rf o.fb.toNat))
        plain
    ∧ mx .mdrain (·.g) noHeat
        (fun s o => blockOk (eTy o.ty.toNat (Fmt.ofReg (s.here.rf o.fr.toNat))).count s.here.shape o.row.toNat o.col.toNat
          = true)
        (fun s o => .drain (tileNo o.ts o.tile) o.row.toNat o.col.toNat o.ty.toNat (s.here.rf o.fr.toNat) (o.sat == 1)
          o.mode.toNat s.here.shape s.here.srseed s.nextId)
        (fun s o => { awaited s (.v o.vd.toNat) with rest := fun k => { k with srseed := k.srseed + 1 } })
    ∧ mx .mzero (·.g) noHeat always (fun _ o => .zero (tileNo o.ts o.tile) o.e.toInt) plain
    ∧ mx .mouter (·.g) (fun _ o => if o.ty = 5 ∨ o.ty = 8 then 2 else 4) always
        (fun s o => .outer (tileNo o.ts o.tile) o.ty.toNat (o.ha == 1) (o.hb == 1) (s.here.rv o.va) (s.here.rv o.vb)) plain
    ∧ mx .mrdacc (·.g) noHeat (fun s o => blockOk 64 s.here.shape o.row.toNat o.col.toNat = true)
        (fun s o => .rdacc (tileNo o.ts o.tile) o.row.toNat o.col.toNat (o.clr == 1) s.here.shape s.nextId)
        (fun s o => awaited s (.v o.vd.toNat))
    ∧ mx .mwracc (·.g) noHeat
        (fun s o => blockOk (eTy o.ty.toNat .f32).count s.here.shape o.row.toNat o.col.toNat = true)
        (fun s o => .wracc (tileNo o.ts o.tile) o.row.toNat o.col.toNat o.ty.toNat (o.add == 1) s.here.shape
          (s.here.rv o.vs))
        plain
    ∧ mx .mscacc (·.g) noHeat always
        (fun s o => .scacc o.tile.toNat (o.ha == 1) (o.hb == 1) (s.here.rv o.va) (s.here.rv o.vb)) plain
    ∧ mx .mrenorm (·.g) noHeat always (fun _ o => .renorm (tileNo o.ts o.tile)) plain
    ∧ mx .mexp (·.g) noHeat always (fun s o => .expRead (tileNo o.ts o.tile) s.nextId)
        (fun s o => awaited s (.s o.sd.toNat))
    ∧ mx .mexpW (·.g) noHeat always
        (fun s o => .expWrite (tileNo o.ts o.tile) ((s.here.rs o.sa).extractLsb' 0 16).toInt) plain

/-- MFMT writes a format register and MPROG reads MX.PROG, the heat tokens or the number of statistics records (R284,
R285). -/
def Obligations.FormatAndProgressInstructions : Prop :=
  (∀ (o : OpFmt) (s : State), s.runs (.mfmt o) .mx o.g → mxReady s → (s.here.rs o.sa).extractLsb' 32 32 = 0 →
      fmtLegal ((s.here.rs o.sa).setWidth 32) = true →
        Does s (exec (.mfmt o) s) { rest := fun k => { k with f := mset o.fd.toNat ((k.rs o.sa).setWidth 32) k.f } })
    ∧ (∀ (o : OpProg) (s : State), s.runs (.mprog o) .mx o.g → mxReady s →
      Writes s (exec (.mprog o) s) (.s o.sd.toNat)
        (asReg (BitVec.ofNat 64 (match o.sel.toNat with
          | 0 => s.here.mx.word
          | 1 => (s.core s.cur.1).heat
          | _ => (s.core s.cur.1).statq.length))) 1)

/-- CUBE starts the sequencer on its descriptor and claims its operands; MRESUME starts a stopped CUBE again at its next step
and does nothing without one; with AB it gives the CUBE up (R257, R266, R273, R274). Where the manual leaves a choice, the
model's: logs 38 and 39. -/
def Obligations.CubesStartResumeAndAbandon : Prop :=
  (∀ (o : OpCube) (s : State), s.runs (.cube o) .mx o.g → mxReady s →
      let c := s.cur.1
      let p : MxProg := { phase := 1, sd := o.sd.toNat, tile := o.tile.toNat, af := o.af.toNat, bf := o.bf.toNat
                          mode := o.mode.toNat, mask := o.mask.toNat, step := 0 }
      let d : CubeDesc := { readDesc s c s.cur.2 p with id := s.nextId }
      let heat := d.steps * d.layers * d.fw
      descTrap s c s.cur.2 p.sd d 0 = none → claimWaits s c d (d.stream 0) = false → heat ≤ (s.core c).heat →
      s.acquiring c s.cur.2 = false →
        Does s (exec (.cube o) s) (renewed s heat (started s d p 0 (d.mode != 0))))
    ∧ (∀ (o : OpAb) (s : State), s.runs (.mresume o) .mx o.g → mxReady s → s.here.mx.phase = 2 →
      let c := s.cur.1
      let p := s.here.mx
      let d : CubeDesc := { readDesc s c s.cur.2 p with id := s.here.cubeId }
      let start := restartStep s c s.cur.2
      (p.sd ≤ 58 ∧ p.mask ≠ 0 ∧ p.af ≤ 5 ∧ p.bf ≤ 5 ∧ p.mode ≤ 2 ∧ (p.mode = 2 → p.tile = 0)) →
      descTrap s c s.cur.2 p.sd d start = none → claimWaits s c d (d.stream start) = false → s.acquiring c s.cur.2 = false →
        Does s (exec (.mresume o) s) (started s d p start false))
    ∧ (∀ (o : OpAb) (s : State), s.runs (.mresume o) .mx o.g → mxReady s → s.here.mx.phase ≠ 2 →
      Does s (exec (.mresume o) s) {})
    ∧ (∀ (o : OpAb) (s : State), s.runs (.mresumeAbandon o) .mx o.g → mxReady s →
      Does s (exec (.mresumeAbandon o) s)
        (if s.here.mx.phase = 2 then
          { rest := fun k => { k with mx := { k.mx with phase := 0 } }
            mach := fun t => t.modCore s.cur.1 fun q => q.clearFaces s.here.mx.mask }
        else {}))

/-! Slot SY: synchronisation, power, traps, time and system registers. -/

namespace Sys2Proof.Claims

/-- Whether a scalar atomic is a release, and whether it is an acquire (R296). -/
def isRel (o : OpSyA) : Bool := o.ord == 2 || o.ord == 3
def isAcq (o : OpSyA) : Bool := o.ord == 1 || o.ord == 3

/-- Bytes of a scalar atomic. -/
def width (o : OpSyA) : Nat := if o.w = 1 then 8 else 4

/-- The access of a scalar atomic, and of a barrier instruction (R295, R300). -/
def atomAcc (s : State) (o : OpSyA) : Acc :=
  ⟨o.sp == 1, [⟨syAddr o s.here, width o, 0⟩], true, true, false, s.cur.1, s.cur.2⟩
def barAcc (s : State) (o : OpSyA) (write : Bool) : Acc :=
  ⟨true, [⟨syAddr o s.here, 16, 0⟩], write, false, false, s.cur.1, s.cur.2⟩

/-- The physical address of a barrier instruction's object, and of a scalar atomic's operand. -/
def barPa (s : State) (o : OpSyA) : Nat := vaultPiecePa s.cur.1 ⟨syAddr o s.here, 16, 0⟩
def atomPa (s : State) (o : OpSyA) : Nat := (atomAcc s o).pa s ⟨syAddr o s.here, width o, 0⟩

/-- An access that an atomic unit serves (R292, R295). -/
def served (s : State) (a : Acc) (base : BitVec 64) (w : Nat) : Prop :=
  freeOf s a ∧ aimed s a base w ∧ owned s a ∧ (a.vault = false → ∀ p ∈ a.ps, p.ea.toNat % w = 0)

/-- The unit at an address has performed every request that it has accepted (R292). -/
def unitFree (s : State) (pa : Nat) : Prop := s.nextAt (ownerOf pa) = none

/-- A register that receives a result unless it is s0. -/
def unlessZero (r : BitVec 6) {β : Type} (d : Dst × β) : List (Dst × β) := if r = 0 then [] else [d]

/-- A local atomic is performed at its issue: the old value comes after twelve cycles, sign-extended from 32 bits, and the unit
writes what `new` gives for the width, the old value, the operand and sd (R296). -/
def atomicHere (mk : OpSyA → Instr) (new : Nat → Nat → Nat → Nat → Option Nat) : Prop :=
  ∀ (o : OpSyA) (s : State), s.runs (mk o) .sy o.g → s.quiet → served s (atomAcc s o) (s.here.rs o.base) (width o) →
    (atomAcc s o).isLocal = true → unitFree s (atomPa s o) → s.poisoned (atomPa s o) (width o) = false →
    (isRel o = true → s.relHeld s.cur.1 = false) →
    let w := 8 * width o
    let old := s.rd (atomPa s o) (width o)
    Does s (exec (mk o) s)
      { regs := unlessZero o.sd (.s o.sd.toNat, asReg (if w = 32 then (BitVec.ofNat 32 old).signExtend 64 else BitVec.ofNat 64 old))
        lat := 12
        mach := fun t =>
          let t0 := (atomAcc s o).meets t
          let t1 := if isAcq o then t0.acquireAll s.cur.1 else t0
          let t2 := match new w old ((s.here.rs o.sb).toNat % 2 ^ w) ((s.here.rs o.sd).toNat % 2 ^ w) with
            | some v => t1.wr (atomPa s o) (width o) v
            | none => t1
          State.crossed (if isRel o then t2.release s.cur.1 else t2) }

/-- A request of which its unit has said that it accepts it becomes live when its bundle retires, behind all that the bundle has
sent, in the place in which it was accepted; a register other than s0 awaits its result (R58, R292, R293, R297). -/
def accepted (mk : OpSyA → Instr) (a : State → OpSyA → Acc) (w : OpSyA → Nat) (rel acq : OpSyA → Bool)
    (op : State → OpSyA → MsgOp) : Prop :=
  ∀ (o : OpSyA) (s : State) (r : WaitRec), s.runs (mk o) .sy o.g → served s (a s o) (s.here.rs o.base) (w o) →
    (a s o).isLocal = false → (rel o = true → s.relHeld s.cur.1 = false) → s.ready7 s.cur.1 s.cur.2 = some r → r.mark = none →
    Does s (exec (mk o) s)
      { awaits := unlessZero o.sd (.s o.sd.toNat, s.nextId)
        mach := fun t =>
          let p : Piece := ⟨syAddr o s.here, w o, 0⟩
          let m : Msg :=
            { id := s.nextId + 1, core := s.cur.1, x := s.cur.2, pa := (a s o).pa s p, va := p.ea, op := op s o
              dest := if o.sd = 0 then .none else .reg s.nextId 0 5, st := .live, region := (s.core s.cur.1).rgCur
              rel := rel o, acq := acq o, tags := if rel o then [s.relTag s.cur.1] else []
              seq := match s.msg r.id with | some b => b.seq | none => 0 }
          let t1 : State := { t with nextId := s.nextId + 2, net := s.net.filter (fun b => b.id != r.id) ++ [m] }
          if rel o then t1.release s.cur.1 else t1 }

/-- A vector atomic sends one request for each element; the bank's unit takes one of a local access at once (R292, R298). -/
def vectorAtomic (mk : OpSyV → Instr) (op : Nat) : Prop :=
  ∀ (o : OpSyV) (s : State), s.runs (mk o) .sy o.g →
    let t := eTy o.ty.toNat .f32
    let b := t.w / 8
    let ea (i : Nat) : BitVec 64 :=
      let off := BitVec.ofInt 64 (sgn t.w (elem t.w i (s.here.rv o.vo)))
      if o.sp = 1 then vaultEA (s.here.rs o.base) off 0 0 else s.here.rs o.base + off
    let a : Acc := ⟨o.sp == 1, (List.range t.count).map fun i => ⟨ea i, b, b * i⟩, true, true, false, s.cur.1, s.cur.2⟩
    served s a (s.here.rs o.base) b → (o.ord = 2 → s.relHeld s.cur.1 = false) →
      Does s (exec (mk o) s)
        { mach := fun u =>
            let u1 : State :=
              { u with
                nextId := u.nextId + t.count
                net := u.net ++ (List.range t.count).map fun i =>
                  { id := u.nextId + i, core := s.cur.1, x := s.cur.2, pa := a.pa s ⟨ea i, b, b * i⟩, va := ea i
                    op := .vatom op o.ty.toNat (BitVec.ofNat 64 (elem t.w i (s.here.rv o.vs))), dest := .none
                    st := if a.isLocal then .live else .asked, seq := if a.isLocal then u.nextId + i else 0
                    region := (s.core s.cur.1).rgCur, rel := o.ord == 2 } }
            near a (if o.ord = 2 then u1.release s.cur.1 else u1) }

/-- No waiter stands at an object. -/
def noWaiter (s : State) (pa : Nat) : Prop := ∀ m ∈ s.net, m.st = .live → canonPa m.pa ≠ canonPa pa

/-- The freeze that ends counts as collective slack of the cluster unless the context is a drone (R438). -/
def slackened (s : State) (t : State) : State :=
  if s.isDrone s.cur.1 s.cur.2 then t
  else t.modCluster (clusterOf s.cur.1) fun q => { q with slackCyc := q.slackCyc + s.here.syncRun }

end Sys2Proof.Claims

/-- The scalar atomics on the own vault read and change their operand at once (R294 to R297). Where the manual leaves a
choice, the model's: logs 25 and 26. -/
def Obligations.LocalAtomicsReadAndChangeTheirOperand : Prop :=
  atomicHere .aadd (fun w old b _ => some ((old + b) % 2 ^ w))
    ∧ atomicHere .amin (fun w old b _ => some (if (BitVec.ofNat w old).sle (BitVec.ofNat w b) then old else b))
    ∧ atomicHere .amax (fun w old b _ => some (if (BitVec.ofNat w old).sle (BitVec.ofNat w b) then b else old))
    ∧ atomicHere .aand (fun _ old b _ => some (old &&& b))
    ∧ atomicHere .aor (fun _ old b _ => some (old ||| b))
    ∧ atomicHere .axor (fun _ old b _ => some (old ^^^ b))
    ∧ atomicHere .aswp (fun _ _ b _ => some b)
    ∧ atomicHere .acas (fun _ old b c => if old = c then some b else none)

/-- Every other request to an atomic unit goes live once it is accepted, and a vector atomic sends its elements (R292, R293,
R298, R301, R302). Where the manual leaves a choice, the model's: logs 7 and 29. -/
def Obligations.AcceptedRequestsGoLive : Prop :=
  (∀ p ∈ [(Instr.aadd, 0), (.amin, 1), (.amax, 2), (.aand, 3), (.aor, 4), (.axor, 5), (.aswp, 6), (.acas, 7)],
      accepted p.1 atomAcc width isRel isAcq fun s o => .atomic p.2 (width o) (s.here.rs o.sb) (s.here.rs o.sd) (o.sd == 0))
    ∧ accepted .binit (fun s o => barAcc s o true) (fun _ => 16) (fun _ => true) (fun _ => false)
        (fun s o =>
          let lvl := bitsOf (s.here.rs o.sb) 34 32
          let count := if lvl = 7 then bitsOf (s.here.rs o.sb) 31 0 else
            (s.here.strand.map fun st => (s.hdrOf st).groupSize lvl).getD 0
          .binit count lvl (bitsOf (s.here.rs o.sb) 63 35 != 0 || count == 0 || 2 ^ 32 ≤ count) (o.sd == 0))
    ∧ accepted .barr (fun s o => barAcc s o true) (fun _ => 16) (fun _ => true) (fun _ => false) (fun _ o => .barr (o.sd == 0))
    ∧ vectorAtomic .vaadd 0 ∧ vectorAtomic .vaor 1

/-- BINIT writes an object, or answers 1 for a count it cannot have; BARR counts an arrival, the last of which completes the
phase, and answers the phase it met (R301, R302). Where the manual leaves a choice, the model's: log 25. -/
def Obligations.LocalBarriersInitialiseAndArrive : Prop :=
  (∀ (o : OpSyA) (s : State) (st : Strand), s.runs (.binit o) .sy o.g → s.here.strand = some st → s.quiet →
      served s (barAcc s o true) (s.here.rs o.base) 16 → (barAcc s o true).isLocal = true → unitFree s (barPa s o) →
      s.relHeld s.cur.1 = false → noWaiter s (barPa s o) →
      let v := s.here.rs o.sb
      let lvl := bitsOf v 34 32
      let count := if lvl = 7 then bitsOf v 31 0 else (s.hdrOf st).groupSize lvl
      let bad := bitsOf v 63 35 != 0 || count == 0 || 2 ^ 32 ≤ count
      Does s (exec (.binit o) s)
        { regs := unlessZero o.sd (.s o.sd.toNat, asReg (if bad then 1 else 0))
          lat := 12
          mach := fun t0 =>
            let t := (barAcc s o true).meets t0
            ((if bad then t
              else (t.wr (barPa s o) 16 (count + lvl * 2 ^ 65)).setBarTag (barPa s o)
                { cur := [], last := [s.relTag s.cur.1] }).release s.cur.1).crossed })
    ∧ (∀ (o : OpSyA) (s : State), s.runs (.barr o) .sy o.g → s.quiet →
      served s (barAcc s o true) (s.here.rs o.base) 16 → (barAcc s o true).isLocal = true → unitFree s (barPa s o) →
      s.poisoned (barPa s o) 16 = false → s.relHeld s.cur.1 = false → noWaiter s (barPa s o) → (s.barrier (barPa s o)).usable = true →
      let b := s.barrier (barPa s o)
      let g := s.barTag (barPa s o)
      let last := b.count + 1 == b.expect
      Does s (exec (.barr o) s)
        { regs := unlessZero o.sd (.s o.sd.toNat, asReg (if b.phase then 1 else 0))
          lat := 12
          mach := fun t =>
            (((((barAcc s o true).meets t).wr (barPa s o) 16
                (if last then { b with count := 0, phase := !b.phase, gen := (b.gen + 1) % 2 ^ 32 }
                 else { b with count := b.count + 1 }).bits).setBarTag (barPa s o)
              (if last then { cur := [], last := g.cur ++ [s.relTag s.cur.1] }
               else { g with cur := g.cur ++ [s.relTag s.cur.1] })).release s.cur.1).crossed })

/-- BWAIT retires on the answer that the phase differs, an acquire of the releases of that phase, CEWAIT when its channel has no more to copy or has copied the chunks
it names, counting each cycle that it waits for a fabric destination as collective slack, and FENCE when the earlier accesses of its context have been performed; FENCE acquires and releases (R303, R305,
R306, R351, R438). Where the manual leaves a choice, the model's: log 25. -/
def Obligations.WaitsRetireOnTheirCondition : Prop :=
  (∀ (o : OpSyA) (s : State) (r : WaitRec), s.runs (.bwait o) .sy o.g → freeOf s (barAcc s o false) →
      aimed s (barAcc s o false) (s.here.rs o.base) 16 → s.ready7 s.cur.1 s.cur.2 = some r → r.mark = none →
        Does s (exec (.bwait o) s)
          { mach := fun t =>
              let t1 := match s.msg r.id with
                | some w => (t.acquireTags s.cur.1 w.tags).dropMsg w.id
                | none => t
              near (barAcc s o false) (if r.slack then slackened s t1 else t1) })
    ∧ (∀ (o : OpSyC) (s : State), s.runs (.cewait o) .sy o.g →
      let ch := s.chan s.cur.1 o.ch.toNat
      let want := if o.all = 1 then BitVec.allOnes 512 else (s.here.rv o.mask).setWidth 512
      ch.state ≠ 2 → (ch.state ≠ 1 ∨ ∀ i, i < 512 → want.getLsbD i = true → ch.bitmap.getLsbD i = true) →
        Does s (exec (.cewait o) s) {})
    ∧ (∀ (o : OpSyC) (s : State), s.runs (.cewait o) .sy o.g →
      let ch := s.chan s.cur.1 o.ch.toNat
      let want := if o.all = 1 then BitVec.allOnes 512 else (s.here.rv o.mask).setWidth 512
      ch.state = 1 → (∃ i, i < 512 ∧ want.getLsbD i = true ∧ ch.bitmap.getLsbD i = false) →
        let q := clusterOf s.cur.1
        Gives (exec (.cewait o) s) fun t =>
          t.here = { s.here with frzSync := s.here.frzSync + 1, frozen := some .sync, syncRun := s.here.syncRun + 1 }
            ∧ othersSame s t
            ∧ machineSame (if ch.dsp = 2 ∧ s.isDrone s.cur.1 s.cur.2 = false then
                s.modCluster q fun k => { k with slackCyc := k.slackCyc + 1 } else s) t)
    ∧ (∀ (o : OpSy) (s : State), s.runs (.fence o) .sy o.g → s.quiet → s.relHeld s.cur.1 = false →
      Does s (exec (.fence o) s) { mach := fun t => (t.acquireAll s.cur.1).release s.cur.1 })

/-- GRED at level 0 gives each strand its own value, at a higher level the round's result; EVENT and STEPTAG give the event
unit's answer and the window's tag (R307, R308, R320, R321). Where the manual leaves a choice, the model's: log 28. -/
def Obligations.CollectivesAndEventsGiveTheirAnswer : Prop :=
  (∀ (o : OpSy) (s : State) (st : Strand), s.runs (.gred o) .sy o.g → s.here.strand = some st → st.pjoin = 0 →
      bitsOf o.imm 6 4 = 0 → Writes s (exec (.gred o) s) (.s o.sd.toNat) (asReg (s.here.rs o.sa)) 1)
    ∧ (∀ (o : OpSy) (s : State) (st : Strand) (r : WaitRec), s.runs (.gred o) .sy o.g → s.here.strand = some st →
      st.pjoin = 0 → bitsOf o.imm 6 4 ≤ (s.hdrOf st).glev → 0 < bitsOf o.imm 6 4 → s.gredReady s.cur.1 s.cur.2 = some r →
        Does s (exec (.gred o) s)
          { regs := [(.s o.sd.toNat, asReg (r.val.setWidth 64))], rest := fun k => { k with gred := none }, mach := if r.slack then slackened s else id })
    ∧ (∀ (o : OpSy) (s : State) (r : WaitRec), s.runs (.event o) .sy o.g → s.ready7 s.cur.1 s.cur.2 = some r →
      Writes s (exec (.event o) s) (.s o.sd.toNat) (asReg (r.val.setWidth 64)) 1)
    ∧ (∀ (o : OpSy) (s : State), s.runs (.steptag o) .sy o.g →
      let w := s.rwin (bitsOf o.imm 5 0)
      w.bound = true → w.asid = s.asid s.cur.1 s.cur.2 →
        Writes s (exec (.steptag o) s) (.s o.sd.toNat) (asReg (w.steptag.setWidth 64)) 1)
    ∧ (∀ (o : OpSy) (s : State), s.runs (.steptagW o) .sy o.g → s.quiet → s.relHeld s.cur.1 = false →
      let w := s.rwin (bitsOf o.imm 5 0)
      w.bound = true → w.asid = s.asid s.cur.1 s.cur.2 →
        Does s (exec (.steptagW o) s)
          { regs := [(.s o.sd.toNat, asReg (w.steptag.setWidth 64))]
            mach := fun t =>
              ((t.setStepTag (bitsOf o.imm 5 0) ((s.here.rs o.sa).setWidth 16)).acquireAll s.cur.1).release s.cur.1 })

/-- TUNE and CLKDIV give their status and start what they ask for, in a supervisor's strand or where the cluster lets users tune;
BALLAST sets its mode and floor and gives BALLAST.CTL as it was; STATQ takes the oldest statistics record, zeros when there is
none, and WAITT retires at its time with the time it is (R287, R310 to R315, R318, R319). -/
def Obligations.PowerStatisticsAndTimeInstructions : Prop :=
  (∀ (o : OpSy) (s : State), s.runs (.tune o) .sy o.g →
      (s.supv s.cur.1 s.cur.2 = true ∨ (s.cluster (clusterOf s.cur.1)).userTune = true) →
        Does s (exec (.tune o) s)
          { regs := [(.s o.sd.toNat, asReg (BitVec.ofNat 64 (s.tune (clusterOf s.cur.1) (s.here.rs o.sa)).1))]
            mach := fun t => (t.tune (clusterOf s.cur.1) (s.here.rs o.sa)).2 })
    ∧ (∀ (o : OpSy) (s : State), s.runs (.clkdiv o) .sy o.g →
      (s.supv s.cur.1 s.cur.2 = true ∨ (s.cluster (clusterOf s.cur.1)).userTune = true) →
        Does s (exec (.clkdiv o) s)
          { regs := [(.s o.sd.toNat, asReg (BitVec.ofNat 64 (s.clkdiv s.cur.1 (s.here.rs o.sa)).1))]
            mach := fun t => (t.clkdiv s.cur.1 (s.here.rs o.sa)).2 })
    ∧ (∀ (mode : Nat) (mk : OpSy → Instr), (mode, mk) ∈ [(0, Instr.ballastOff), (1, .ballastLevel), (2, .ballastAuto)] →
      ∀ (o : OpSy) (s : State), s.runs (mk o) .sy o.g →
        let q := s.core s.cur.1
        Does s (exec (mk o) s)
          { regs := [(.s o.sd.toNat, asReg (BitVec.ofNat 64 (q.dslew % 4096 * 2 ^ 28 + q.balF % 4096 * 16 + q.balMode % 4)))]
            mach := fun t => t.modCore s.cur.1 fun q =>
              { q with balMode := mode
                       balF := if mode = 0 then 0 else if mode = 1 then min 4095 (s.here.rs o.sa).toNat else q.balA } })
    ∧ (∀ (o : OpSy) (s : State), s.runs (.statq o) .sy o.g →
      let q := (s.core s.cur.1).statq
      Does s (exec (.statq o) s)
        { regs := if o.sd = 0 then []
            else [(.s o.sd.toNat, asReg (BitVec.ofNat 64 ((q.head?.map StatRec.lo).getD 0))),
                  (.s (o.sd + 1).toNat, asReg (BitVec.ofNat 64 ((q.head?.map StatRec.hi).getD 0)))]
          mach := fun t => t.modCore s.cur.1 fun k => { k with statq := q.tail } })
    ∧ (∀ (o : OpSy) (s : State), s.runs (.waitt o) .sy o.g →
      let v := if o.imm = 1 then s.refCount s.cur.1 else s.ptimeNs
      (s.here.rs o.sa).toNat ≤ v → Writes s (exec (.waitt o) s) (.s o.sd.toNat) (asReg (BitVec.ofNat 64 v)) 1)

/-- TRAP raises BRKPT whatever its tag, and its bundle retires nothing: TRAP.PC, TRAPINFO and TRAP.ADDR are saved, trap mode is set
and the context goes on at TRAPH, and nothing else changes; in trap mode or with TRAPH = 0 the strand ends in state 5 with the code
(R121, R146, R149, R316). -/
def Obligations.TrapEntersTheHandler : Prop :=
  (∀ (o : OpSy) (s : State), s.runs (.trap o) .sy o.g → s.quiet → s.here.trapm = false →
    s.traph s.cur.1 s.cur.2 ≠ 0 → (∀ w, s.here.gred = some w → w.done = true) →
      Gives (exec (.trap o) s) fun t =>
        t.here =
            { s.here with
              trapPc := s.here.pc
              trapInfo := BitVec.ofNat 64 (0x12 + 7 * 2 ^ 16 + (if s.here.rev then 2 ^ 19 else 0)
                + (if s.isDrone s.cur.1 s.cur.2 then 2 ^ 20 else 0))
              trapAddr := 0, trapm := true, pc := s.traph s.cur.1 s.cur.2, cyc := s.here.cyc + 1, bubble := 1
              wait := [], xl := [], frozen := none, syncRun := 0, issued := true }
          ∧ othersSame s t ∧ machineSame s t)
    ∧ (∀ (o : OpSy) (s : State), s.runs (.trap o) .sy o.g → s.here.strand.isSome = true →
      s.here.trapm = true ∨ s.traph s.cur.1 s.cur.2 = 0 →
        exec (.trap o) s = .next ((s.setCtx s.cur.1 s.cur.2 s.here).endStrand s.cur.1 s.cur.2 5 0x12 7 0)
          ∧ Gives (exec (.trap o) s) fun t => t.here.strand = none)

/-- ERET leaves trap mode and goes on at TRAP.PC, at the issue REPIDX of TRAPINFO names; a stopped CUBE restarts with that
bundle (R148, R273, R317). Where the manual leaves a choice, the model's: log 38. -/
def Obligations.EretGoesBack : Prop :=
  ∀ (o : OpSy) (s : State), s.runs (.eret o) .sy o.g → s.here.trapm = true →
    Gives (exec (.eret o) s) fun t =>
      t.here =
          { s.here with
            trapm := false, pc := (s.here.trapPc >>> 6) <<< 6, rep := (s.here.trapInfo.extractLsb' 21 6).toNat, bubble := 1
            cyc := s.here.cyc + 1, restart := s.here.mx.phase == 2, wait := [], xl := [], frozen := none, syncRun := 0
            issued := true
            slackWait := s.here.slackWait && s.here.syncRun == 0 }
        ∧ othersSame s t ∧ machineSame s t

/-- SYSRD writes the register's value and clears its RC fields; SYSWR writes the register. An access outside the core takes
effect when its freeze has ended (R11, R322, R323). Where the manual leaves a choice, the model's: log 76. -/
def Obligations.SystemRegistersAreReadAndWritten : Prop :=
  (∀ (o : OpI) (s : State), s.runs (.sysrd o) .s o.g →
      let i := o.imm.toNat % 4096
      let r := regAt s.cur.1 s.cur.2 i
      (i < 0x200 ∨ ∃ w, s.here.waiting 0 = some w ∧ w.id ≤ s.now) →
        Does s (exec (.sysrd o) s)
          { regs := [(.s o.sd.toNat, asReg (s.readReg r))], mach := fun t => t.clearRc r (BitVec.allOnes 64) })
    ∧ (∀ (o : OpI) (s : State), s.runs (.syswr o) .s o.g → o.imm.toNat % 4096 < 0x100 →
      let i := o.imm.toNat % 4096
      let v := s.here.rs o.sa
      let k1 := (s.here.writeReg i v v).groupEnd
      (0x19 ≤ i → i ≤ 0x1B → s.tapeBusy s.cur.1 s.cur.2 = false) →
        Does s (exec (.syswr o) s)
          { rest := fun k => { k.writeReg i v v with loopCnt := k1.loopCnt }, pc := some k1.pc })
    ∧ (∀ (o : OpI) (s : State), s.runs (.syswr o) .s o.g →
      let i := o.imm.toNat % 4096
      0x100 ≤ i → (supervisorReg i = true → s.supv s.cur.1 s.cur.2 = true) →
      (i < 0x200 ∨ ∃ w, s.here.waiting 0 = some w ∧ w.id ≤ s.now) →
        (i < 0x400 → Does s (exec (.syswr o) s)
          { mach := fun t => t.writeReg (regAt s.cur.1 s.cur.2 i) (s.here.rs o.sa) (BitVec.allOnes 64) })
          ∧ exec (.syswr o) s
            = .next (s.after fun t => t.writeReg (regAt s.cur.1 s.cur.2 i) (s.here.rs o.sa) (BitVec.allOnes 64)))

/-! Slot CE: copy channels. Slot SY: strands. -/

namespace Sys2Proof.Claims

/-- An instruction that changes the channel it names and nothing else, while the channel does not run (R227 to R233). -/
def setsChan (mk : OpCeA → Instr) (f : Ctx → OpCeA → Chan → Chan) : Prop :=
  ∀ (o : OpCeA) (s : State), s.runs (mk o) .ce o.g → (s.chan s.cur.1 o.ch.toNat).state ≠ 1 →
    Does s (exec (mk o) s) { mach := fun t => t.setChan s.cur.1 o.ch.toNat (f s.here o (s.chan s.cur.1 o.ch.toNat)) }

/-- A count from 1 to n. -/
def counts (v : BitVec 64) (n : Nat) : Bool := decide (1 ≤ v.toNat) && decide (v.toNat ≤ n)

/-- A signed number of 40 bits. -/
def fits40 (v : BitVec 64) : Bool := ((v.setWidth 40).signExtend 64) == v

/-- Entries pushed on a channel's index queue, which has room for them (R241). -/
def pushes {α : Type} (mk : α → Instr) (g : α → BitVec 4) (ch : α → Nat) (es : State → α → List (Option (BitVec 64)))
    (more : Nat) : Prop :=
  ∀ (o : α) (s : State), s.runs (mk o) .ce (g o) →
    let h := s.chan s.cur.1 (ch o)
    h.queue.length + (es s o).length ≤ 256 →
      Does s (exec (mk o) s)
        { mach := fun t => { t.setChan s.cur.1 (ch o) { h with queue := h.queue ++ es s o } with free := t.free + more } }

/-- The channel as CEGO starts it (R234). -/
def goChan (s : State) (o : OpCeA) : Chan :=
  let h : Chan :=
    { s.chan s.cur.1 o.ch.toNat with
      dflag := o.imm.getLsbD 0, gather := o.imm.getLsbD 1, arrive := o.imm.getLsbD 2, barp := (s.here.rs o.sa).toNat % 2 ^ 33
      owner := s.cur.2, rev := s.here.rev, mark := s.here.strand.map (·.slot), fcode := 0, pc := s.here.pc, trims := 0
      msgs := [], msgid := none }
  { h with idx := h.begin }

/-- A channel started, or halted for its configuration. -/
def launched (s : State) (ch : Nat) (h : Chan) (keep : BitVec 512) (t : State) : State :=
  if s.chanConfigBad s.cur.1 s.cur.2 h then t.chanConfig s.cur.1 ch h else t.runChan s.cur.1 s.cur.2 ch h keep

/-- Words stored one after another. -/
def wrWords (pa : Nat) (ws : List Nat) (t : State) : State := ws.zipIdx.foldl (fun t w => t.wr (pa + 8 * w.2) 8 w.1) t

/-- A context's timer reloaded from its launch (R116). -/
def timed (s : State) (st : Strand) (k : Ctx) : Ctx := { k with ckpt := (s.hdrOf st).ckpti * 4000 }

/-- A context whose save has begun. -/
def saving (s : State) (kind : SaveKind) (o : OpSy) (k : Ctx) : Ctx :=
  { k with save := some ⟨kind, some (bitsOf o.imm 23 0), trapWord 0 0 0 s.here.rev (s.isDrone s.cur.1 s.cur.2)⟩ }

/-- A strand with one more child outstanding. -/
def oneMore (st : Strand) (k : Ctx) : Ctx := { k with strand := some { st with out := st.out + 1 } }

end Sys2Proof.Claims

/-- CEBASE, CELVL, CELEN and CEFAB set a channel's registers, and CFGERR for what cannot be a count, a stride or a rank; the
index queue takes entries (R230 to R233, R241, R242). -/
def Obligations.ChannelsAreConfigured : Prop :=
  setsChan .cebase (fun k o h =>
      let h1 : Chan := { h with srcb := k.rs o.sa, dstb := k.rs o.sb, ssp := bitsOf o.imm 0 0, dsp := bitsOf o.imm 2 1 }
      if o.imm.getLsbD 3 then h1
      else
        { h1 with
          cntm1 := [], sstr := [], dstr := [], idx := [], lenm1 := 0, dflag := false, gather := false, arrive := false
          cfgerr := false, queue := [], state := 0, mark := none })
    ∧ setsChan .celvl (fun k o h =>
      let l := bitsOf o.imm 2 0
      let strides := fits40 (k.rs o.sb) && fits40 (k.rs o.sc)
      { h with
        cntm1 := if counts (k.rs o.sa) (2 ^ 24) then mset l ((k.rs o.sa).toNat - 1) h.cntm1 else h.cntm1
        sstr := if strides then mset l (k.rs o.sb).toInt h.sstr else h.sstr
        dstr := if strides then mset l (k.rs o.sc).toInt h.dstr else h.dstr
        cfgerr := h.cfgerr || !counts (k.rs o.sa) (2 ^ 24) || !strides })
    ∧ setsChan .celen (fun k o h =>
      let n := k.rs o.sa + o.imm.setWidth 64
      if counts n 65536 then { h with lenm1 := n.toNat - 1 } else { h with cfgerr := true })
    ∧ setsChan .cefab (fun k o h =>
      { h with
        rank := if (k.rs o.sa).toNat ≤ 1023 then (k.rs o.sa).toNat else h.rank
        cfgerr := h.cfgerr || decide (1023 < (k.rs o.sa).toNat)
        steptag := (k.rs o.sb).toNat % 65536, rwin := bitsOf o.imm 5 0, rop := bitsOf o.imm 8 6 })
    ∧ pushes .ceidx (·.g) (·.ch.toNat) (fun s o => [some (s.here.rs o.sa <<< bitsOf o.imm 2 0)]) 0
    ∧ pushes .ceidxv (·.g) (·.ch.toNat)
        (fun s o => (List.range o.cnt.toNat).map fun i => some (ceIndex s (s.here.rv o.xv) o i)) 64
    ∧ pushes .ceidxend (·.g) (·.ch.toNat) (fun _ _ => [none]) 0

/-- CEGO starts a channel, CERESUME starts a halted one again and leaves another alone, CECANCEL leaves a channel Idle, and CESTAT
reads its status or eight bytes of its bitmap (R234 to R237). -/
def Obligations.ChannelsStartStopAndReport : Prop :=
  (∀ (o : OpCeA) (s : State), s.runs (.cego o) .ce o.g →
      let ch := o.ch.toNat
      (s.chan s.cur.1 ch).state ≠ 1 → ((s.chan s.cur.1 ch).dsp ≠ 2 → (s.core s.cur.1).score.length < 16) →
      s.acquiring s.cur.1 s.cur.2 = false →
        Does s (exec (.cego o) s) { mach := launched s ch (goChan s o) 0 })
    ∧ (∀ (o : OpCeA) (s : State), s.runs (.ceresume o) .ce o.g →
      let ch := o.ch.toNat
      let h := s.chan s.cur.1 ch
      let h1 : Chan := { h with owner := s.cur.2, mark := s.here.strand.map (·.slot), pc := s.here.pc, spent := false }
      (h.state = 2 → s.acquiring s.cur.1 s.cur.2 = false ∧ (h.dsp ≠ 2 → (s.core s.cur.1).score.length < 16)) →
        Does s (exec (.ceresume o) s)
          { mach := if h.state = 2 then launched s ch h1 (if h1.hullOf = h.hull then h.bitmap else 0) else id })
    ∧ (∀ (o : OpCeA) (s : State), s.runs (.cecancel o) .ce o.g →
      ¬((s.chan s.cur.1 o.ch.toNat).state = 1 ∧ (s.chan s.cur.1 o.ch.toNat).dflag = true
          ∧ (s.chan s.cur.1 o.ch.toNat).sent = true) →
      Does s (exec (.cecancel o) s) { mach := fun t => t.idleChan s.cur.1 o.ch.toNat })
    ∧ (∀ (o : OpCeA) (s : State), s.runs (.cestat o) .ce o.g →
      let h := s.chan s.cur.1 o.ch.toNat
      (h.state ≠ 2 ∨ o.imm.getLsbD 0 = true) →
        Writes s (exec (.cestat o) s) (.s o.sa.toNat)
          (asReg (if bitsOf o.imm 4 1 = 0 then BitVec.ofNat 64 h.status
            else h.bitmap.extractLsb' (64 * (bitsOf o.imm 4 1 - 1)) 64)) 1)

/-- FORK writes the child's record in a free slot, counts it and pushes it on the deque; with no slot, a full deque or a full
count it changes nothing and gives its status (R113). Where the manual leaves a choice, the model's: log 29. -/
def Obligations.ForkMakesAChild : Prop :=
  ∀ (o : OpSy) (s : State) (st : Strand), s.runs (.fork o) .sy o.g → s.here.strand = some st → s.quiet →
    s.relHeld s.cur.1 = false →
    let c := s.cur.1
    let l := s.launch st.launch
    (∀ n, l.freeSlotNo = some n → (s.core c).deque.length < 1056 → st.out ≠ 2 ^ 32 - 1 →
      let pa := l.slotPa n
      Does s (exec (.fork o) s)
        { regs := [(.s o.sd.toNat, 0)]
          rest := oneMore st
          mach := fun t =>
            let t1 := wrWords pa [(s.here.rs o.sa).toNat / 64 * 64, st.wid.toNat, st.hdr.toNat, pa, st.slot + 56,
              (2 ^ 32 - 1) * 2 ^ 32, (s.here.rs o.sb).toNat, 0] t
            let t2 : State :=
              { t1 with
                home := mset pa c t1.home
                pkg := { t1.pkg with
                  launches := mset st.launch { l with used := mset n true l.used } t1.pkg.launches
                  forkTags := t1.pkg.forkTags ++ [(pa, [s.relTag c])] } }
            (t2.setDeque c (pa :: t2.deque c)).release c })
      ∧ ∀ e, (e = 1 ∧ l.freeSlotNo = none) ∨ (e = 2 ∧ l.freeSlotNo ≠ none ∧ 1056 ≤ (s.core c).deque.length)
          ∨ (e = 3 ∧ l.freeSlotNo ≠ none ∧ (s.core c).deque.length < 1056 ∧ st.out = 2 ^ 32 - 1) →
        Writes s (exec (.fork o) s) (.s o.sd.toNat) (asReg e) 1

/-- JOIN without children outstanding returns the kill and fault counts, clears them and acquires the children's ends; with
children, JOIN_PARK outside trap mode begins a save under its live entry. YIELD reloads the checkpoint timer and begins a
save, CKPT where a pre-emption or a role swap is asked for; in trap mode both only reload the timer (R114, R116, R132). Where
the manual leaves a choice, the model's: logs 31 and 32. -/
def Obligations.JoinYieldAndCheckpointSave : Prop :=
  (∀ (mk : OpSy → Instr) (o : OpSy) (s : State) (st : Strand), mk = .join ∨ mk = .joinPark → s.runs (mk o) .sy o.g →
      s.here.strand = some st → st.out = 0 →
        Does s (exec (mk o) s)
          { regs := [(.s o.sd.toNat, asReg (BitVec.ofNat 64 (st.kill % 2 ^ 16 * 2 ^ 16 + st.fault % 2 ^ 16)))]
            rest := fun k => { k with strand := some { st with fault := 0, kill := 0, tags := [] } }
            mach := fun t => t.acquireTags s.cur.1 st.tags })
    ∧ (∀ (o : OpSy) (s : State) (st : Strand), s.runs (.joinPark o) .sy o.g → s.here.strand = some st → st.out ≠ 0 →
      s.here.trapm = false →
        Gives (exec (.joinPark o) s) fun t =>
          t.here =
              { saving s .join o s.here with
                frzSync := s.here.frzSync + 1, frozen := some .sync, syncRun := s.here.syncRun + 1 }
            ∧ othersSame s t ∧ machineSame s t)
    ∧ (∀ (o : OpSy) (s : State) (st : Strand), s.runs (.yield o) .sy o.g → s.here.strand = some st →
      Does s (exec (.yield o) s)
        { rest := fun k => if s.here.trapm then timed s st k else saving s .yield o (timed s st k) })
    ∧ (∀ (o : OpSy) (s : State) (st : Strand), s.runs (.ckpt o) .sy o.g → s.here.strand = some st → s.here.save = none →
      let c := s.cur.1
      let asked := (s.core c).swapReq && !s.isDrone c s.cur.2 && !s.here.trapm
      let other := (s.ctx c (1 - s.cur.2)).strand
      let swaps := asked && other.any fun d => !(s.hdrOf d).filler
      let code := if other.isNone then 4 else 3
      Does s (exec (.ckpt o) s)
        { rest := fun k =>
            if s.here.trapm then timed s st k
            else if swaps then saving s .swap o (timed s st k)
            else if s.here.preempt.isSome then saving s .ckpt o (timed s st k)
            else timed s st k
          mach := fun t => if asked && !swaps then t.modCore c fun q => { q with swapReq := false, swap := code } else t })

/-- EXIT ends its strand in state 4, or in trap mode in state 5 with the trap's word, once nothing of it is outstanding, and
is a release; its context is free and keeps the mode that the strand left, and outside trap mode its landing slots (R100, R115,
R137). Where the manual leaves a choice, the model's: log 20. -/
def Obligations.ExitEndsTheStrand : Prop :=
  ∀ (o : OpSy) (s : State) (st : Strand), s.runs (.exit o) .sy o.g → s.here.strand = some st → exitWaits s s.cur.1 s.cur.2 = false →
    exec (.exit o) s
        = .next (s.after fun t =>
            let t1 := t.cancelHalted s.cur.1 s.cur.2
            let i := s.here.trapInfo
            (if s.here.trapm then
              t1.endStrand s.cur.1 s.cur.2 5 (i.extractLsb' 0 16).toNat (i.extractLsb' 16 3).toNat (i.extractLsb' 21 6).toNat
             else t1.endStrand s.cur.1 s.cur.2 4 0 0 0).release s.cur.1)
      ∧ Gives (exec (.exit o) s) fun t =>
          t.here.strand = none ∧ t.here.trapm = s.here.trapm ∧ (s.here.trapm = false → t.here.la = s.here.la)

/-- SPAWN appends an entry to its launch queue and counts a child; a header that fails its check, a queue that is disabled or
full and a full count give their status and change nothing (R119). Where the manual leaves a choice, the model's: logs 29 and
35. -/
def Obligations.SpawnQueuesALaunch : Prop :=
  ∀ (o : OpSy) (s : State) (st : Strand), s.runs (.spawn o) .sy o.g → s.here.strand = some st → s.quiet →
    s.relHeld s.cur.1 = false →
    let c := s.cur.1
    let x := s.cur.2
    let n := bitsOf o.imm 3 0
    let q := s.queue n
    let va := s.here.rs o.sa
    let ok := va.toNat % 128 == 0 && (match s.headerAt (s.asid c x) (s.supv c x) va with
      | some (_, h) => s.headerCheck (s.asid c x) h == 0
      | none => false)
    let room := q.en && decide (q.held < q.size)
    (ok = true → room = true → st.out ≠ 2 ^ 32 - 1 →
      Does s (exec (.spawn o) s)
        { regs := [(.s o.sd.toNat, 0)]
          rest := oneMore st
          mach := fun t =>
            ((wrWords (q.entryPa q.prod) [va.toNat, (s.here.rs o.sb).toNat, st.slot + 56,
              2 ^ 63 + (if s.supv c x then 2 ^ 62 else 0) + s.asid c x % 64 * 2 ^ 56] t).setQueue n
              { q with prod := (q.prod + 1) % 65536 }).release c })
      ∧ ∀ e, (e = 1 ∧ ok = false) ∨ (e = 2 ∧ ok = true ∧ room = false) ∨ (e = 3 ∧ ok = true ∧ room = true ∧ st.out = 2 ^ 32 - 1) →
        Writes s (exec (.spawn o) s) (.s o.sd.toNat) (asReg e) 1

/-- KILL ends the strand of a record of its own pool, KILL_L every launch of its address space under a header, in a
supervisor's strand; sd gets the status unless the strand itself has ended (R103, R120). Where the manual leaves a choice, the
model's: log 37. -/
def Obligations.KillEndsStrandsAndLaunches : Prop :=
  (∀ (o : OpSy) (s : State) (st : Strand), s.runs (.kill o) .sy o.g → s.here.strand = some st →
      let l := s.launch st.launch
      let pa := (s.here.rs o.sa).toNat
      let b := l.hdr.slotBytes
      let inPool := b ≠ 0 ∧ l.poolPa ≤ pa ∧ pa - l.poolPa < l.hdr.nslot * b ∧ (pa - l.poolPa) % b = 0
      let live := mget false l.used ((pa - l.poolPa) / b) = true ∧ finalState (s.recState pa) = false
      (¬inPool → Writes s (exec (.kill o) s) (.s o.sd.toNat) (asReg 2) 1)
        ∧ (inPool → ¬live → Writes s (exec (.kill o) s) (.s o.sd.toNat) (asReg 1) 1)
        ∧ (inPool → live → exec (.kill o) s
            = .next (s.after fun t => (t.killStrand st.launch pa).resIf s.cur.1 s.cur.2 o.sd 0)))
    ∧ (∀ (o : OpSy) (s : State) (pa : Nat), s.runs (.killL o) .sy o.g → s.supv s.cur.1 s.cur.2 = true →
      s.xslot s.cur.1 s.cur.2 (s.here.rs o.sa) false = .ok pa →
      let ls := s.launchesAt (s.asid s.cur.1 s.cur.2) pa
      exec (.killL o) s
        = .next (s.after fun t =>
            (ls.foldl (fun u l => u.killLaunch l) t).resIf s.cur.1 s.cur.2 o.sd (if ls.isEmpty then 1 else 0)))

/-! Steps of messages, at their owners. -/

namespace Sys2Proof.Claims

/-- A step of the machine gives a state. -/
def Steps (s : State) (i : Instr) (t : State) : Prop := exec i s = .next t

/-- Message m has come to its owner, still to be performed, and it is its turn (R198, R332, R386). -/
def atOwner (s : State) (m : Nat) (a : Msg) : Prop := s.arrived m = some a ∧ a.st = .live ∧ s.eligible a = true

/-- The step that performs a plain read or write in the package: a bank's for a vault, the owner's for HBM and the host (R332,
R445). -/
def performs (s : State) (i : Instr) (m : Nat) (a : Msg) : Prop :=
  s.customer a.pa = false
    ∧ ((i = .vaultNetRequest m ∧ (vaultOf a.pa).isSome = true)
      ∨ (i = .hbmRequest m ∧ (isHbm a.pa = true ∨ isHost a.pa = true) ∧ vaultOf a.pa = none))

/-- Message m with a place among those accepted or answered: behind every earlier one (R292, R362). -/
def placed (s : State) (m : Nat) (st : MsgSt) : State :=
  { s.modMsg m fun b => { b with st := st, seq := s.nextId } with nextId := s.nextId + 1 }

/-- Message m answered with a value and a mark. -/
def answered (s : State) (m : Nat) (v : BitVec 2048) (mk : Option Mark) : State := placed s m (.replied v mk)

/-- The value that a register keeps of a result: 64 bits of a scalar or mask, all of a vector. -/
def kept (d : Dst) (v : BitVec 2048) : BitVec 2048 :=
  match d with
  | .v _ => v
  | _ => (v.setWidth 64).setWidth 2048

/-- A register that there is, and none of those that no write changes. -/
def writable (d : Dst) : Prop :=
  match d with
  | .s r => r ≠ 0 ∧ r < 64
  | .v r => r < 2048
  | .k r => r ≠ 0 ∧ r < 16

/-- A unit of the package with no requester in its order queue. -/
def noQueue (s : State) (a : Msg) : Prop := (s.unit (ownerOf a.pa)).order = [] ∧ s.customer a.pa = false

/-- What an atomic writes for the width, the old value, the operand and the compare value (R296). -/
def atomicWrites (op w old b c : Nat) : Option Nat :=
  match op with
  | 0 => some ((old + b) % 2 ^ w)
  | 1 => some (if (BitVec.ofNat w old).sle (BitVec.ofNat w b) then old else b)
  | 2 => some (if (BitVec.ofNat w old).sle (BitVec.ofNat w b) then b else old)
  | 3 => some (old &&& b)
  | 4 => some (old ||| b)
  | 5 => some (old ^^^ b)
  | 6 => some b
  | _ => if old = c then some b else none

/-- The waiting request of slot SY is told the outcome. -/
def told (m : Msg) (w : WaitRec) (mk : Option Mark) (k : Ctx) : Ctx :=
  if w.id = m.id then { k with wait := mset 7 { w with done := true, mark := mk } k.wait } else k

/-- No waiter is registered or about to be released. -/
def noBwait (s : State) : Prop := ∀ b ∈ s.net, (∀ p, b.op ≠ .bwait p) ∧ ∀ p sl, b.op ≠ .phaseReport p sl

end Sys2Proof.Claims

/-- A plain read is answered with the bytes and the mark of poison or of a race; a write stores its bytes and no other, or is
reported as a race; the answers reach the landing slot or register that awaits them (R69, R141, R332, R346, R352, R353, R384,
R445). Where the manual leaves a choice, the model's: logs 2 and 7. -/
def Obligations.PlainAccessesArePerformedAndAnswered : Prop :=
  (∀ (s : State) (i : Instr) (m : Nat) (a : Msg) (n : Nat), atOwner s m a → performs s i m a → a.op = .read n →
      let s1 := (if a.acq then s.acquireAll a.core else s).meet a.pa n
      let race := s1.racy a.core a.pa n
      Steps s i (answered (if race && !a.ofChan then s1.countRace a.core else s1) m (BitVec.ofNat 2048 (s.rd a.pa n))
        (if s.poisoned a.pa n then some ⟨0x10, a.va⟩ else if race then some ⟨0x0B, a.va⟩ else none)))
    ∧ (∀ (s : State) (i : Instr) (m : Nat) (a : Msg) (bs : List (BitVec 8)), atOwner s m a → performs s i m a →
      a.op = .write bs false → s.racy a.core a.pa bs.length = false →
        Steps s i ((s.dropMsg m).store a.core a.region a.pa bs))
    ∧ (∀ (s : State) (m : Nat) (a : Msg) (bs : List (BitVec 8)), atOwner s m a → a.op = .write bs false →
      (vaultOf a.pa).isSome = true → (vaultOf (a.pa + bs.length)).isSome = true → s.shut a.pa = false →
      s.racy a.core a.pa bs.length = false →
        Gives (exec (.vaultNetRequest m) s) fun t =>
          (∀ j, (h : j < bs.length) → t.mem.read (a.pa + j) = bs[j])
            ∧ ∀ q, (q < a.pa ∨ a.pa + bs.length ≤ q) → t.mem.read q = s.mem.read q)
    ∧ (∀ (s : State) (i : Instr) (m : Nat) (a : Msg) (bs : List (BitVec 8)) (bad : Bool), atOwner s m a → performs s i m a →
      a.op = .write bs bad → a.tape = false → s.racy a.core a.pa bs.length = true →
        (a.ofChan = false → Steps s i (((s.dropMsg m).countRace a.core).send
          { a with op := .raceReport (a.va &&& ~~~63), dest := .none, st := .live, rel := false, tape := false
                   seq := s.nextId }))
        ∧ ∀ ch off, a.dest = .copy ch off →
          Steps s i (((s.dropMsg m).countRace a.core).setChan a.core ch
            { s.chan a.core ch with lost := some (0x0B, 1, a.va) }))
    ∧ (∀ (s : State) (m : Nat) (a : Msg) (r : RegAt), s.form ≠ .s → atOwner s m a → isReg a.pa = true →
      a.pa % 8 = 0 → a.op = .read 8 → a.acq = false → s.winReg (a.pa - 0x11000000000) = some r →
        Steps s (.registerWindowAccess m)
          (answered (s.clearRc r (BitVec.allOnes 64)) m ((s.readReg r).setWidth 2048) none))
    ∧ (∀ (s : State) (m : Nat) (a : Msg) (r : RegAt) (v : BitVec 64), s.form ≠ .s → atOwner s m a → isReg a.pa = true →
      a.pa % 8 = 0 → a.op = .write (toBytes v.toNat 8) false → s.winReg (a.pa - 0x11000000000) = some r →
        Steps s (.registerWindowAccess m)
          (match r with
            | .pkg 0x430 => (s.dropMsg m).startCmd 0x430 v
            | .pkg 0x541 => (s.dropMsg m).startCmd 0x541 v
            | .pkg 0x543 => (s.dropMsg m).startCmd 0x543 v
            | _ => (s.dropMsg m).writeReg r v (BitVec.allOnes 64)))
    ∧ (∀ (s : State) (m : Nat) (a : Msg) (i rid off : Nat) (v : BitVec 2048) (mk : Option Mark), s.arrived m = some a →
      a.st = .replied v mk → s.replyBehind a = false → (∀ o bs, a.op ≠ .capture o bs) → a.dest = .la i rid off →
      let l := (s.ctx a.core a.x).slot i
      let n := if a.op.len = 0 then 8 else a.op.len
      l.st = .pending → l.rid = rid →
        Steps s (.landingArrival m) ((s.dropMsg m).modCtx a.core a.x fun k =>
          { k with
            la := mset i
              { l with
                data := l.data ||| BitVec.ofNat 2048 (v.toNat % 2 ^ (8 * n) * 2 ^ (8 * off))
                mark := if l.mark.isSome then l.mark else mk
                need := l.need - 1
                st := if l.need ≤ 1 then .full else .pending } k.la }))
    ∧ (∀ (s : State) (c x : Nat), s.hasCore c = true → x < 2 → (∀ m ∈ s.net, m.answersReg c x = false) →
      ((s.ctx c x).pend.map (·.dst)).Nodup → (∀ p ∈ (s.ctx c x).pend, writable p.dst) →
        Gives (exec (.resultLand c x) s) fun t =>
          ∀ p ∈ (s.ctx c x).pend,
            if p.due.reached (s.ctx c x).cyc (s.core c).tick then (t.ctx c x).reg p.dst = kept p.dst p.val ∧ p ∉ (t.ctx c x).pend
            else p ∈ (t.ctx c x).pend)

/-- An atomic request is accepted while its unit's buffer has room and no other requester waits, else refused, queued and
retried; a request whose turn has come is performed and answered with the old value; elements of vector atomics and adjoint
cells change in memory; a reservation lapses after 2 µs (R45, R222, R223, R292, R293, R296 to R298). Where the manual leaves a
choice, the model's: logs 4, 7 and 36. -/
def Obligations.AtomicRequestsAreTakenAndPerformed : Prop :=
  (∀ (s : State) (m : Nat) (a : Msg) (w : WaitRec) (op n : Nat) (sb cmp : BitVec 64) (post : Bool), s.arrived m = some a →
      a.op = .atomic op n sb cmp post → a.st = .asked → s.heldBack a = false → (s.ctx a.core a.x).waiting 7 = some w →
      let u := s.unit (ownerOf a.pa)
      (∀ p ∈ u.resv, p.1 ≠ a.requester) →
      ((u.order = [] → s.unitUsed (ownerOf a.pa) + u.resv.length < unitCap (ownerOf a.pa) →
          Steps s (.atomicRequest m) ((placed s m .accepted).modCtx a.core a.x (told a w none)))
        ∧ (u.order ≠ [] ∨ unitCap (ownerOf a.pa) ≤ s.unitUsed (ownerOf a.pa) + u.resv.length →
          Steps s (.atomicRequest m)
            (((s.setUnit (ownerOf a.pa)
                { u with order := if a.requester ∈ u.order then u.order else u.order ++ [a.requester] }).modCore a.core fun k =>
              { k with atomNack := (k.atomNack + 1) % 2 ^ 64 }).modMsg m fun b =>
                { b with st := .nacked (s.now + if ownerOf a.pa < 8 then 1024 else 256) }))))
    ∧ (∀ (s : State) (m : Nat) (a : Msg) (t : Nat), s.arrived m = some a → a.st = .nacked t → t ≤ s.now →
      Steps s (.atomicRetry m) (s.modMsg m fun b => { b with st := .asked }))
    ∧ (∀ (s : State) (m : Nat) (a : Msg) (op n : Nat) (sb cmp : BitVec 64) (post : Bool), atOwner s m a →
      a.op = .atomic op n sb cmp post → n = 4 ∨ n = 8 → noQueue s a → s.poisoned a.pa n = false →
      a.rot = false →
      let s0 := s.meet a.pa n
      let s1 := if a.acq then s0.acquireAll a.core else s0
      let old := s.rd a.pa n
      let s2 := match atomicWrites op (8 * n) old (sb.toNat % 2 ^ (8 * n)) (cmp.toNat % 2 ^ (8 * n)) with
        | some v => s1.wr a.pa n v
        | none => s1
      Steps s (.atomicRequest m)
        (if post then s2.dropMsg m
         else answered s2 m (asReg (if n = 4 then (BitVec.ofNat 32 old).signExtend 64 else BitVec.ofNat 64 old)) none))
    ∧ (∀ (s : State) (u r : Nat), (u < 8 ∨ (16 ≤ u ∧ s.hasCore ((u - 16) / 128) = true)) → r < 576 →
      (∃ t, (r, t) ∈ (s.unit u).resv ∧ t ≤ s.now) → (∀ q ∈ (s.unit u).order, q = r) →
        Steps s (.atomicReservationExpire u r)
          (s.setUnit u { order := [], resv := (s.unit u).resv.filter fun p => p.1 != r }))
    ∧ (∀ (s : State) (m : Nat) (a : Msg) (op ty : Nat) (v : BitVec 64), atOwner s m a → a.op = .vatom op ty v → noQueue s a →
      let n := if ty = 9 ∨ ty = 10 then 8 else 4
      let old := s.rd a.pa n
      let b := v.toNat % 2 ^ (8 * n)
      let sum := fAdd Fmt.f32 0 (Fmt.f32.dec old) (Fmt.f32.dec b)
      let s1 := (s.meet a.pa n).dropMsg m
      op ≤ 1 → s.poisoned a.pa n = false → a.rot = false →
        Steps s (.vectorAtomicElement m)
          (if op = 1 then (s1.wr a.pa n (old ||| b)).setFlags a.core a.x 0
           else if ty = 0 then (s1.wr a.pa n sum.bits).setFlags a.core a.x sum.fl
           else (s1.wr a.pa n ((old + b) % 2 ^ (8 * n))).setFlags a.core a.x 0))
    ∧ (∀ (s : State) (m : Nat) (a : Msg) (v : BitVec 32), atOwner s m a → a.op = .accum v → s.customer a.pa = false →
      s.poisoned a.pa 4 = false → a.rot = false →
      let sum := fAdd Fmt.f32 0 (Fmt.f32.dec (s.rd a.pa 4)) (Fmt.f32.dec v.toNat)
      let t := (((s.meet a.pa 4).dropMsg m).wr a.pa 4 sum.bits).setFlags a.core a.x sum.fl
      Steps s (.adjointAccumulate m)
        (if (Fmt.f32.dec sum.bits).isFinite then t else t.setNfs a.core a.x Nfs.crev))
    ∧ (∀ (s : State) (m : Nat) (a : Msg), atOwner s m a → a.op = .exch → s.customer a.pa = false →
      Steps s (.adjointExchange m)
        (if s.poisoned a.pa 4 then answered (s.meet a.pa 4) m 0 (some ⟨0x10, a.va⟩)
         else answered ((s.meet a.pa 4).wr a.pa 4 0) m (BitVec.ofNat 2048 (s.rd a.pa 4)) none))

/-- A barrier's unit counts an arrival, registers or answers a waiter and releases it with a report; a round of GRED takes a
contribution and with the last gives its result; a race report traps its context next; a child's end and an event reach the
join word and the ring (R96, R114, R302 to R304, R307, R308, R353, R398, R399). Where the manual leaves a choice, the model's:
logs 28 and 69. -/
def Obligations.UnitsTakeTheirMessages : Prop :=
  (∀ (s : State) (m : Nat) (a : Msg), atOwner s m a → a.op = .barr false → a.acq = false → noQueue s a → noBwait s →
      a.rot = false → s.poisoned a.pa 16 = false → (s.barrier a.pa).usable = true →
      let b := s.barrier a.pa
      let g := s.barTag a.pa
      let last := b.count + 1 == b.expect
      Steps s (.barrierRequest m)
        (answered (((s.meet a.pa 16).wr a.pa 16
            (if last then { b with count := 0, phase := !b.phase, gen := (b.gen + 1) % 2 ^ 32 }
             else { b with count := b.count + 1 }).bits).setBarTag a.pa
          (if last then { cur := [], last := g.cur ++ a.tags } else { g with cur := g.cur ++ a.tags })) m
          (if b.phase then 1 else 0) none))
    ∧ (∀ (s : State) (m : Nat) (a : Msg) (p : Nat), s.arrived m = some a → a.op = .bwait p → a.st = .asked →
      s.heldBack a = false → s.arrivalWaits a = false → (∀ q ∈ (s.unit (ownerOf a.pa)).resv, q.1 ≠ a.requester) → noQueue s a →
      s.unitUsed (ownerOf a.pa) + (s.unit (ownerOf a.pa)).resv.length < unitCap (ownerOf a.pa) →
      s.poisoned a.pa 16 = false → (s.barrier a.pa).usable = true → vaultOf a.pa ≠ some a.core → s.down a.pa = false →
      let taken := placed s m .accepted
      Steps s (.barrierRequest m)
        (if taken.unitBusy { a with seq := s.nextId } then taken
         else if (s.barrier a.pa).phase = (p == 1) then
          (taken.modMsg m fun b => { b with st := .live, seq := 0 }).modWaiter a fun w => { w with done := false }
         else
          { taken.modMsg m fun b =>
              { b with op := .phaseReport p false, st := .live, tags := (s.barTag a.pa).last, seq := s.nextId + 1 } with
            nextId := s.nextId + 2 }))
    ∧ (∀ (s : State) (m : Nat) (a : Msg) (p : Nat) (slack : Bool) (w : WaitRec), s.arrived m = some a →
      a.op = .phaseReport p slack → s.replyBehind a = false → (s.ctx a.core a.x).waiting 7 = some w → w.id = m →
        Steps s (.barrierPhaseReport m) (((s.acquireTags a.core a.tags).dropMsg m).modCtx a.core a.x fun k =>
          { k with wait := mset 7 { w with done := true, aux := 0, slack := slack } k.wait }))
    ∧ (∀ (s : State) (m : Nat) (a : Msg) (op level : Nat) (uns : Bool) (v : BitVec 64) (st : Strand), s.arrived m = some a →
      a.op = .gred op level uns v → s.gredBehind a = false → (s.ctx a.core a.x).strand = some st →
      let h := s.hdrOf st
      let p : GPart := { core := a.core, x := a.x, idx := h.index st.wid.toNat h.glev, val := v, op := op, uns := uns
                         tags := a.tags }
      let key := h.groupKey st.wid.toNat level
      let q := clusterOf a.core
      level ≤ h.clev →
      (((∀ r ∈ (s.cluster q).rounds, ¬(r.launch = st.launch ∧ r.level = level ∧ r.group = key)) → 1 < h.groupSize level →
          Steps s (.gredContribution m) ((s.dropMsg m).modCluster q fun k =>
            { k with rounds := ⟨st.launch, level, key, [p]⟩ :: k.rounds }))
        ∧ (∀ (p0 : GPart) (w0 w1 : WaitRec), (s.cluster q).rounds = [⟨st.launch, level, key, [p0]⟩] →
          h.groupSize level = 2 → p0.idx ≠ p.idx → 2 * p0.core + p0.x ≠ 2 * a.core + a.x →
          (s.ctx p0.core p0.x).gred = some w0 → (s.ctx a.core a.x).gred = some w1 →
            Gives (exec (.gredContribution m) s) fun t =>
              let lo := if p.idx < p0.idx then p else p0
              let r := (gredOp lo.op lo.uns p0.val v).setWidth 2048
              (t.cluster q).rounds = []
                ∧ (∃ w, (t.ctx p0.core p0.x).gred = some w ∧ w.done = true ∧ w.val = r ∧ w.aux = (s.core p0.core).tick + 40)
                ∧ (∃ w, (t.ctx a.core a.x).gred = some w ∧ w.done = true ∧ w.val = r ∧ w.aux = (s.core a.core).tick + 40)
                ∧ ∀ c, (t.core c).seen =
                  (((s.acquireTags p0.core (p0.tags ++ a.tags)).acquireTags a.core (p0.tags ++ a.tags)).core c).seen)))
    ∧ (∀ (s : State) (m : Nat) (a : Msg) (ad : BitVec 64), s.arrived m = some a → a.op = .raceReport ad →
      s.replyBehind a = false → (s.ctx a.core a.x).strand.isSome = true → (s.ctx a.core a.x).trapNext = none →
        Steps s (.raceReport m) ((s.dropMsg m).modCtx a.core a.x fun k =>
          { k with trapNext := some ⟨0x0B, 5, ad⟩, save := none }))
    ∧ (∀ (s : State) (m : Nat) (a : Msg) (fault kill : Bool) (tags : List (Nat × Nat)) (c x : Nat) (st : Strand),
      s.arrived m = some a → a.op = .joinWord fault kill tags → s.eligible a = true → a.va = 0 → s.resident (a.pa - 56) = some (c, x) →
      (s.ctx c x).strand = some st → st.slot = a.pa - 56 →
        Steps s (.joinWordUpdate m) ((s.dropMsg m).modCtx c x fun k =>
          { k with
            strand := some
              { st with
                out := st.out - 1
                fault := min 0xFFFF (st.fault + if fault then 1 else 0)
                kill := min 0xFFFF (st.kill + if kill then 1 else 0)
                tags := st.tags ++ tags } }))
    ∧ (∀ (s : State) (m : Nat) (a : Msg) (e : Event), s.arrived m = some a → a.op = .event e → a.st = .live →
      s.eventBehind a = false → a.dest = .none → e.launch = none →
      let r := s.pkg.ev
      let size := 2 ^ r.log2
      let record := toBytes s.pkg.ptime 8 ++ toBytes e.code 2 ++ toBytes e.sub 2 ++ toBytes e.core 1
        ++ toBytes (e.flags + if s.pkg.evLost then 128 else 0) 1 ++ toBytes 0 2 ++ toBytes e.a.toNat 8 ++ toBytes e.b.toNat 8
        ++ toBytes e.c.toNat 8 ++ toBytes 0 24
      ((s.pkg.evBuf = [] → r.en = true → (r.prod + 65536 - r.cons) % 65536 < size →
          Steps s (.eventPost m) (((s.dropMsg m).wrBytes (r.base.toNat + 64 * (r.prod % size)) record).modPkg fun p =>
            { p with ev := { r with prod := (r.prod + 1) % 65536 }, evLost := false
                     msix := if r.prod = r.cons then p.msix ++ [r.vec] else p.msix }))
        ∧ (r.en = false → s.pkg.evBuf.length < 256 →
          Steps s (.eventPost m) ((s.dropMsg m).modPkg fun p => { p with evBuf := p.evBuf ++ [e] }))
        ∧ (r.en = false → s.pkg.evBuf.length = 256 →
          Steps s (.eventPost m) ((s.dropMsg m).modPkg fun p => { p with evHw := (p.evHw + 1) % 2 ^ 32, evLost := true }))))

/-! Steps of translation, of cores and of the matrix domain. -/

namespace Sys2Proof.Claims

/-- A TLB of n entries takes one: overlapping translations of its address space go, and the oldest entry of a full one. -/
def taken (n : Nat) (tlb : List TlbEnt) (e : TlbEnt) : List TlbEnt :=
  e :: (tlb.filter fun a => !(a.asid == e.asid && decide (a.va < e.va + e.size) && decide (e.va < a.va + a.size))).take (n - 1)

/-- The µTLB of a core, or of one of its channels, takes an entry of its cluster, which the bundle or iteration that waits for it
keeps (log 102). -/
def filled (s : State) (m : Miss) (e : TlbEnt) : State :=
  if m.unit = 0 then
    (s.modCore m.core fun k => { k with utlb := taken 64 k.utlb e }).modCtx m.core m.x fun k =>
      { k with xl := if m.exec then k.xl else e :: k.xl }
  else
    s.setChan m.core (m.unit - 1)
      { s.chan m.core (m.unit - 1) with
        utlb := taken 32 (s.chan m.core (m.unit - 1)).utlb e, xl := e :: (s.chan m.core (m.unit - 1)).xl }

/-- A page-table entry at a level, and the leaf that it is: its page, and what it permits (R389). -/
def leafIs (va e size : Nat) (t : TlbEnt) : Prop :=
  t.va = va / size * size ∧ t.size = size ∧ t.pa = e % 2 ^ 52 / 4096 * 4096 / size * size ∧ t.w = (e / 4 % 2 == 1)
    ∧ t.u = (e / 8 % 2 == 1) ∧ t.x = (e / 16 % 2 == 1)

/-- The address of the entry that a walk of a page reads at level k + 1 of the five: in the root's table, else in the table that
the entry above names (R389). -/
def entryAt (s : State) (root : BitVec 64) (vpn : Nat) : Nat → Nat
  | 0 => bitsOf root 51 12 * 4096 + 8 * (vpn / 2 ^ 36 % 512)
  | k + 1 => s.rd (entryAt s root vpn k) 8 % 2 ^ 52 / 4096 * 4096 + 8 * (vpn / 2 ^ (9 * (3 - k)) % 512)

/-- The size of the page that a leaf at level k + 1 maps: 1 GiB, 2 MiB or 4 KiB, and of its contiguous group (R389). -/
def leafSize (k : Nat) (group : Bool) : Nat :=
  if k = 2 then 2 ^ 30 else if k = 3 then (if group then 2 ^ 26 else 2 ^ 21) else if group then 65536 else 4096

/-- A walk's misses end with a code. -/
def walkFails (s : State) (q : Nat) (m : Miss) (code : Nat) : State :=
  s.modCluster q fun k => { k with misses := [{ m with walking := false, fail := some code }] }

/-- The translations that a core, and its cluster, hold of those for which `keep` is true. -/
def invalidated (s t : State) (q : Nat) (keep : TlbEnt → Bool) : Prop :=
  (t.cluster q).tlb = (s.cluster q).tlb.filter keep
    ∧ ∀ c, clusterOf c = q →
      (t.core c).utlb = (s.core c).utlb.filter keep ∧ ∀ ch, (t.chan c ch).utlb = (s.chan c ch).utlb.filter keep

/-- An entry of an address space, and one of the page of an address. -/
def ofSpace (asid : Nat) (e : TlbEnt) : Bool := e.asid == asid
def ofPage (asid vpn : Nat) (e : TlbEnt) : Bool :=
  e.asid == asid && decide (e.va ≤ 4096 * vpn) && decide (4096 * vpn < e.va + e.size)

/-- An invalidation step: of one cluster, and of every cluster of the part. Other clusters' translations stay. -/
def invalidates (i : Nat → Instr) (f : TlbEnt → Bool) : Prop :=
  ∀ (s : State) (q : Nat), s.hasCluster q = true →
    Gives (exec (i q) s) fun t => invalidated s t q (fun e => !f e) ∧ (∀ r, r ≠ q → invalidated s t r fun _ => true)
      ∧ { t with cores := s.cores, clusters := s.clusters } = s

/-- The step of every cluster also ends the command of PKG.TLBINV that it carries out. -/
def invalidatesAll (i : Instr) (cmd : CmdStep) (f : TlbEnt → Bool) : Prop :=
  ∀ s : State, Gives (exec i s) fun t => (∀ q, s.hasCluster q = true → invalidated s t q fun e => !f e)
    ∧ { t with cores := s.cores, clusters := s.clusters } = s.endCmd 0x430 cmd

/-- A bundle at the pc of a context that is ready: its page is in the µTLB of the core, executable, and its bytes, with no error to
meet, decode to b, at an issue of its group. -/
def fetched (s : State) (c x : Nat) (b : Bundle) : Prop :=
  s.hasCore c = true ∧ x < 2 ∧ (s.ctx c x).ready = true ∧ (s.ctx c x).rep ≤ b.rep
    ∧ ∃ pa, s.xlate c 0 x (s.asid c x) (s.supv c x) (s.core c).utlb (s.ctx c x).pc false true = .ok pa ∧ isReg pa = false
      ∧ isFabric pa = false ∧ s.latent = [] ∧ s.poisoned pa 64 = false ∧ decodeBundle (s.rd pa 64) = .ok b

end Sys2Proof.Claims

/-- A miss of a context or of a channel is filled from the cluster's TLB or starts a walk; a walk reads its levels in turn and
fills the TLBs with its leaf of one of five sizes, or fails at the first entry that is not present, is a leaf too high or cannot be
corrected; invalidations remove the entries of an address space or of a page from every TLB of a cluster, or of every cluster (R329
to R331, R389, R390). Where the manual leaves a choice, the model's: logs 48, 94 and 102. -/
def Obligations.TranslationsAreFilledAndInvalidated : Prop :=
  (∀ (s : State) (q : Nat) (m : Miss), s.hasCluster q = true →
      (s.cluster q).misses.find? (fun a => !a.walking && a.fail.isNone) = some m →
      ((∀ e, findTlb (s.cluster q).tlb m.asid (4096 * m.vpn) = some e →
          Steps s (.tlbFill q) ((filled s m e).modCluster q fun k => { k with misses := k.misses.filter fun a => !(a == m) }))
        ∧ (findTlb (s.cluster q).tlb m.asid (4096 * m.vpn) = none →
          let shared := (s.cluster q).misses.find? fun a => a.walking && s.pageOf a == s.pageOf { m with root := a.root }
          let v : Miss :=
            { m with
              walking := true
              root := match shared with
                | some a => a.root
                | none => mget 0 s.pkg.roots m.asid }
          (s.pageOf v ∈ s.walks q ∨ (s.walks q).length < 16) →
            Steps s (.tlbFill q) (s.modCluster q fun k =>
              { k with
                misses := k.misses.map fun a => if a = m then v else a
                tlbMiss := if m.again then k.tlbMiss else (k.tlbMiss + 1) % 2 ^ 64 }))))
    ∧ (∀ (s : State) (q : Nat) (m : Miss) (k : Nat), s.hasCluster q = true → (s.cluster q).misses = [m] →
      m.walking = true → m.vpn < 2 ^ 45 → k ≤ 4 → m.root.getLsbD 0 = true →
      let a (j : Nat) : Nat := entryAt s m.root m.vpn j
      let e := s.rd (a k) 8
      let s1 := (s.walkMeets m.root (4096 * m.vpn)).modCluster q fun k => { k with tlbWalk := (k.tlbWalk + 1) % 2 ^ 64 }
      (∀ j < k, s.poisoned (a j) 8 = false ∧ s.rd (a j) 8 % 2 = 1 ∧ s.rd (a j) 8 / 32 % 2 = 0) →
        (s.poisoned (a k) 8 = true →
          Steps s (.pageWalkDone q)
            (walkFails (s1.mcheck (q / 6) m.core (if m.unit = 0 then s.ctxFlags m.core m.x else 0)
              (BitVec.ofNat 64 (3 * 2 ^ 62 + a k)) 3) q m 0x10))
        ∧ (s.poisoned (a k) 8 = false → (e % 2 = 0 ∨ (k < 2 ∧ e / 32 % 2 = 1)) →
          Steps s (.pageWalkDone q) (walkFails s1 q m 8))
        ∧ (s.poisoned (a k) 8 = false → e % 2 = 1 → 2 ≤ k → (k = 4 ∨ e / 32 % 2 = 1) →
          ∃ t, leafIs (4096 * m.vpn) e (leafSize k (s.groupWhole (a k) (5 - k) e)) t ∧ t.asid = m.asid ∧
            Steps s (.pageWalkDone q)
              (if (s.supv m.core m.x = true ∨ t.u = true) ∧ (m.write = true → t.w = true) ∧ (m.exec = true → t.x = true) then
                (filled s1 m t).modCluster q fun k => { k with tlb := taken 4096 k.tlb t, misses := [] }
               else walkFails s1 q m 9)))
    ∧ (∀ (s : State) (q : Nat) (m : Miss), s.hasCluster q = true → (s.cluster q).misses = [m] → m.walking = true →
      m.root.getLsbD 0 = false →
        Steps s (.pageWalkDone q) (walkFails (s.modCluster q fun k => { k with tlbWalk := (k.tlbWalk + 1) % 2 ^ 64 }) q m 8))
    ∧ invalidates .tlbInvAll (fun _ => true)
    ∧ (∀ asid, invalidates (fun q => .tlbInvAsid q asid) (ofSpace asid))
    ∧ (∀ asid vpn, invalidates (fun q => .tlbInvPage q asid vpn) (ofPage asid vpn))
    ∧ invalidatesAll .pkgTlbinvAll .tlbAll (fun _ => true)
    ∧ (∀ asid, invalidatesAll (.pkgTlbinvAsid asid) (.tlbAsid asid) (ofSpace asid))
    ∧ (∀ asid vpn, invalidatesAll (.pkgTlbinvPage asid vpn) (.tlbPage asid vpn) (ofPage asid vpn))

/-- A context issues the bundle that it fetched through its core's µTLB: a bundle of NOPs in one cycle without another effect, a
bundle of one slot instruction as that instruction alone, and any bundle that nothing stops with the effects of its slots; an
idle core's cycle charges its copy channels and its ballast, a cycle that issues sets the issue to happen, and a cycle of a
crossing's hold only charges the channels; a copy channel moves the bytes of one iteration, its own chunks claimed or not, unless a
CUBE claims them (R144, R152, R153, R155, R229, R240, R314). Where the manual leaves a choice, the model's: logs 4, 12, 40,
42, 78, 80 and 81. -/
def Obligations.CoresIssueBeatAndCopy : Prop :=
  (∀ (s : State) (c x : Nat) (b : Bundle), fetched s c x b →
      let s0 : State := { s with cur := (c, x) }
      let s1 := settle s0 c x
      let ps := slotParts b c x s1
      let seqU := seqUses s1 c x
      Steps s (.bundleIssue c x) (issueBundle s0 c x b (slotParts b c x))
        ∧ (b = idleBundle → s0.calm = true → Does s0 (exec (.bundleIssue c x) s) {})
        ∧ (∀ sl i, b = Bundle.single sl i → (semOf i).isSome = true → (s.ctx c x).restart = false → (s.ctx c x).rep = 0 →
          exec (.bundleIssue c x) s = exec i s0)
        ∧ (encTrap s1 c b (s1.ctx c x).rep = none → (∀ p ∈ ps, p.g ≠ 0 → (s1.ctx c x).hasPend (.k p.g.toNat) = false) →
          (∃ p ∈ ps, p.on = true) → verdict (s1.ctx c x) ps (plogWrites b) (plogReads b) seqU = .go →
          s1.beatStop c = none →
            Steps s (.bundleIssue c x) (retire s1 c x b (ps.filter (·.on)))))
    ∧ (∀ (s : State) (c : Nat), s.hasCore c = true → (s.core c).holdUntil = 0 → (s.core c).holdCyc = 0 → (s.core c).seq = none →
      (s.core c).lead < 2 → (∀ x < 2, (s.ctx c x).strand = none) →
      let w := 3 * ((s.core c).chans.filter fun p => p.2.state == 1).length
      let S := ((s.core c).win.take 31).sum
      let bal := if (s.core c).balMode = 0 then 0 else min ((s.core c).balF / 16 - w) ((s.core c).ilim - S - w)
      Gives (exec (.coreCycle c) s) fun t =>
        t.agenda = s.agenda ∧ (t.core c).win = (w + bal) :: (s.core c).win.take 32
          ∧ (t.core c).nextCore = s.now + (s.core c).cor ∧ (t.core c).balCnt = ((s.core c).balCnt + bal) % 2 ^ 64
          ∧ (t.core c).iss = (s.core c).iss ∧ t.mem = s.mem ∧ t.net = s.net)
    ∧ (∀ (s : State) (c w : Nat) (lead drone seq iss mst : Bool), s.hasCore c = true → (s.core c).holdUntil = 0 → (s.core c).holdCyc = 0 →
      decide' s (((s.emptyCycle c 0).emptyCycle c 1).modCore c fun k => { k with seqUse := s.seqUnits c }) c
        = .go lead drone seq w false false iss mst →
        Gives (exec (.coreCycle c) s) fun t =>
          t.agenda = (if lead then [.bundleIssue c (s.core c).lead] else [])
              ++ (if drone then [.bundleIssue c (1 - (s.core c).lead)] else []) ++ (if seq then [.cubeSeqBeat c] else [])
              ++ s.agenda
            ∧ (t.core c).iss = (s.core c).iss + (if iss then 1 else 0))
    ∧ (∀ (s : State) (c : Nat), s.hasCore c = true → (s.core c).holdCyc ≠ 0 →
      let w := 3 * ((s.core c).chans.filter fun p => p.2.state == 1).length
      Gives (exec (.coreCycle c) s) fun t =>
        t.agenda = s.agenda ∧ (t.core c).win = w :: (s.core c).win.take 32 ∧ (t.core c).tick = (s.core c).tick
          ∧ (t.core c).frzClk = ((s.core c).frzClk + 1) % 2 ^ 64 ∧ (t.core c).holdCyc = (s.core c).holdCyc - 1
          ∧ (t.core c).nextCore = s.now + (s.core c).cor ∧ t.ctxs = s.ctxs)
    ∧ (∀ (s : State) (c ch : Nat), s.hasCore c = true → ch < 4 →
      let h := s.chan c ch
      let src := h.srcAddr 0
      let dst := h.dstAddr
      s.chanActive c ch = true → h.spent = false → h.sent = false → h.lost = none → h.bufBad = false →
      h.gather = false → h.dflag = false → h.rev = false → h.ssp = 1 → h.dsp = 1 → h.lenm1 = 63 →
      src.toNat % 64 = 0 → dst.toNat % 64 = 0 → vaultNum c src = c → vaultNum c dst = c →
      vpLin src < 8191 * 8192 → vpLin dst < 8191 * 8192 → s.badVp c src = false → s.badVp c dst = false →
      let from' := vaultPa c (vpLin src)
      let to' := vaultPa c (vpLin dst)
      s.shut from' = false → s.down from' = false → s.poisoned from' 64 = false → s.racy c from' 64 = false →
      s.racy c to' 64 = false → (∀ a ∈ s.net, a.core ≠ c) → s.latent = [] →
      (∀ e ∈ (s.core c).score, e.owner = .cubeA ∨ e.owner = .cubeB → e.hits true c (vpLin dst) (vpLin dst + 63) = false) →
        Gives (exec (.copyIteration c ch) s) fun t =>
          (∀ i < 64, t.mem.read (to' + i) = s.mem.read (from' + i))
            ∧ ∀ a, (a < to' ∨ to' + 64 ≤ a) → t.mem.read a = s.mem.read a)

/-! Steps of strands and launches. -/

namespace Sys2Proof.Claims

/-- A never-run strand's record taken by a context: it runs from the record's pc with ARG in s1 and the checkpoint timer loaded,
everything else of its registers at the start value (R92, R94, R97). -/
def startedFrom (s t : State) (c x l pa : Nat) : Prop :=
  let k := t.ctx c x
  let h := (s.launch l).hdr
  (∃ st, k.strand = some st ∧ st.slot = pa ∧ st.launch = l ∧ st.wid.toNat = s.rd (pa + 8) 8 ∧ st.hdr.toNat = s.rd (pa + 16) 8
      ∧ st.pjoin = s.rd (pa + 32) 8 ∧ st.out = s.rd (pa + 56) 4)
    ∧ k.pc.toNat = s.rd pa 8 / 64 * 64 ∧ k.rs 1 = BitVec.ofNat 64 (s.rd (pa + 48) 8) ∧ (∀ r, r ≠ 1 → k.rs r = 0)
    ∧ (∀ r, k.rv r = 0) ∧ (∀ r, r ≠ 0 → k.rk r = 0) ∧ k.ckpt = h.ckpti * 4000 ∧ k.shape = 0 ∧ k.rnd = 0 ∧ k.rev = false
    ∧ k.restore = none ∧ k.cyc = (s.ctx c x).cyc

/-- A record that may be written where it stands. -/
def recordOk (s : State) (pa : Nat) : Prop := isHbm pa = true ∧ pa % 4096 = 0 ∧ s.shut pa = false

/-- A slot whose n bytes lie in one HBM window of memory in service. -/
def slotOk (s : State) (pa n : Nat) : Prop :=
  isHbm pa = true ∧ pa % 4096 = 0 ∧ (pa + n ≤ 0x8000000000 ∨ 0x8000000000 ≤ pa)
    ∧ ∀ i < n, isHbm (pa + i) = true ∧ s.shut (pa + i) = false

/-- The live-range entry that a record or a save names, in the header's table: readable, and its value (R105, R117). -/
def entryIs (s : State) (c x : Nat) (st : Strand) (id : Nat) (e : Live) : Prop :=
  ∃ pa, s.xslot c x ((s.hdrOf st).live + BitVec.ofNat 64 (128 * id)) false = .ok pa ∧ s.poisoned pa 128 = false
    ∧ e = Live.ofNat (s.rd pa 128)

/-- What the 128 bytes of an entry name (R105). -/
def namedBy (v : Nat) (e : Live) : Prop :=
  (∀ i, i ∈ e.s ↔ 1 ≤ i ∧ i < 64 ∧ v.testBit i = true) ∧ (∀ i, i ∈ e.k ↔ 1 ≤ i ∧ i < 16 ∧ v.testBit (64 + i) = true)
    ∧ (∀ i, i ∈ e.acc ↔ (i < 16 ∧ v.testBit (80 + i) = true) ∨ (i = 16 ∧ v.testBit 128 = true))
    ∧ (∀ i, i ∈ e.la ↔ i < 32 ∧ v.testBit (96 + i) = true) ∧ e.chans = v.testBit 129
    ∧ (∀ i, i ∈ e.v ↔ i < 2048 ∧ ∃ n < 8, let w := v / 2 ^ (192 + 32 * n)
        w % 2048 ≤ i ∧ i < w % 2048 + w / 2048 % 4096)
    ∧ e.vault = (((List.range 4).map fun n => v / 2 ^ (448 + 64 * n) % 2 ^ 64).map fun w =>
        (w % 2 ^ 20, w / 2 ^ 20 % 2 ^ 20, 1024 * (w / 2 ^ 40))).filter fun r => r.2.1 != 0

/-- The registers, landing slots and tiles of an image in its slot (R106). -/
def imageAt (t : State) (pa : Nat) (k : Ctx) (q : Core) (e : Live) : Prop :=
  (∀ i ∈ e.s, t.rd (pa + 0x400 + 8 * i) 8 = (mget 0 k.s i).toNat)
    ∧ (∀ i ∈ e.k, t.rd (pa + 0x600 + 8 * i) 8 = (mget 0 k.k i).toNat)
    ∧ (∀ i ∈ e.la, t.rd (pa + 0x800 + 256 * i) 256 = (k.slot i).data.toNat)
    ∧ (∀ i ∈ e.v, t.rd (pa + 0x4000 + 256 * i) 256 = (mget 0 k.v i).toNat)
    ∧ ∀ a ∈ e.acc, ∀ i < 16384, t.rd (pa + 0x84000 + 0x20000 * a + 8 * i) 8 = (mget {} q.elems (a * 16384 + i)).word

/-- Nothing of a context is due at its core's present cycle. -/
def still (k : Ctx) : Prop := k.pend = [] ∧ ∀ p ∈ k.la, p.2.due = none

end Sys2Proof.Claims

/-- A live-range entry names what a save keeps. A strand whose waits are over is saved, in full or what its entry names, and its
context freed; a saved one is restored from its image, what the entry does not list as zero, a stopped CUBE to start again; an idle context
takes the record at the head of its stack's resume list and starts a strand that has never run; a lead whose checkpoint timer
has run out ends in state 5 (R94, R97, R105 to R110, R116, R118). Where the manual leaves a choice, the model's: logs
19, 30, 31, 33, 34, 90 and 111. -/
def Obligations.StrandsAreSavedRestoredAndStarted : Prop :=
  (∀ v : Nat, namedBy v (Live.ofNat v))
    ∧ (∀ (s : State) (c x : Nat) (st : Strand) (sv : Save) (e : Live), s.hasCore c = true → x < 2 → still (s.ctx c x) →
      s.latent = [] → (s.ctx c x).save = some sv → (s.ctx c x).strand = some st → slotOk s st.slot e.extent →
      (match sv.entry with
        | none => e = Live.full (s.hdrOf st).cube
        | some id => entryIs s c x st id e) →
      e.extent ≤ (s.hdrOf st).slotBytes → saveWaits (settle s c x) c x st.slot e = false → s.relHeld c = false →
      (∀ p ∈ imageParts (saveChans (settle s c x) c st.slot e) c x st.slot e, p.bad = false) →
        Gives (exec (.strandSaveDone c x) s) fun t =>
          let old := s.rd (st.slot + 44) 4
          (t.ctx c x).strand = none ∧ (t.ctx c x).save = none ∧ mget 0 t.home st.slot = c
            ∧ (t.recState st.slot = match sv.kind with
                | .fault => 2
                | .join => if st.out = 0 then 7 else 3
                | _ => 7)
            ∧ t.rd st.slot 8 / 64 = (s.ctx c x).pc.toNat / 64
            ∧ (t.rd (st.slot + 44) 4 = match sv.entry with
                | some id => id % 2 ^ 32
                | none => if old = 2 ^ 32 - 1 then 0 else old)
            ∧ (e.vault = [] → imageAt t st.slot (s.ctx c x) (s.core c) e)
            ∧ (sv.kind = .ckpt ∨ sv.kind = .swap → st.slot ∈ (t.stk (stackOf c)).resume)
            ∧ (sv.kind = .swap → (t.core c).lead = 1 - x ∧ (t.core c).swapReq = false)
            ∧ (sv.kind = .yield → (s.core c).deque.length < 1056 → st.slot ∈ (t.core c).deque))
    ∧ (∀ (s : State) (c x was : Nat) (st : Strand) (e : Live), s.hasCore c = true → x < 2 → (s.ctx c x).restore = some was →
      (s.ctx c x).strand = some st → s.latent = [] → (s.ctx c x).v = [] → (s.ctx c x).k = [] →
      (if was = 2 then e = Live.full (s.hdrOf st).cube else entryIs s c x st (s.rd (st.slot + 44) 4) e) →
      fixedOk s c st.slot = true → fixedFmtOk s st.slot = true → (∀ ch ∈ savedChans s st.slot e, (s.chan c ch).state ≠ 1) →
        Gives (exec (.strandRestore c x) s) fun t =>
          let k := t.ctx c x
          let pa := st.slot
          k.restore = none ∧ k.pc = (s.ctx c x).pc ∧ k.strand = (s.ctx c x).strand
            ∧ (∀ r : BitVec 6, k.rs r = if r.toNat ∈ e.s then BitVec.ofNat 64 (s.rd (pa + 0x400 + 8 * r.toNat) 8) else 0)
            ∧ (∀ r : BitVec 11, k.rv r = if r.toNat ∈ e.v then BitVec.ofNat 2048 (s.rd (pa + 0x4000 + 256 * r.toNat) 256) else 0)
            ∧ (∀ r : BitVec 4, r ≠ 0 →
                k.rk r = if r.toNat ∈ e.k then BitVec.ofNat 64 (s.rd (pa + 0x600 + 8 * r.toNat) 8) else 0)
            ∧ (∀ i < 32, if i ∈ e.la ∧ s.rd (pa + 0x200 + 2 * i) 2 / 2 ^ 15 = 1 then
                (k.slot i).st = .full ∧ (k.slot i).arr = (s.ctx c x).cyc
                  ∧ (k.slot i).data = BitVec.ofNat 2048 (s.rd (pa + 0x800 + 256 * i) 256)
              else k.slot i = {})
            ∧ k.shape = s.rd (pa + 0x60) 8 ∧ k.rnd = s.rd (pa + 0x40) 8
            ∧ k.rep = s.rd (pa + 40) 4 / 2 ^ 21 % 64 ∧ k.ckpt = s.rd (pa + 0x98) 8
            ∧ k.mx = MxProg.ofWord (s.rd (pa + 0x90) 8) ∧ (k.restart = true ↔ k.mx.phase = 2)
            ∧ (∀ a ≤ 16, if a ∈ e.acc then
                (t.core c).tileExp a = sgn 16 (s.rd (pa + 0xC0 + 2 * a) 2)
                  ∧ ∀ i < 16384, mget {} (t.core c).elems (a * 16384 + i) = Elem.ofWord (s.rd (pa + 0x84000 + 0x20000 * a + 8 * i) 8)
              else (t.core c).tileExp a = (s.core c).tileExp a
                ∧ ∀ i < 16384, mget {} (t.core c).elems (a * 16384 + i) = mget {} (s.core c).elems (a * 16384 + i))
            ∧ (∀ ch ∈ savedChans s pa e, (t.chan c ch).owner = x ∧ (t.chan c ch).mark = some pa
                ∧ (t.chan c ch).state = (savedChan s pa ch).state)
            ∧ ∀ u n o, e.vault = [(u, n, o)] → u + n ≤ 2 ^ 20 → s.shut (vaultPa c (64 * u)) = false →
                slotOk s pa (o + 64 * n) → ∀ i < 64 * n, t.rd (vaultPa c (64 * u) + i) 1 = s.rd (pa + o + i) 1)
    ∧ (∀ (s : State) (c x l pa : Nat) (rest : List Nat), s.hasCore c = true → x < 2 → s.inService c = true →
      (s.ctx c x).strand = none → (s.stk (stackOf c)).resume = pa :: rest → s.launchAt pa = some l →
      (s.launch l).hdr.prio = 3 → s.mayTake c x pa = true → s.rd (pa + 44) 4 = 2 ^ 32 - 1 → recordOk s pa →
        Gives (exec (.contextTakeWork c x) s) fun t =>
          startedFrom s t c x l pa ∧ t.recState pa = 1 ∧ (t.stk (stackOf c)).resume = rest.filter (· != pa)
            ∧ mget 0 t.home pa = c ∧ ∀ d y, y < 2 → (d, y) ≠ (c, x) → t.ctx d y = s.ctx d y)
    ∧ (∀ (s : State) (c x : Nat) (st : Strand), s.hasCore c = true → x < 2 → (s.ctx c x).strand = some st →
      (s.ctx c x).ckpt = 0 → (s.hdrOf st).ckpti ≠ 0 → s.isDrone c x = false → (s.ctx c x).trapm = false →
        Steps s (.ckptTimerExpire c x) (s.endStrand c x 5 0x11 0 (s.ctx c x).rep)
          ∧ Gives (exec (.ckptTimerExpire c x) s) fun t => (t.ctx c x).strand = none)

/-- The next range of a launch goes to its eligible cluster of the lowest rank; a gang starts whole in its cluster; a launch
that finds too few contexts asks the easiest victim; the head entry of the queue served is read and a valid launch admitted;
PROD moves or is refused with an event; a kill ends the launches of a header, and a resumed strand joins the resume list (R85,
R86, R102, R122, R124, R334, R335, R393 to R397). Where the manual leaves a choice, the model's: logs 50 and 70. -/
def Obligations.LaunchesAreAdmittedAndPlaced : Prop :=
  (∀ (s : State) (l n : Nat), l < 256 →
      let v := s.launch l
      v.state = 1 → v.hdr.glev = 0 → v.hdr.clev = 0 → v.nhand < v.hdr.total →
      (∀ p ∈ s.pkg.launches, p.2.ahead v = true → s.canHand p.1 = false) →
      n < 24 → s.clusterEligible l n = true →
      (∀ q < 24, q ≠ n → s.clusterEligible l q = true → (s.fuse n).rank < (s.fuse q).rank) →
      let size := min 16 (v.hdr.total - v.nhand)
      Steps s (.dispatchRange l) ((s.setLaunch l { v with nhand := v.nhand + size }).modCluster n fun q =>
        { q with ranges := q.ranges ++ [{ launch := l, next := v.nhand, last := v.nhand + size, gang := false }] }))
    ∧ (∀ (s : State) (l q : Nat) (r : Range) (ps : List (Nat × Nat)), l < 256 → q < 24 → (s.launch l).state = 1 →
      (s.cluster q).ranges = [r] → r.launch = l → r.gang = true → s.clusterPlaces l q = some ps →
      (∀ p < 24, p ≠ q → (s.cluster p).ranges = []) →
        Steps s (.gangAdmit l) ((s.startGang l r.next ps).modCluster q fun a =>
          { a with ranges := if r.last ≤ r.next + (s.launch l).hdr.gang then a.ranges.filter (· != r)
                             else a.ranges.map fun b => if b = r then { b with next := b.next + (s.launch l).hdr.gang } else b }))
    ∧ (∀ (s : State) (l : Nat) (w : List Nat × Nat) (p : Nat × Nat), l < 256 →
      let h := (s.launch l).hdr
      let free (w : List Nat × Nat) : Nat := (s.freeCtxs h w.1).length
      (s.wants l).find? (fun w => decide (free w + (s.askedFor l w.1).length < w.2) && !(s.victims h w.1).isEmpty) = some w →
      (∀ a ∈ s.askedFor l (List.range 96), ∃ u ∈ s.wants l, free u < u.2 ∧ a.1 ∈ u.1) → p ∈ s.victims h w.1 →
      (∀ q ∈ s.victims h w.1, q ≠ p → s.victimRank p.1 p.2 < s.victimRank q.1 q.2) →
        Steps s (.preemptRequest l) (s.modCtx p.1 p.2 fun k => { k with preempt := some l }))
    ∧ (∀ (s : State) (q l pa : Nat) (h : Header), q < 16 →
      let k := s.queue q
      let a := k.base.toNat + 32 * (k.cons % k.size)
      let word (o : Nat) : BitVec 64 := BitVec.ofNat 64 (s.rd (a + o) 8)
      s.servedQueue = some q → s.freeEntry = some l → (word 24).getLsbD 63 = false →
      s.headerAt k.asid k.supv (word 0) = some (pa, h) → s.headerCheck k.asid h = 0 → (∀ w < 64, (s.rwin w).bound = false) →
      let v : Launch :=
        { state := 1, hdrPa := pa, arg := word 8, tag := word 16, nleft := h.total, spawned := false, supv := k.supv
          asid := k.asid, queue := q, hdr := h, poolPa := (s.poolOf k.asid h).getD 0, order := s.pkg.admitted
          hdrVa := word 0 }
      Steps s (.lqEntryRead q) ((s.modPkg fun p =>
        { p with queues := mset q { k with cons := (k.cons + 1) % 65536 } p.queues, nextQueue := (q + 1) % 16
                 admitted := p.admitted + 1 }).setLaunch l v))
    ∧ (∀ (s : State) (q pa : Nat) (h : Header), q < 16 →
      let k := s.queue q
      let a := k.base.toNat + 32 * (k.cons % k.size)
      let word (o : Nat) : BitVec 64 := BitVec.ofNat 64 (s.rd (a + o) 8)
      s.servedQueue = some q → s.freeEntry.isSome = true → (word 24).getLsbD 63 = false →
      s.headerAt k.asid k.supv (word 0) = some (pa, h) → s.headerCheck k.asid h ≠ 0 →
      Steps s (.lqEntryRead q) ((s.modPkg fun p =>
        { p with queues := mset q { k with cons := (k.cons + 1) % 65536 } p.queues, nextQueue := (q + 1) % 16 }).post
          ⟨2, q, 0xFF, 0, word 0, BitVec.ofNat 64 (s.headerCheck k.asid h), word 16, none⟩))
    ∧ (∀ (s : State) (q : Nat) (v : BitVec 64), q < 16 →
      let k := s.queue q
      let new := v.toNat % 65536
      Steps s (.lqProdWrite q v)
        (if (new + 65536 - k.cons) % 65536 ≤ k.size then s.setQueue q { k with prod := new }
         else s.post ⟨0x0C, q, 0xFF, 0, BitVec.ofNat 64 new, BitVec.ofNat 64 k.cons, 0, none⟩))
    ∧ (∀ (s : State) (v : BitVec 64), v.toNat < 2 ^ 52 →
      Steps s (.pkgKill v)
        ((s.pkg.launches.filter fun p => p.2.state == 1 && p.2.hdrPa == v.toNat).foldl (fun t p => t.killLaunch p.1) s))
    ∧ (∀ (s : State) (v : BitVec 64) (l : Nat),
      let t := stackOf (mget 0 s.home v.toNat)
      s.launchAt v.toNat = some l → s.recState v.toNat = 2 → s.resident v.toNat = none → v.toNat ∉ (s.stk t).resume →
        Steps s (.pkgResume v) (s.modStk t fun k => { k with resume := k.resume ++ [v.toNat] }))

/-! Steps of rails, of stacks, and of errors. -/

namespace Sys2Proof.Claims

/-- The largest of some readings. -/
def largest (l : List Nat) : Nat := l.foldl max 0

/-- The nine readings of a column. -/
def columnOf (temps : List Nat) (col : Nat) : List Nat := (List.range 9).map fun l => temps.getD (9 * col + l) 0 % 1024

/-- The thermal step after a boundary for the hottest reading (R373). -/
def stepAfter (k : Stack) : Nat :=
  let target := if k.tmax < k.t0 then 0 else min 7 ((k.tmax - k.t0) / k.govW + 1)
  if k.tstep < target then target
  else if target < k.tstep ∧ k.tmax + k.hyst < k.t0 + (k.tstep - 1) * k.govW then k.tstep - 1
  else k.tstep

/-- The step in force changed, with its count and its event (R373, R399). -/
def governed (s : State) (t step : Nat) : State :=
  let k := s.stk t
  if k.govStep = step then s
  else
    (s.modStk t fun k => { k with govStep := step, nchg := min 255 (k.nchg + 1) }).post
      ⟨6, t, 0xFF, 0, BitVec.ofNat 64 k.govStep, BitVec.ofNat 64 step,
        BitVec.ofNat 64 (k.tmaxCol * 2 ^ 24 + k.tmaxLayer * 2 ^ 16 + k.tmax), none⟩

/-- The last message sent is an event. -/
def posted (s : State) (e : Event) : Prop := ∃ m, s.net.getLast? = some m ∧ m.op = .event e

/-- A corrected error counted. -/
def corrected (s : State) (t : Nat) : State := s.modStk t fun k => { k with ce := k.ce + 1 }

end Sys2Proof.Claims

/-- The rail moves one code a µs, up before its divisors change and down after; a write of GOV.MIN that raises the step acts
at once; a sampling boundary records each core's sample and the thermal step follows the hottest reading; a sensor sample
pauses the columns at TTRIP and fails the stack at 115 °C (R131, R310, R337, R372 to R376). Where the manual leaves a choice,
the model's: logs 51, 53, 82 and 83. -/
def Obligations.RailsAndStacksFollowTheirRules : Prop :=
  (∀ (s : State) (q : Nat), s.hasCluster q = true → (s.cluster q).railAt ≤ s.now →
      let k := s.cluster q
      ((k.mstate = 1 → k.vnow + 1 < k.vtgt →
          Steps s (.railCodeStep q) (s.modCluster q fun k => { k with vnow := k.vnow + 1, railAt := s.now + 4000 }))
        ∧ (k.mstate = 1 → k.vtgt ≤ k.vnow + 1 →
          Steps s (.railCodeStep q) (s.modCluster q fun k => { k with vnow := k.vtgt, mstate := 2, divPend := true }))
        ∧ (k.mstate = 3 → k.vtgt + 1 < k.vnow →
          Steps s (.railCodeStep q) (s.modCluster q fun k => { k with vnow := k.vnow - 1, railAt := s.now + 4000 }))
        ∧ (k.mstate = 3 → k.vnow ≤ k.vtgt + 1 → k.mbox = none →
          Steps s (.railCodeStep q) (s.modCluster q fun k => { k with vnow := k.vtgt, mstate := 0, last := 5 }))))
    ∧ (∀ (s : State) (q : Nat), s.hasCluster q = true → (s.cluster q).mstate = 2 → (s.cluster q).divPend = false →
      (∀ c ∈ coresOf q, (s.core c).holdUntil = 0 ∧ (s.core c).copyHold ≤ s.now) →
      ((s.cluster q).railAt ≠ 0 → (s.cluster q).mbox = none →
          Steps s (.railDivisorDone q) (s.modCluster q fun k => { k with mstate := 0, last := 5 }))
        ∧ ((s.cluster q).railAt = 0 → Steps s (.railDivisorDone q) (s.modCluster q fun k =>
          { k with mstate := 3, railAt := if k.vnow = k.vtgt then s.now + 1 else s.now + 4000 })))
    ∧ (∀ (s : State) (t : Nat) (v : BitVec 64), s.hasStack t = true →
      let m := (v.extractLsb' 0 3).toNat
      let s1 := s.modStk t fun k => { k with govMin := m }
      Steps s (.govMinWrite t v) (if (s.stk t).govStep < m then governed s1 t m else s1))
    ∧ (∀ (s : State) (t : Nat), s.hasStack t = true →
      Gives (exec (.sampleBoundary t) s) fun u =>
        (∀ c, stackOf c = t →
          let k := s.core c
          let e := (k.srPtr + 1) % 16
          u.core c =
            { k with
              ring := mset e (BitVec.ofNat 64 (k.mst % 2 ^ 32 * 2 ^ 32 + k.iss % 2 ^ 32),
                BitVec.ofNat 64 ((s.stk t).seq % 2 ^ 32 * 2 ^ 32 + (s.cluster (clusterOf c)).vnow % 128 * 2 ^ 16
                  + (k.cpy * 4096 + k.mat * 256 + k.vec * 16 + k.cor))) k.ring
              srPtr := e, iss := 0, mst := 0, dstarveAt := k.dstarve })
          ∧ (u.stk t).seq = ((s.stk t).seq + 1) % 2 ^ 32 ∧ (u.stk t).tstep = stepAfter (s.stk t)
          ∧ (u.stk t).govStep = max (stepAfter (s.stk t)) (s.stk t).govMin ∧ u.mem = s.mem)
    ∧ (∀ (s : State) (t : Nat) (temps : List Nat), s.hasStack t = true → (s.stk t).pause = 0 → (s.stk t).failed = false →
      let top := largest ((List.range 24).map fun col => largest (columnOf temps col))
      (top < 460 → Gives (exec (.sensorSample t temps) s) fun u =>
          (u.stk t).tmax = top ∧ (∀ col < 24, (mget (0, 0) (u.stk t).colTemp col).1 = largest (columnOf temps col))
            ∧ (∀ col < 24, ((u.stk t).pause.testBit col = true ↔ (s.stk t).ttrip ≤ largest (columnOf temps col)))
            ∧ (u.stk t).failed = false)
        ∧ (460 ≤ top → (∀ q ∈ clustersOf t, s.launchesIn q = []) → (s.stk t).ranges = [] → (s.stk t).resume = [] →
          Gives (exec (.sensorSample t temps) s) fun u =>
          (u.stk t).failed = true ∧ (u.stk t).cause = 2 ∧ (u.stk t).trip = true))

/-- A telemetry record is written with its sequence number or counted as lost; each dwell period the clusters' slack is taken
up; a pass of the stamp scrubber clears the stale stamps; errors poison or count what they strike, bus retries are counted,
and a lane, a layer, a cluster or a stack that fails is taken out with its event (R350, R356, R357, R365, R366, R377 to R379,
R404, R438, R440). Where the manual leaves a choice, the model's: logs 4, 8, 52, 54, 55 and 82. -/
def Obligations.TelemetrySlackScrubbersAndFailures : Prop :=
  (∀ s : State,
      let r := s.pkg.tel
      let size := 2 ^ r.log2
      let next (p : Pkg) : Pkg := { p with telSeq := (p.telSeq + 1) % 2 ^ 32 }
      let began (p : Pkg) : Pkg := { p with telCur := s.sumCur, telHeat := s.sumHeat, telLimited := false, telBallast := false }
      let later (t : State) : State := { t with free := t.free + 5 }
      (r.en = false → Steps s .telemetryRecord ((later s).modPkg began))
        ∧ (r.en = true → size ≤ (r.prod + 65536 - r.cons) % 65536 →
          Steps s .telemetryRecord ((later s).modPkg fun p => began (next { p with telLost := p.telLost + 1 })))
        ∧ (r.en = true → (r.prod + 65536 - r.cons) % 65536 < size → ∃ bs : List (BitVec 8), bs.length = 32
          ∧ bs.take 8 = toBytes s.pkg.ptime 8 ∧ (bs.drop 20).take 4 = toBytes s.pkg.telSeq 4
          ∧ Steps s .telemetryRecord ((later (s.wrBytes (r.base.toNat + 32 * (r.prod % size)) bs)).modPkg fun p =>
            began (next { p with tel := { r with prod := (r.prod + 1) % 65536 }
                                 msix := if r.prod = r.cons then p.msix ++ [r.vec] else p.msix }))))
    ∧ (∀ s : State, Gives (exec .slackDwell s) fun u =>
        u.pkg.slkLast = s.pkg.slkCur ∧ u.pkg.slkCur = 0 ∧ u.mem = s.mem ∧ u.cores = s.cores
          ∧ ∀ q, s.hasCluster q = true →
            let k := s.cluster q
            let f := if k.heldCyc = 0 then 0 else min 1024 (k.slackCyc * 1024 / k.heldCyc)
            (u.cluster q).slkF = f ∧ (u.cluster q).slackCyc = 0 ∧ (u.cluster q).heldCyc = 0
              ∧ ((u.cluster q).slkA : Int) = (if s.pkg.slkEn then max 0 ((k.slkA : Int) + ((f : Int) - k.slkA) / 8) else 0)
              ∧ (s.pkg.slkEn = false → (u.cluster q).slkS = 0)
              ∧ ((u.cluster q).slkS ≤ max k.slkS 7 ∧ (u.cluster q).vnow = k.vnow))
    ∧ (∀ (s : State) (t : Nat), s.hasStack t = true →
      Gives (exec (.stampScrubPass t) s) fun u =>
        let p (b : Nat) : Nat := mget 0 (s.stk t).scrubP b
        u.stamps = s.stamps.filter (fun e =>
            let d := (p e.2.1 + 256 - e.2.2) % 256
            !(stackOf (e.1 / 2 ^ 20) == t && decide (64 ≤ d) && decide (d < 128)))
          ∧ (∀ c, stackOf c = t → (u.core c).rgPass = p (c % 24) ∧ (u.core c).rgCur = (s.core c).rgCur)
          ∧ (∀ b < 24, mget 0 (u.stk t).scrubP b = (s.core (24 * t + b)).rgCur) ∧ u.mem = s.mem)
    ∧ (∀ (s : State) (v w : Nat), s.hasCore v = true → w < 2 ^ 23 →
      let pa := 0x10000000000 + v * 2 ^ 26 + 8 * w
      let at' := BitVec.ofNat 64 (v * 2 ^ 26 + 8 * w)
      let cured : State := { s with latent := mdel (pa / 8) s.latent }
      (mget none (s.latent.map fun p => (p.1, some p.2)) (pa / 8) = none → Steps s (.patrolScrub v w) s)
        ∧ (mget none (s.latent.map fun p => (p.1, some p.2)) (pa / 8) = some false →
          Steps s (.patrolScrub v w) (corrected cured (stackOf v)))
        ∧ (mget none (s.latent.map fun p => (p.1, some p.2)) (pa / 8) = some true →
          Steps s (.patrolScrub v w)
            (((cured.setPoison pa 8).modStk (stackOf v) fun k => { k with ue := k.ue + 1, ueAddr := at' }).mcheck (stackOf v)
              0xFF 0 at' 4)))
    ∧ (∀ (s : State) (v w : Nat) (ue : Bool), s.hasCore v = true → w < 2 ^ 23 →
      Steps s (.softError (.vaultWord v w) ue)
        { s with latent := mset ((0x10000000000 + v * 2 ^ 26 + 8 * w) / 8) ue s.latent })
    ∧ (∀ (s : State) (c t n : Nat), s.hasCore c = true → t < 17 → n < 16384 →
      Gives (exec (.softError (.tile c t n) true) s) fun u =>
        (u.stk (stackOf c)).ue = (s.stk (stackOf c)).ue + 1 ∧ u.mem = s.mem
          ∧ (u.core c).tileMarks = mset (elemKey t n) ⟨0x10, 0⟩ (s.core c).tileMarks)
    ∧ (∀ (s : State) (c x r : Nat), s.hasCore c = true → x < 2 →
      (r < 64 → Steps s (.softError (.scalar c x r) false) (corrected s (stackOf c)))
        ∧ (r < 64 → Gives (exec (.softError (.scalar c x r) true) s) fun u =>
          (∃ m, ((u.ctx c x).marks.find? fun p => p.1 == (RegName.s r).key) = some m ∧ m.2.code = 0x10)
            ∧ (u.stk (stackOf c)).ue = (s.stk (stackOf c)).ue + 1 ∧ (u.ctx c x).s = (s.ctx c x).s)
        ∧ (r < 32 → Gives (exec (.softError (.landing c x r) true) s) fun u =>
          ((u.ctx c x).slot r) = { (s.ctx c x).slot r with mark := some ⟨0x10, 0⟩ }))
    ∧ (∀ (s : State) (v u : Nat) (ue : Bool), s.hasCore v = true → u < 2 ^ 20 →
      Steps s (.softError (.stamp v u) ue) { s with stamps := mdel (v * 2 ^ 20 + u) s.stamps })
    ∧ (∀ (s : State) (q : Nat), s.hasCluster q = true →
      Gives (exec (.softError (.tlb q) false) s) fun u =>
        (u.cluster q).tlberr = min (2 ^ 32 - 1) ((s.cluster q).tlberr + 1) ∧ (∃ i, (u.cluster q).tlb = (s.cluster q).tlb.eraseIdx i)
          ∧ u.mem = s.mem ∧ u.cores = s.cores)
    ∧ (∀ (s : State) (t lane : Nat), s.hasStack t = true →
      let times := ((mget [] (s.stk t).laneRetries lane).filter fun a => s.now < a + 4000000) ++ [s.now]
      let run := mget 0 (s.stk t).laneRun lane + 1
      Gives (exec (.vbusFlitRetry t lane) s) fun u =>
        (u.stk t).retry = min (2 ^ 32 - 1) ((s.stk t).retry + 1) ∧ mget [] (u.stk t).laneRetries lane = times
          ∧ (u.stk t).pending = ((s.stk t).pending || decide (16 ≤ times.length))
          ∧ (16 ≤ times.length → lane ∈ mget [] u.flashLanes t)
          ∧ (u.stk t).ue = (s.stk t).ue + (if 8 ≤ run then 1 else 0) ∧ u.mem = s.mem ∧ u.net = s.net)
    ∧ (∀ (s : State) (c layer : Nat), s.hasCore c = true → layer < 9 →
      Gives (exec (.layerRuntimeFail c layer) s) fun u =>
        (u.stk (stackOf c)).rtFail.testBit (c % 24) = true
          ∧ (∀ i < 17 * 16384, (mget {} (u.core c).elems i).cls = 3) ∧ (mget 0 u.badLayers c).testBit layer = true
          ∧ posted u ⟨8, stackOf c, c, 0, BitVec.ofNat 64 (c % 24), BitVec.ofNat 64 layer, 0, none⟩ ∧ u.mem = s.mem)
    ∧ (∀ (s : State) (q cause : Nat), s.hasCluster q = true → (s.cluster q).failed = false → s.launchesIn q = [] →
      Gives (exec (.clusterFail q cause) s) fun u =>
        (u.cluster q).failed = true ∧ (u.cluster q).cause = cause % 256
          ∧ (∀ c ∈ coresOf q, ∀ ch < 4, (u.chan c ch).state = 0)
          ∧ posted u ⟨9, q / 6, 0xFF, 0, BitVec.ofNat 64 (q % 6), BitVec.ofNat 64 (cause % 256), 0, none⟩ ∧ u.mem = s.mem)
    ∧ (∀ (s : State) (t cause : Nat), s.hasStack t = true → (s.stk t).failed = false → (∀ q ∈ clustersOf t, s.launchesIn q = []) →
      (s.stk t).ranges = [] → (s.stk t).resume = [] →
      Gives (exec (.stackFail t cause) s) fun u =>
        (u.stk t).failed = true ∧ (u.stk t).cause = cause % 256 ∧ (∀ q ∈ clustersOf t, (u.cluster q).failed = true)
          ∧ posted u ⟨10, t, 0xFF, 0, BitVec.ofNat 64 (cause % 256), 0, 0, none⟩ ∧ u.mem = s.mem)
    ∧ (∀ (s : State) (m : Nat) (a : Msg), s.msg m = some a → a.bridge.isSome = true → (∀ h ∈ s.pkg.brgHoles, h.1 ≠ m) →
      Steps s (.bridgeTrimmedHeader m) (s.modPkg fun p =>
        { p with brgTrim := p.brgTrim + 1, brgRx := (p.brgRx + 1) % 2 ^ 32, brgTx := (p.brgTx + 1) % 2 ^ 32
                 brgHoles := p.brgHoles ++ [(m, s.now)] }))
    ∧ (∀ (s : State) (m born : Nat), s.pkg.brgHoles = [(m, born)] →
      Steps s (.bridgeRetransmission m) (s.modPkg fun p =>
        { p with brgRetx := p.brgRetx + 1, brgHoles := [], brgHole := min (2 ^ 32 - 1) (max p.brgHole ((s.now - born) / 4)) }))

/-! Steps of resets and bring-up, of package registers, and of the host. -/

namespace Sys2Proof.Claims

/-- Everything of the machine but what stands outside the package, the fuses, the faults of the silicon, time, the inputs to come
and the counters of free values and packets is as at a cold reset (R11, R407). -/
def coldAfter (s t : State) : Prop :=
  t.ctxs = [] ∧ t.cores = [] ∧ t.stks = [] ∧ t.net = [] ∧ t.agenda = [] ∧ t.units = [] ∧ t.stamps = [] ∧ t.home = []
    ∧ t.pkg = { ({} : Pkg) with out := s.pkg.out, revision := s.pkg.revision } ∧ t.form = s.form ∧ t.fuses = s.fuses ∧ t.now = s.now
    ∧ (∀ q, { t.cluster q with refBase := 0 } = ({} : Cluster))
    ∧ (∀ a, t.mem.read a = if isHost a = true ∨ isCxl a = true then s.mem.read a else 0)

/-- A warm reset without a launch running: contexts, cores, clusters, stacks and queues start again, with what R407 keeps: HBM, vaults
whose rail stays up, PTIME and the machine-check log; M0 and M1 are measured again, which is the model's reading of the rule
(log 95) (R369, R407). -/
def warmAfter (s t : State) : Prop :=
  t.ctxs = [] ∧ t.cores = [] ∧ t.net = [] ∧ t.agenda = [] ∧ t.stamps = [] ∧ t.pkg.queues = [] ∧ t.pkg.launches = []
    ∧ t.pkg.roots = [] ∧ t.pkg.groups = [] ∧ t.pkg.featEn = [] ∧ t.pkg.ready = false ∧ t.pkg.boot = min 2 s.pkg.boot
    ∧ t.pkg.ptime = s.pkg.ptime ∧ t.pkg.ptimeCfg = s.pkg.ptimeCfg 
    ∧ (s.pkg.boot < 2 → t.pkg.m = s.pkg.m)
    ∧ (2 ≤ s.pkg.boot → ∀ i < 4, mget 0 t.pkg.m i
        = if i < 2 then Config.shake256 (List.replicate 64 0 ++ toBytes (Config.shake256 (Config.firmware i)).toNat 64)
          else mget 0 s.pkg.m i)
    ∧ t.pkg.mclog = s.pkg.mclog
    ∧ t.pkg.rstCfg = s.pkg.rstCfg ∧ t.now = s.now
    ∧ (∀ u, s.hasStack u = true → (t.stk u).released = false ∧ (t.stk u).kind = 1 ∧ (t.stk u).failed = (s.stk u).failed
        ∧ (t.stk u).vaultKeep = s.keepsVault u)
    ∧ (∀ a, vaultOf a = none → t.mem.read a = s.mem.read a)
    ∧ (∀ a v, vaultOf a = some v → t.mem.read a = if s.keepsVault (stackOf v) then s.mem.read a else 0)

/-- No launch of the table runs. -/
def noLaunch (s : State) : Prop := ∀ p ∈ s.pkg.launches, p.2.state ≠ 1

/-- A measurement register extended (R405). -/
def measured (i : Nat) (d : BitVec 512) (p : Pkg) : Pkg :=
  { p with m := mset i (Config.shake256 (toBytes (mget 0 p.m i).toNat 64 ++ toBytes d.toNat 64)) p.m }

/-- The BXC is busy with a command of a block. -/
def busyWith (s : State) (pa cmd : Nat) : Prop := s.pkg.bxcReq = some pa ∧ s.rd pa 1 = cmd

/-- The end of a command with status 0. -/
def commandDone (p : Pkg) : Pkg := { p with bxcReq := none, bxcStat := 0 }

/-- The write to M3 that a configuration register's write makes, whose image is open (R405, log 8): some extension of M3. -/
def noteM3 (s t : State) : Prop := ∃ d, t = { s with free := s.free + 8, pkg := measured 3 d s.pkg }

end Sys2Proof.Claims

/-- A cold reset leaves only what is outside the package; a warm reset keeps what R407 keeps; a stack's reset leaves the other
stacks alone, and of the last released stack is a warm one; PERST is cold or warm by RST.CFG (R11, R369, R407). Where the
manual leaves a choice, the model's: logs 2 and 57. -/
def Obligations.ResetsKeepWhatTheManualKeeps : Prop :=
  (∀ (i : Instr) (s : State), i = .rstCold ∨ i = .powerOn ∨ (i = .perst ∧ s.pkg.rstCfg / 2 % 2 = 1) →
      Gives (exec i s) (coldAfter s))
    ∧ (∀ (i : Instr) (s : State), noLaunch s → i = .rstWarm ∨ i = .pcieHotReset ∨ (i = .perst ∧ s.pkg.rstCfg / 2 % 2 = 0)
        ∨ (∃ t, i = .rstStack t ∧ s.hasStack t = true ∧ (s.stk t).released = true ∧ ∀ u < 4, u ≠ t → (s.stk u).released = false) →
      Gives (exec i s) (warmAfter s))
    ∧ (∀ (s : State) (t u : Nat), s.hasStack t = true → s.hasStack u = true → u ≠ t → (s.stk u).released = true →
      s.stackLaunches t = [] → (∀ m ∈ s.net, stackOf m.core ≠ t → homeStack m.pa ≠ t) →
      Gives (exec (.rstStack t) s) fun v =>
        (v.stk t).released = false ∧ (v.stk t).kind = 2 ∧ v.stk u = s.stk u ∧ v.pkg = s.pkg
          ∧ (∀ c, stackOf c = t → v.core c = {} ∧ ∀ x < 2, v.ctx c x = {})
          ∧ (∀ c, stackOf c = u → v.core c = s.core c ∧ ∀ x < 2, v.ctx c x = s.ctx c x)
          ∧ (∀ a, vaultOf a = none → v.mem.read a = s.mem.read a)
          ∧ (∀ a w, vaultOf a = some w → stackOf w ≠ t → v.mem.read a = s.mem.read a)
          ∧ ∀ a w, vaultOf a = some w → stackOf w = t → v.mem.read a = if s.keepsVault t then s.mem.read a else 0)

/-- The bring-up boots the firmware into M0 and M1; tests each stack, which rewrites BAD and MAP, and repairs it or fails it with its
event, a thermal trip that stands among the causes; trains HBM and the bridge, releases the stacks with FEAT.SUP0, and trains the
host link (R364, R367, R375, R380, R400, R405, R408). Where the manual leaves a choice, the model's: logs 1, 5, 8, 93 and 108. -/
def Obligations.BringUpGoesStepByStep : Prop :=
  (∀ s : State, s.pkg.boot = 0 →
      let rom := Config.firmware 0
      let ini := Config.firmware 1
      Steps s .bxcFirmwareBoot (s.modPkg fun p =>
        if Config.imageAccepted rom = false then { p with boot := 1 }
        else if Config.imageAccepted ini = false then { (measured 0 (Config.shake256 rom) p) with boot := 1 }
        else { (measured 1 (Config.shake256 ini) (measured 0 (Config.shake256 rom) p)) with boot := 2 }))
    ∧ (∀ (s : State) (t : Nat), s.hasStack t = true → 2 ≤ s.pkg.boot → (s.stk t).tested = false → (s.stk t).released = false →
      let bad (c : Nat) : Nat := mget 0 s.badLayers c % 512
      let count (c : Nat) : Nat := ((List.range 9).filter fun p => bad c / 2 ^ p % 2 == 1).length
      let worst := ((List.range 24).map fun i => count (24 * t + i)).foldl max 0
      let lanes := (mget [] s.fusedLanes t ++ mget [] s.flashLanes t).eraseDups
      let worn : Prop := ∃ a ∈ lanes, Config.busSpares (laneBus a) < (lanes.filter fun b => laneBus b == laneBus a).length
      let layers := if 3 ≤ worst then 0 else if worst = 2 then 7 else 8
      Gives (exec (.stackBringup t) s) fun u =>
        let fails (cause : Nat) : Prop :=
          (u.stk t).failed = true ∧ (u.stk t).cause = cause ∧ (u.stk t).nlayers = 0
            ∧ (u.stk t).repaired = (s.stk t).repaired ∧ posted u ⟨10, t, 0xFF, 0, BitVec.ofNat 64 cause, 0, 0, none⟩
        (u.stk t).tested = true ∧ u.mem = s.mem
          ∧ (∀ i < 24, mget 0 (u.stk t).badMap i = bad (24 * t + i)
              ∧ mget 0 (u.stk t).layerMap i = layerWord (bad (24 * t + i)) layers)
          ∧ ((s.stk t).trip = true → fails 2)
          ∧ ((s.stk t).trip = false → 3 ≤ worst → fails 1)
          ∧ ((s.stk t).trip = false → worst ≤ 2 → worn → fails 3)
          ∧ ((s.stk t).trip = false → worst ≤ 2 → ¬worn →
              (u.stk t).repaired = true ∧ (u.stk t).failed = false ∧ (u.stk t).softLanes = lanes ∧ (u.stk t).nlayers = layers
                ∧ u.pkg = s.pkg ∧ u.net = s.net))
    ∧ (∀ s : State, s.pkg.boot = 2 → (∀ t ∈ s.stackList, (s.stk t).tested = true) →
      Steps s .hbmBridgeTraining (s.modPkg fun p => { p with boot := 4 }))
    ∧ (∀ (s : State) (t : Nat), s.hasStack t = true → 4 ≤ s.pkg.boot → (s.stk t).repaired = true → (s.stk t).failed = false →
      (s.stk t).released = false →
      Gives (exec (.stackRelease t) s) fun u =>
        u.stk t = { s.stk t with released := true, selftest := true, releasedAt := s.now, seq := 0 }
          ∧ mget 0 u.pkg.featSup 0
            = (if ∀ v ∈ s.stackList, ((s.stk v).released = true ∨ v = t) → (s.stk v).nlayers = 8 then 0x7F else 0x7D))
    ∧ (∀ s : State, s.pkg.boot = 4 → (∀ t ∈ s.stackList, (s.stk t).released = true ∨ ((s.stk t).tested = true ∧ (s.stk t).failed = true)) →
      Steps s .hostLinkTraining (s.modPkg fun p => { p with boot := 6, ready := true }))

/-- Writes of package registers and the BXC's commands have the effects of their rules; the host reads and writes memory and
registers (R11, R323, R368, R382, R391, R392, R398, R400, R403, R405, R406, R410). Where the manual leaves a choice, the
model's: logs 5, 8, 72, 73, 74, 75, 77 and 109. -/
def Obligations.PackageRegistersCommandsAndHost : Prop :=
  (∀ (s : State) (e : Event), s.pkg.evBuf = [e] → s.pkg.ev.en = true →
      (s.pkg.ev.prod + 65536 - s.pkg.ev.cons) % 65536 < 2 ^ s.pkg.ev.log2 →
        Steps s .eventBufferDrain ((s.modPkg fun p => { p with evBuf := [] }).placeEvent e))
    ∧ (∀ (s : State) (n : Nat) (v : BitVec 64), n < 4 →
      (v &&& ~~~(mget 0 s.pkg.featSup n) = 0 → noLaunch s → ∃ u, noteM3 s u ∧
          Steps s (.featEnWrite n v) (u.modPkg fun p =>
            { p with featEn := mset n v p.featEn, featChanged := p.featChanged || mget 0 s.pkg.featEn n != v }))
        ∧ (v &&& ~~~(mget 0 s.pkg.featSup n) ≠ 0 ∨ ¬noLaunch s →
          Steps s (.featEnWrite n v) (s.modPkg fun p => { p with featRefused := true })))
    ∧ (∀ (s : State) (v : BitVec 64),
      Steps s (.ptimeOfsWrite v) (s.modPkg fun p =>
        if v.slt 0 then { p with ptimeSlew := p.ptimeSlew + v.toInt.natAbs } else { p with ptime := (p.ptime + v.toNat) % 2 ^ 64 }))
    ∧ (∀ (s : State) (v : BitVec 64), ∃ u, noteM3 s u ∧
      Steps s (.ptimeCfgWrite v) (u.modPkg fun p => { p with ptimeCfg := v.toNat &&& 0xF3, ptimeFree := false }))
    ∧ (∀ (s : State) (n : Nat) (v : BitVec 64), n < 64 → ∃ u, noteM3 s u ∧
      Steps s (.pkgRootWrite n v) (u.modPkg fun p => { p with roots := mset n (v &&& 0xFFFFFFFFFF001) p.roots }))
    ∧ (∀ (s : State) (g t : Nat), g < 16 → s.pkg.ptimeCfg % 4 = 2 → s.pkg.ptimeCfg / 16 = g → s.pkg.ptimeFree = false →
      (s.group g).pers = 2 → (s.group g).state = 1 → ∃ r : Int, -500000 ≤ r ∧ r ≤ 500000 ∧
        Steps s (.ieee1588EventMessage g t) ({ s with free := s.free + t + 1 }.modPkg fun p => { p with ptimeRate := r }))
    ∧ (∀ (s : State) (pa : Nat), 2 ≤ s.pkg.boot →
      (busyWith s pa 1 → ∃ bs, bs.take 256 = (List.range 4).flatMap (fun i => toBytes (mget 0 s.pkg.m i).toNat 64)
          ∧ bs.length = 356 + 3309 ∧
          Steps s (.attest pa) ((s.wrBytes (pa + 64) bs).modPkg commandDone))
        ∧ (busyWith s pa 2 → ∃ key cert, key.length = 1952 ∧
          Steps s (.ident pa) ((s.wrBytes (pa + 64) (key ++ cert)).modPkg commandDone))
        ∧ (busyWith s pa 3 → ∃ bs, bs.length = 32 * (min 32 (s.pkg.mclog.filter fun r => s.rd (pa + 8) 8 ≤ r.seq).length) ∧
          Steps s (.mclog pa) ((s.wrBytes (pa + 64) bs).modPkg commandDone)))
    ∧ (∀ (s : State) (pa : Nat), busyWith s pa 4 →
      let image := (List.range (s.rd (pa + 16) 8)).map fun i => s.mem.read (canonPa (s.rd (pa + 8) 8 + i))
      Gives (exec (.fwload pa) s) fun u =>
        (Config.imageAccepted image = true → u = (s.modPkg fun p => commandDone (measured 2 (Config.shake256 image) p)).wrBytes (pa + 64) [0])
          ∧ (Config.imageAccepted image = false → ∃ e, 2 ≤ e ∧ e < 256 ∧
            u = ({ s with free := s.free + 1 }.modPkg fun p => { p with bxcReq := none, bxcStat := e }).wrBytes (pa + 64)
              [BitVec.ofNat 8 e]))
    ∧ (∀ (s : State) (c x : Nat) (v : BitVec 64), s.hasCore c = true → x < 2 →
      (∀ n < 4, Steps s (.registerWrite c x (0x34 + n) v) (s.modCtx c x fun k => { k with scr := mset n v k.scr }))
        ∧ Steps s (.registerWrite c x 0x03 v) (s.modCtx c x fun k => { k with srseed := v })
        ∧ Steps s (.registerWrite c x 0x10D v) (s.modCore c fun k => { k with dstarveThr := (v.setWidth 32).toNat })
        ∧ (s.form = .s → Steps s (.registerWrite c x 0x104 v) (s.modCore c fun k => { k with ilim := (v.setWidth 16).toNat })))
    ∧ (∀ (s : State) (pa n : Nat), n ≤ 256 → isReg pa = false →
      (s.mapped pa = true → s.latent = [] → Steps s (.hostWindowRead pa n)
          { s with
            hostDone := s.hostDone
              ++ [⟨pa, n, false, BitVec.ofNat 2048 (s.rd pa n), if s.poisoned pa n then .poisoned else .good⟩] })
        ∧ (s.mapped pa = false → Steps s (.hostWindowRead pa n)
          { s with hostDone := s.hostDone ++ [⟨pa, n, false, 0, .unsupported⟩] }))
    ∧ (∀ (s : State) (pa n : Nat) (v : BitVec 64), n ≤ 8 → isReg pa = false →
      s.mapped pa = false ∨ s.shut pa = true →
      Steps s (.hostWindowWrite pa n v)
        { s with hostDone := s.hostDone ++ [⟨pa, n, true, 0, if s.mapped pa then .aborted else .unsupported⟩] })
    ∧ (∀ (s : State) (pa n : Nat) (v : BitVec 64), n ≤ 8 → isReg pa = false → s.mapped pa = true → s.shut pa = false →
      Gives (exec (.hostWindowWrite pa n v) s) (fun t =>
          t = { s.store 255 0 pa (toBytes v.toNat n) with hostDone := s.hostDone ++ [⟨pa, n, true, 0, .good⟩] })
        ∧ ((isHbm pa = true ∨ isHost pa = true) → n = 1 → Gives (exec (.hostWindowWrite pa n v) s) fun t =>
          t.mem.read (canonPa pa) = v.setWidth 8 ∧ ∀ a, a ≠ canonPa pa → t.mem.read a = s.mem.read a))

/-! Steps of the fabric. -/

namespace Sys2Proof.Claims

/-- Packets from a rank are received: the package's own rank is valid, the source is named, not fenced, of kind 0 or 1, and its
group carries fabric traffic or has not yet closed (R413, R424, R434, R436). -/
def received (s : State) (p : Packet) : Prop :=
  let k := s.rank p.src
  let g := s.group k.group
  s.pkg.rankValid = true ∧ k.v = true ∧ k.fenced = false ∧ k.kind < 2 ∧ (g.pers = 1 ∨ g.pers = 2)
    ∧ (g.state = 1 ∨ g.state = 2 ∨ g.state = 3)

/-- The state after the governor step that every packet carries has been noted (R439). -/
def noted (s : State) (p : Packet) : State := s.modPkg fun k => { k with slkCur := max k.slkCur (p.gstep % 8) }

/-- No flag of a packet is set. -/
def bare (p : Packet) : Prop := p.flags = 0

/-- Nothing is known of a message, nothing of its channel is outstanding, and every earlier message of it has been heard of. -/
def freshMsg (s : State) (p : Packet) : Prop :=
  s.pkg.knows p = false ∧ s.pkg.holes = [] ∧ s.pkg.waiting = [] ∧ s.pkg.placed = []
    ∧ s.pkg.unheard p.src p.chan p.msgid = false

/-- The window of a packet takes it whole at the physical address pa, without a completion counter: bound, enabled, of the
packet's tag when tags are compared, within its size, and in one 64-byte unit that is translated (R425, R426, R428). -/
def taken1 (s : State) (p : Packet) (pa : Nat) : Prop :=
  let k := s.rwin (p.rwin % 64)
  k.bound = true ∧ k.en = true ∧ k.caddr = 0 ∧ (k.tagchk = true → p.steptag % 65536 = k.steptag.toNat)
    ∧ p.offset + p.len ≤ k.size ∧ 1 ≤ p.len ∧ (k.base + BitVec.ofNat 64 p.offset).toNat % 64 + p.len ≤ 64
    ∧ s.winPa k.asid (k.base + BitVec.ofNat 64 p.offset) = some pa

/-- An acknowledgement with flags and a reason goes to the source, with the next packet sequence number (R418, R421). -/
def acked (s : State) (p : Packet) (flags reason : Nat) : State :=
  let port := s.portOf p.src
  let n := mget 0 s.pkg.psn port
  s.modPkg fun k =>
    { k with psn := mset port ((n + 1) % 2 ^ 24) k.psn
             out := k.out ++ [{ opc := 5, flags := flags, gstep := s.ownGstep, rop := 0, rwin := 0, src := s.pkg.rankNo
                                dst := p.src, chan := p.chan, msgid := p.msgid, psn := n, len := 0, steptag := 0
                                offset := 0, reason := reason, payload := [], bitmap := 0 }] }

/-- A message has completed: its id is kept, and the channel waits for the first that has not (R421). -/
def completed (p : Packet) (k : Pkg) : Pkg := k.completeId p.src p.chan p.msgid

/-- The command in progress of a register has ended, if it was that of a step. -/
def ended (s : State) (i : Nat) (step : CmdStep) : State :=
  s.modPkg fun p =>
    { p with cmds := match p.cmds.find? fun a => a.1 == i with
        | some a => if cmdStep a.1 a.2 = some step then p.cmds.erase a else p.cmds
        | none => p.cmds }

/-- A message of a copy channel, or of a context's request, that a peer answers (R417). -/
def sentMsg (s : State) (p : Packet) (m : SentMsg) (read : Bool) : Prop :=
  s.pkg.sent = [m] ∧ m.rank = p.src ∧ m.chan = p.chan ∧ m.msgid = p.msgid ∧ (m.opc = 3 ↔ read = true)

/-- An edge group set, and its step event (R436). -/
def stepped' (s : State) (g step : Nat) (k : Group) : State :=
  (s.modPkg fun p => { p with groups := mset g k p.groups }).post
    ⟨0x40, g, 0xFF, 0, BitVec.ofNat 64 step, BitVec.ofNat 64 k.newPers, BitVec.ofNat 64 k.newMode, none⟩

end Sys2Proof.Claims

/-- A write or reduction that its window takes is placed, completes in the order of its channel and is acknowledged; a read is answered with the window's
bytes; an answer, an acknowledgement or a re-request finds its message; a trimmed packet leaves a hole that is asked for
again, and a message whose time has run out is sent again; an incomplete result is noted; a packet of a rank that is not
received is dropped (R351, R415, R418 to R424, R426 to R428, R430, R431, R433, R434, R439). Where the manual leaves a choice, the
model's: logs 58, 59, 60, 61, 63 and 107. -/
def Obligations.PacketsArePlacedAnsweredAndResent : Prop :=
  (∀ (s : State) (p : Packet) (pa : Nat), received s p → bare p → freshMsg s p → taken1 s p pa →
      p.payload.length = p.len → s.cxlFull pa p.len = false →
      let t := (noted s p).store 255 0 pa p.payload
      Steps s (.write p) (acked (t.modPkg (completed p)) p 0 0) ∧ Steps s (.result p) (acked (t.modPkg (completed p)) p 0 0))
    ∧ (∀ (s : State) (p : Packet) (pa : Nat), received s p → bare p → s.pkg.knows p = false → s.pkg.holes = [] →
      s.pkg.waiting = [] → s.pkg.placed = [] → s.pkg.unheard p.src p.chan p.msgid = true → taken1 s p pa →
      p.payload.length = p.len → s.cxlFull pa p.len = false →
        Steps s (.write p) (((noted s p).store 255 0 pa p.payload).modPkg fun k =>
          { k with placed := [{ src := p.src, chan := p.chan, msgid := p.msgid, rwin := p.rwin % 64, len := p.len, placed := true
                                flags := 0, reason := 0, offset := p.offset, rop := 0, data := p.payload }] }))
    ∧ (∀ (s : State) (p : Packet) (pa : Nat), received s p → bare p → freshMsg s p → taken1 s p pa → p.rop = 3 → p.len = 4 →
      p.payload.length = 4 → p.offset % 4 = 0 → s.poisoned pa 4 = false → s.cxlFull pa 4 = false →
      Steps s (.reduce p)
        (acked ((((noted s p).meetAll [(pa, 4)]).wr pa 4 ((s.rd pa 4 + ofBytes p.payload) % 2 ^ 32)).modPkg (completed p)) p 0 0))
    ∧ (∀ (s : State) (p : Packet), received s p → bare p → freshMsg s p → (s.rwin (p.rwin % 64)).bound = false →
      Steps s (.write p) (acked ((((noted s p).modPkg fun k =>
          { k with wins := mset (p.rwin % 64) { s.rwin (p.rwin % 64) with refused := true } k.wins }).post
        ⟨0x42, p.rwin % 64, 0xFF, 0, BitVec.ofNat 64 p.src, 1, BitVec.ofNat 64 p.offset, none⟩).modPkg (completed p)) p 16 1))
    ∧ (∀ (s : State) (p : Packet) (pa : Nat), received s p → taken1 s p pa → s.poisoned pa p.len = false →
      s.latent = [] → s.pkg.waiting = [] → s.pkg.placed = [] →
      Gives (exec (.read p) s) fun t =>
        ∃ q, t.pkg.out = s.pkg.out ++ [q] ∧ q.opc = 4 ∧ q.dst = p.src ∧ q.chan = p.chan ∧ q.msgid = p.msgid
          ∧ q.payload = toBytes (s.rd pa p.len) p.len ∧ t.mem = s.mem)
    ∧ (∀ (s : State) (p : Packet) (m : SentMsg) (r : Nat) (a : Msg), received s p → bare p → sentMsg s p m true → m.req = some r →
      s.msg r = some a → s.pkg.holes = [] → p.payload.length ≤ 256 →
      let s1 := (noted s p).modPkg fun k => { k with sent := [] }
      Steps s (.readresp p)
        (answered (if a.acq then s1.acquireAll a.core else s1) r (BitVec.ofNat 2048 (ofBytes p.payload)) none))
    ∧ (∀ (s : State) (p : Packet) (m : SentMsg) (r : Nat), received s p → bare p → sentMsg s p m false → m.req = some r →
      Steps s (.ack p) (((noted s p).modPkg fun k => { k with sent := [] }).dropMsg r))
    ∧ (∀ (s : State) (p : Packet) (m : SentMsg), received s p → sentMsg s p m false → m.opc ≠ 6 → m.chan < 512 → m.src = none →
      m.req = none → Gives (exec (.rereq p) s) fun t =>
        t.pkg.rereqRx = s.pkg.rereqRx + 1 ∧ t.pkg.retx = s.pkg.retx + 1
          ∧ t.pkg.psn = mset (s.portVia m.via) ((mget 0 s.pkg.psn (s.portVia m.via) + 1) % 2 ^ 24) s.pkg.psn
          ∧ ∃ q, t.pkg.out = s.pkg.out ++ [q] ∧ q.opc = m.opc ∧ q.dst = m.rank ∧ q.chan = m.chan ∧ q.msgid = m.msgid
            ∧ q.payload = m.data
            ∧ q.psn = mget 0 s.pkg.psn (s.portVia m.via))
    ∧ (∀ (s : State) (p : Packet), received s p → p.opc ≠ 4 → freshMsg s p →
      Steps s (.trimmedHeader p) ((noted s p).modPkg fun k =>
        { k with
          trimRx := k.trimRx + 1
          holes := [{ src := p.src, chan := p.chan, msgid := p.msgid, rwin := p.rwin % 64, steptag := p.steptag % 65536
                      offset := p.offset, len := p.len, born := s.now, rereqs := 0, due := some s.now, psn := p.psn
                      resp := false }] }))
    ∧ (∀ (s : State) (r : Nat) (h : Hole) (t : Nat), r < 1024 → mget 0 s.pkg.rereqAt r ≤ s.now → s.pkg.holes = [h] → h.src = r →
      h.due = some t → t ≤ s.now → s.pkg.rankValid = true → Gives (exec (.rereqSend r) s) fun u =>
        u.pkg.holes = [{ h with due := none, rereqs := h.rereqs + 1 }] ∧ u.pkg.rereqTx = s.pkg.rereqTx + 1
          ∧ mget 0 u.pkg.rereqAt r = s.now + 800 ∧ u.pkg.psn = s.pkg.psn
          ∧ ∃ q, u.pkg.out = s.pkg.out ++ [q] ∧ q.opc = 6 ∧ q.dst = r ∧ q.chan = h.chan ∧ q.msgid = h.msgid ∧ q.psn = h.psn)
    ∧ (∀ (s : State) (m : SentMsg), s.pkg.sent = [m] → m.sentAt + 4000 * s.pkg.rto ≤ s.now → m.src = none → s.pkg.rankValid = true →
      (m.tries < s.pkg.retries → Gives (exec (.rtoExpire 0) s) fun t =>
          (∃ q, t.pkg.out = s.pkg.out ++ [q] ∧ q.opc = m.opc ∧ q.msgid = m.msgid ∧ q.payload = m.data)
            ∧ t.pkg.sent = [{ m with sentAt := s.now, tries := m.tries + 1, psn := mget 0 s.pkg.psn (s.portVia m.via) }])
        ∧ (s.pkg.retries ≤ m.tries → (∃ r a, m.req = some r ∧ s.msg r = some a ∧ m.opc ≠ 3 ∧ ∀ ch n, a.dest ≠ .copy ch n) →
          Gives (exec (.rtoExpire 0) s) fun t => t.pkg.sent = [] ∧ t.pkg.sdrop = s.pkg.sdrop + 1))
    ∧ (∀ (s : State) (p : Packet), received s p →
      let w := p.rwin % 64
      let k := s.rwin w
      k.bound = true → k.en = true → (k.tagchk = true → p.steptag % 65536 = k.steptag.toNat) →
      Gives (exec (.resultIncomplete p) s) fun t =>
        t.rwin w = { k with incomplete := true, cbmp := k.cbmp &&& p.bitmap }
          ∧ posted t ⟨0x41, w, 0xFF, 0, BitVec.ofNat 64 (p.steptag % 65536),
              BitVec.ofNat 64 ((List.range 256).countP fun i => p.bitmap.getLsbD i), BitVec.ofNat 64 p.src, none⟩)
    ∧ (∀ (s : State) (p : Packet) (i : Instr), i ∈ [.write p, .reduce p, .read p, .readresp p, .ack p, .rereq p, .result p,
        .resultIncomplete p, .trimmedHeader p] → (s.pkg.rankValid = false ∨ (s.rank p.src).v = false) →
      Steps s i ((noted s p).modPkg fun k => { k with fenceDrop := k.fenceDrop + 1 }))

/-- A switch of a group's personality quiesces, drains, retrains and opens it, or leaves it down; a rank that is reloaded or
lost and a CXL link or limit have their effects; windows are bound, unbound and written out (R425, R426, R428, R432 to R437,
R443). Where the manual leaves a choice, the model's: logs 62, 65, 66 and 67. -/
def Obligations.GroupsRanksAndWindows : Prop :=
  (∀ (s : State) (g : Nat), g < 16 →
      let k := s.group g
      let open' := k.ctlMode < 2 ∧ ¬(k.ctlMode = 1 ∧ k.ctlPers = 3) ∧ (k.state = 0 ∨ k.state = 1 ∨ k.state = 6)
      (open' → Steps s (.grpGo g)
          (stepped' (stepped' s g 1 { k with state := 2, wasUp := k.state == 1, newPers := k.ctlPers, newMode := k.ctlMode }) g 2
            { k with state := 3, wasUp := k.state == 1, newPers := k.ctlPers, newMode := k.ctlMode, deadline := s.now + 8000000 }))
        ∧ (¬open' → Steps s (.grpGo g) (s.post
          ⟨0x40, g, 0xFF, 0, 0, BitVec.ofNat 64 k.ctlPers, BitVec.ofNat 64 k.ctlMode, none⟩)))
    ∧ (∀ (s : State) (g : Nat), g < 16 → (s.group g).state = 3 → s.pkg.sent = [] → s.net = [] → s.pkg.rankTab = [] →
      s.pkg.holes = [] → s.pkg.ptimeCfg % 4 ≠ 2 →
      let k := s.group g
      let closed : Group := { k with state := 4, trimx := false }
      (k.newPers ≠ 0 → Steps s (.groupDrainEnd g) (stepped' (stepped' s g 3 closed) g 4 { closed with state := 5 }))
        ∧ (k.newPers = 0 → Steps s (.groupDrainEnd g) (stepped' (stepped' (stepped' s g 3 closed) g 4 { closed with state := 5 }) g 5
          { closed with state := 0, pers := 0, mode := k.newMode, nsw := min 65535 (k.nsw + 1) })))
    ∧ (∀ (s : State) (g : Nat) (trimx : Bool), g < 16 → (s.group g).state = 5 →
      let k := s.group g
      (k.newPers ≠ 0 → Steps s (.groupRetrainDone g true trimx) (stepped' s g 5
          { k with state := 1, pers := k.newPers, mode := k.newMode, nsw := min 65535 (k.nsw + 1)
                   trimx := k.newPers == 2 || (k.newPers == 1 && trimx) }))
        ∧ Steps s (.groupRetrainDone g false trimx) (stepped' s g 6 { k with state := 6 }))
    ∧ (∀ (s : State) (r : Nat), r < 1024 →
      let a := s.pkg.rankBase.toNat + 16 * r
      let lo := BitVec.ofNat 64 (s.rd a 8)
      Gives (exec (.rankUpdOne r) s) fun t =>
        t.rank r
            = { ncontrib := s.rd (a + 8) 1, v := lo.getLsbD 63, fenced := lo.getLsbD 62, kind := (lo.extractLsb' 60 2).toNat
                group := (lo.extractLsb' 56 4).toNat, port := (lo.extractLsb' 55 1).toNat, peer := (lo.extractLsb' 0 48).toNat }
          ∧ (∀ q, q ≠ r → t.rank q = s.rank q) ∧ t.mem = s.mem ∧ t.net = s.net)
    ∧ (∀ s : State, Gives (exec .rankUpdAll s) fun t =>
        ∀ r < 1024, t.rank r = s.rankEntry r ∧ t.mem = s.mem ∧ t.net = s.net)
    ∧ (∀ (s : State) (r : Nat), r < 1024 →
      let g := (s.rank r).group
      (s.group g).linked = true → (∀ m ∈ s.pkg.sent, m.via.group ≠ g) →
      Steps s (.ranklost r 2) ((s.carried g).foldl
        (fun t q => t.post ⟨0x43, g, 0xFF, 0, BitVec.ofNat 64 q, 2, 0, none⟩)
        (s.modPkg fun p => { p with groups := mset g { s.group g with state := 6 } p.groups })))
    ∧ (∀ (s : State) (r why : Nat), r < 1024 → s.unreachable r = true → ¬(why = 2 ∧ (s.group (s.rank r).group).linked = true) →
      Steps s (.ranklost r why) (s.post
        ⟨0x43, (s.rank r).group, 0xFF, 0, BitVec.ofNat 64 r, BitVec.ofNat 64 why, 0, none⟩))
    ∧ (∀ (s : State) (g : Nat), g < 16 → (s.group g).pers = 3 → (s.group g).state = 1 → (∀ p ∈ s.cores, p.2.chans = []) →
      Steps s (.ranklost (1024 + g) 2) ((s.modPkg fun p =>
        { p with groups := mset g { s.group g with state := 6 } p.groups }).post ⟨0x43, g, 0xFF, 0, 0x3FF, 2, 0, none⟩))
    ∧ (∀ (s : State) (g off : Nat), g < 16 → off < 2 ^ 44 → (∀ p ∈ s.cores, p.2.chans = []) →
      Steps s (.cxlWriteFail g off) (s.modPkg fun p =>
        { p with groups := mset g { s.group g with limit := min (s.group g).limit off } p.groups }))
    ∧ (∀ (s : State) (w : Nat), w < 64 → s.pkg.holes = [] →
      let a := s.pkg.rwBase.toNat + 64 * w
      let cfg := BitVec.ofNat 64 (s.rd (a + 8) 8)
      Gives (exec (.rwBind w) s) fun t =>
        t.rwin w
            = { bound := true, base := BitVec.ofNat 64 (s.rd a 8), en := cfg.getLsbD 63, autotag := cfg.getLsbD 47
                tagchk := cfg.getLsbD 46, asid := (cfg.extractLsb' 40 6).toNat, size := (cfg.extractLsb' 0 40).toNat
                caddr := BitVec.ofNat 64 (s.rd (a + 16) 8), steptag := BitVec.ofNat 16 (s.rd (a + 24) 2), incomplete := false
                refused := false, wlate := 0, cbmp := BitVec.allOnes 256 }
          ∧ ∀ v, v ≠ w → t.rwin v = s.rwin v)
    ∧ (∀ (s : State) (w : Nat), w < 64 →
      Steps s (.rwUnbind w)
        (ended (s.modPkg fun p => { p with wins := mset w { s.rwin w with bound := false } p.wins }) 0x543 (.unbind w)))
    ∧ (∀ (s : State) (w : Nat), w < 64 →
      let k := s.rwin w
      let a := s.pkg.rwBase.toNat + 64 * w
      Steps s (.rwSnapshot w)
        (ended ((s.wr (a + 24) 8 (k.steptag.toNat + (k.incomplete.toNat + 2 * k.refused.toNat) * 2 ^ 16 + k.wlate % 2 ^ 32 * 2 ^ 32)).wr
          (a + 32) 32 k.cbmp.toNat) 0x543 (.snapshot w)))

/-! The machine as a whole. -/

namespace Sys2Proof.Claims

/-- The value of PLOG by its operation (R49). -/
def plogValue (op : BitVec 3) (a b : BitVec 64) : BitVec 64 :=
  match op.toNat with
  | 1 => a &&& b
  | 2 => a ||| b
  | 3 => a ^^^ b
  | 4 => a &&& ~~~b
  | 5 => a ||| ~~~b
  | 6 => ~~~(a &&& b)
  | _ => ~~~a

/-- The guard of a slot instruction is g. -/
def guardedBy (i : Instr) (g : BitVec 4) : Prop := (semOf i).map Prod.fst = some g

/-- A trap of the context in turn goes to its handler: it is outside trap mode, its launch has one, and no contribution of it to
a round in progress has to be taken back (R121, R270). -/
def handled (s : State) : Prop :=
  s.here.trapm = false ∧ s.traph s.cur.1 s.cur.2 ≠ 0 ∧ ∀ w, s.here.gred = some w → w.done = true

/-- A context that can take a trap into its handler: calm, nothing of it in flight. -/
def armed (s : State) : Prop := s.calm = true ∧ s.quiet ∧ handled s

/-- The context in turn has entered its handler on a trap, and nothing else has changed (R146). -/
def trapped (s : State) (code slot : Nat) (addr : BitVec 64) (t : State) : Prop :=
  t.here =
      { s.here with
        trapPc := s.here.pc
        trapInfo := BitVec.ofNat 64 (code + slot * 2 ^ 16 + (if s.here.rev then 2 ^ 19 else 0)
          + (if s.isDrone s.cur.1 s.cur.2 then 2 ^ 20 else 0))
        trapAddr := addr, trapm := true, pc := s.traph s.cur.1 s.cur.2, cyc := s.here.cyc + 1, bubble := 1
        wait := [], xl := [], frozen := none, syncRun := 0, issued := true }
    ∧ othersSame s t ∧ machineSame s t

/-- A vault access from a base traps PERM when the base names no vault, ALIGN at its first element off the size n, PERM at the
first piece in row 8,191 for a user, and BANKCONF at the first of its units in the bank of an earlier one (R188 to R192). -/
def vaultTraps (i : Instr) (sl : Slot) (s : State) (a : Acc) (base : BitVec 64) (n : Nat) : Prop :=
  (s.badVp a.c base = true → Gives (exec i s) (trapped s 9 sl.idx base))
    ∧ (∀ pre p post, a.ps = pre ++ p :: post → s.badVp a.c base = false →
      (∀ q ∈ pre, q.off % n = 0 → q.ea.toNat % n = 0) → p.off % n = 0 → p.ea.toNat % n ≠ 0 →
        Gives (exec i s) (trapped s 7 sl.idx p.ea))
    ∧ (∀ pre p post, a.ps = pre ++ p :: post → s.badVp a.c base = false →
      (∀ q ∈ a.ps, q.off % n = 0 → q.ea.toNat % n = 0) → s.supv a.c a.x = false → (∀ q ∈ pre, vpLin q.ea < 8191 * 8192) →
      8191 * 8192 ≤ vpLin p.ea → Gives (exec i s) (trapped s 9 sl.idx p.ea))
    ∧ (∀ pre u post, a.units = pre ++ u :: post → aimed s a base n →
      (a.late = false → ∀ p ∈ a.ps, s.primalHit a.c a.x true p = none) →
      (pre.map fun v => v.1 % 128).Nodup → u.1 % 128 ∈ pre.map (fun v => v.1 % 128) →
        Gives (exec i s) (trapped s 3 sl.idx u.2))

/-- A piece of a global access is turned away with a trap code: its address is not canonical, the walk for its page has failed, or
its page does not permit the access (R193, R194, R330). -/
def refusedAt (s : State) (a : Acc) (p : Piece) (code : Nat) : Prop :=
  (canonical p.ea = false ∧ code = 9)
    ∨ (canonical p.ea = true
      ∧ let e := findTlb ((s.core a.c).utlb ++ (s.ctx a.c a.x).xl) (s.asid a.c a.x) (bitsOf p.ea 56 0)
        (e = none ∧ s.walkFail a.c 0 a.x (s.asid a.c a.x) p.ea a.write false = some code)
          ∨ (∃ t, e = some t ∧ permitted t (s.supv a.c a.x) a.write false = false ∧ code = 9))

/-- Nothing freezes a global access: each of its pages is held or refused. -/
def settled (s : State) (a : Acc) : Prop :=
  s.acquiring a.c a.x = false ∧ (s.core a.c).outFull = false
    ∧ ∀ p ∈ a.ps, (a.late = false → s.primalHit a.c a.x false p = none) ∧ s.scoreGlobal a.c (s.asid a.c a.x) p = false
      ∧ s.xslot a.c a.x p.ea a.write ≠ .miss

/-- A global access traps with the code of its first piece that is turned away, unless its strand is parked for it (R122, R194);
the failed walks recorded for it are forgotten. -/
def globalTraps (i : Instr) (sl : Slot) (s : State) (a : Acc) (at1 : Piece → BitVec 64) : Prop :=
  ∀ pre p post code, a.ps = pre ++ p :: post → settled s a → (∀ q ∈ pre, translated s a q) → refusedAt s a p code →
    s.parks a.c a.x code sl.idx = false →
      Gives (exec i s) (trapped (s.dropMisses s.cur.1 0 s.cur.2) code sl.idx (at1 p))

/-- A context that makes a global access: calm, no message of it in flight, and a trap of it goes to its handler. -/
def reaching (s : State) : Prop := s.calm = true ∧ (∀ m ∈ s.net, ¬(m.core = s.cur.1 ∧ m.x = s.cur.2)) ∧ handled s

/-- The instruction i is of slot sl. -/
def ofSlot (i : Instr) (sl : Slot) : Prop := i.isNop = false ∧ ∃ w, encodeSlot i = some (sl, w)

/-- The bundle at a context's pc, translated by the µTLB, is b, and no word of it holds an error that nothing has read. -/
def fetches (s : State) (c x : Nat) (b : Bundle) : Prop :=
  ∃ pa, s.xlate c 0 x (s.asid c x) (s.supv c x) (s.core c).utlb (s.ctx c x).pc false true = .ok pa
    ∧ isReg pa = false ∧ isFabric pa = false ∧ s.poisoned pa 64 = false ∧ decode (s.rd pa 64) = .ok b
    ∧ ∀ p ∈ s.latent, 8 * p.1 + 8 ≤ canonPa pa ∨ canonPa pa + 64 ≤ 8 * p.1

/-- A context about to begin a bundle. -/
def atBundle (s : State) (c x : Nat) : Prop :=
  s.hasCore c = true ∧ x < 2 ∧ (s.ctx c x).ready = true ∧ (s.ctx c x).rep = 0 ∧ (s.ctx c x).restart = false

/-- A bundle whose slots stand in order and hold slot instructions of their slots, its header fields in range (R47 to R50). -/
def wellFormed (b : Bundle) : Prop :=
  b.rep < 64 ∧ b.step < 256 ∧ b.slots.map Prod.fst = Slot.all
    ∧ ∀ p ∈ b.slots, ∃ w, encodeSlot p.2 = some (p.1, w)

end Sys2Proof.Claims

/-- A bundle of NOPs costs one cycle, and PLOG writes its value at once. A bundle whose one slot has a false guard is
nullified and costs nothing when the guard mask is old enough, else issues as empty (R49, R61, R66, R67). Where the manual
leaves a choice, the model's: log 13. -/
def Obligations.EmptyBundlesAndMaskLogic : Prop :=
  (∀ (sl : Slot) (s : State), s.calm = true → Does s (exec (.nop sl) s) {})
    ∧ (∀ (op : BitVec 3) (kd ka kb : BitVec 4) (s : State), s.calm = true → op ≠ 0 →
      Writes s (exec (.plog op kd ka kb) s) (.k kd.toNat) (asReg (plogValue op (s.here.rk ka) (s.here.rk kb))) 1)
    ∧ (∀ (i : Instr) (sl : Slot) (g : BitVec 4) (s : State), ofSlot i sl → guardedBy i g → s.calm = true → s.enabled i = true →
      guardOn sl (s.here.rk g) = false → (∀ t, (g.toNat, t) ∈ s.here.maskAt → t + 2 ≤ s.here.cyc) →
        Gives (exec i s) fun t =>
          t.here = { s.here with pc := s.here.pc + 64, frozen := none } ∧ othersSame s t ∧ machineSame s t)
    ∧ (∀ (i : Instr) (sl : Slot) (g : BitVec 4) (s : State) (n : Nat), ofSlot i sl → guardedBy i g → s.calm = true →
      s.enabled i = true → guardOn sl (s.here.rk g) = false → s.here.maskAt = [(g.toNat, n)] → s.here.cyc < n + 2 →
        Gives (exec i s) fun t =>
          t.here = { s.here with pc := s.here.pc + 64, cyc := s.here.cyc + 1, frozen := none, issued := true }
            ∧ othersSame s t ∧ machineSame s t)

/-- An encoding that is no instruction traps ILLOP, and one of a disabled feature FEATOFF, whatever the guard; a write of a
supervisor's register or of the rail by a user's strand traps PRIV; an operation of the matrix domain traps MXDRONE in the
drone, PERM in a launch without the cube and MXBUSY while a CUBE runs, which stops that CUBE; MFMT of an illegal value traps
FMTILL; a vault access traps PERM, ALIGN or BANKCONF, and a global one PAGEFAULT or PERM, at its first such element; a CESTAT or
CEWAIT that finds its channel halted traps CEFAULT (R75, R76, R137, R188 to R194, R206 to R212, R235, R269, R272, R284, R305,
R310, R400). Where the manual leaves a choice, the model's: logs 14, 22 and 100. -/
def Obligations.TrapsOfEncodingsPrivilegeAndModes : Prop :=
  (∀ (i : Instr) (sl : Slot) (s : State), ofSlot i sl → armed s → i.wf = false →
      Gives (exec i s) (trapped s 1 sl.idx 0))
    ∧ (∀ (i : Instr) (sl : Slot) (s : State) (f : Nat), ofSlot i sl → armed s → i.wf = true → formTrap s.form i = none →
      f ∈ featsOf i → s.featOn f = false → Gives (exec i s) (trapped s 0x14 sl.idx 0))
    ∧ (∀ (o : OpI) (s : State), s.runs (.syswr o) .s o.g → armed s → s.supv s.cur.1 s.cur.2 = false →
      supervisorReg (o.imm.toNat % 4096) = true → Gives (exec (.syswr o) s) (trapped s 0x18 0 0))
    ∧ (∀ (mk : OpSy → Instr) (o : OpSy) (s : State), mk = .tune ∨ mk = .clkdiv → s.runs (mk o) .sy o.g → armed s →
      s.supv s.cur.1 s.cur.2 = false → (s.cluster (clusterOf s.cur.1)).userTune = false →
        Gives (exec (mk o) s) (trapped s 0x18 7 0))
    ∧ (∀ (i : Instr) (g : BitVec 4) (s : State), ofSlot i .mx → guardedBy i g → s.runs i .mx g → armed s →
      let cube := s.here.strand.any fun st => (s.hdrOf st).cube
      (s.isDrone s.cur.1 s.cur.2 = true → Gives (exec i s) (trapped s 6 3 0))
        ∧ (s.isDrone s.cur.1 s.cur.2 = false → cube = false → Gives (exec i s) (trapped s 9 3 0)))
    ∧ (∀ (i : Instr) (g : BitVec 4) (s : State) (q : Seq), ofSlot i .mx → guardedBy i g → s.here.calm = true →
      s.hasCore s.cur.1 = true → s.cur.2 < 2 → s.fenced s.cur.1 s.cur.2 = false → s.enabled i = true →
      guardOn .mx (s.here.rk g) = true → s.quiet → handled s → s.isDrone s.cur.1 s.cur.2 = false →
      (s.here.strand.any fun st => (s.hdrOf st).cube) = true →
      (s.core s.cur.1).seq = some q → q.d.x = s.cur.2 → s.here.mx.phase = 1 →
        Gives (exec i s) fun t =>
          trapped (s.stopCube s.cur.1 s.cur.2 2) 5 3 0 t
            ∧ t.here.mx = { s.here.mx with phase := 2 } ∧ (t.core s.cur.1).seq = none
            ∧ (t.core s.cur.1).score = (s.core s.cur.1).score.filter (fun e => e.owner != .cubeA && e.owner != .cubeB)
            ∧ (t.core s.cur.1).fifo = (s.core s.cur.1).fifo)
    ∧ (∀ (o : OpFmt) (s : State), s.runs (.mfmt o) .mx o.g → armed s → s.isDrone s.cur.1 s.cur.2 = false →
      (s.here.strand.any fun st => (s.hdrOf st).cube) = true → s.here.mx.phase ≠ 1 →
      ((s.here.rs o.sa).extractLsb' 32 32 ≠ 0 ∨ fmtLegal ((s.here.rs o.sa).setWidth 32) = false) →
        Gives (exec (.mfmt o) s) (trapped s 14 3 0))
    ∧ (∀ (mk : OpLd → Instr) (o : OpLd) (s : State), s.runs (mk o) .ld o.g → armed s →
      (mk = .ldv ∨ mk = .ldvv → vaultTraps (mk o) .ld s (accV s o) (s.here.rs o.base) (size o))
        ∧ (mk = .ldvs → vaultTraps (mk o) .ld s (accS s o) (s.here.rs o.base) (size o))
        ∧ (mk = .ldk → vaultTraps (mk o) .ld s ⟨true, pieces (eaV s.here o) 0 8, false, true, false, s.cur.1, s.cur.2⟩
            (s.here.rs o.base) 8))
    ∧ (∀ (o : OpLdX) (s : State), s.runs (.ldvx o) .ld o.g → armed s →
      vaultTraps (.ldvx o) .ld s (accX true s o) (s.here.rs o.base) (sizeBytes o.size.toNat))
    ∧ (∀ (mk : OpSt → Instr) (o : OpSt) (s : State), s.runs (mk o) .st o.g → armed s →
      (mk = .stv ∨ mk = .stvv ∨ mk = .stk → vaultTraps (mk o) .st s (stAccV s o) (s.here.rs o.base) (sizeSt o))
        ∧ (mk = .stvs → vaultTraps (mk o) .st s (stAccS s o) (s.here.rs o.base) (sizeSt o)))
    ∧ (∀ (o : OpStX) (s : State), s.runs (.stvx o) .st o.g → armed s →
      vaultTraps (.stvx o) .st s (stAccX true s o) (s.here.rs o.base) (sizeBytes o.size.toNat))
    ∧ (∀ (mk : OpLd → Instr) (o : OpLd) (s : State), s.runs (mk o) .ld o.g → reaching s →
      (mk = .ldg ∨ mk = .ldgv ∨ (mk = .lda ∧ (eaG s.here o).toNat % size o = 0) →
          globalTraps (mk o) .ld s (accG s o) (·.ea))
        ∧ (mk = .lda → (eaG s.here o).toNat % size o ≠ 0 → settled s (accG s o) →
          Gives (exec (mk o) s) (trapped (s.dropMisses s.cur.1 0 s.cur.2) 9 4 (eaG s.here o))))
    ∧ (∀ (o : OpLdX) (s : State), s.runs (.ldgx o) .ld o.g → reaching s →
      globalTraps (.ldgx o) .ld s (accX false s o) fun p => p.ea - BitVec.ofNat 64 (p.off % sizeBytes o.size.toNat))
    ∧ (∀ (mk : OpSt → Instr) (o : OpSt) (s : State), s.runs (mk o) .st o.g → reaching s →
      (mk = .stg ∨ mk = .stgv ∨ (mk = .stl ∧ (stEaG s.here o).toNat % sizeSt o = 0 ∧ s.relHeld s.cur.1 = false) →
          globalTraps (mk o) .st s (stAccG s o) (·.ea))
        ∧ (mk = .stl → (stEaG s.here o).toNat % sizeSt o ≠ 0 → s.relHeld s.cur.1 = false → settled s (stAccG s o) →
          Gives (exec (mk o) s) (trapped (s.dropMisses s.cur.1 0 s.cur.2) 9 5 (stEaG s.here o))))
    ∧ (∀ (o : OpStX) (s : State), s.runs (.stgx o) .st o.g → reaching s →
      globalTraps (.stgx o) .st s (stAccX false s o) (·.ea))
    ∧ (∀ (o : OpCeA) (s : State), s.runs (.cestat o) .ce o.g → armed s → (s.chan s.cur.1 o.ch.toNat).state = 2 →
      bitsOf o.imm 0 0 = 0 → Gives (exec (.cestat o) s) (trapped s 0x16 6 (s.chan s.cur.1 o.ch.toNat).faddr))
    ∧ (∀ (o : OpSyC) (s : State), s.runs (.cewait o) .sy o.g → armed s → (s.chan s.cur.1 o.ch.toNat).state = 2 →
      Gives (exec (.cewait o) s) (trapped s 0x16 7 (s.chan s.cur.1 o.ch.toNat).faddr))

/-- Memory keeps its canonical form over every step from every state: addresses rise strictly, and no listed byte reads as an
unlisted one does. The form is the model's own (log 2). -/
def Obligations.EveryStepKeepsMemoryCanonical : Prop :=
  ∀ s t : State, s.mem.wf = true → step s = .next t → t.mem.wf = true

/-- The machine after reset holds the values that the manual's reset columns give: of every context its registers, of every core,
cluster and stack their registers, and of the package RST.CFG, FAB.CFG and SLK.CFG; its memory is in canonical form (R11, R37, R133,
R136, R150, R155, R275, R309, R380, R423, R441). -/
def Obligations.ResetHoldsTheStatedValues : Prop :=
  let s := State.reset
  (∀ c x, c < 96 → x < 2 →
      let k := s.ctx c x
      k.strand = none ∧ (∀ r, k.rs r = 0) ∧ (∀ r, k.rv r = 0) ∧ (∀ r, k.rk r = if r = 0 then BitVec.allOnes 64 else 0)
        ∧ (∀ i, (k.slot i).st = .free)
        ∧ (∀ i < 0x100, i ≠ 0x3C → s.readReg (regAt c x i)
            = if 8 ≤ i ∧ i < 16 then 0x00050748 else if i = 1 ∧ x = 1 then 0x400 else 0))
    ∧ (∀ c < 96,
        (∀ t, (s.core c).tileExp t = -80 ∧ (s.core c).tile t = [])
          ∧ s.readReg (regAt c 0 0x101) = 0x2444 ∧ s.readReg (regAt c 0 0x104) = 0x1000
          ∧ s.readReg (regAt c 0 0x110) = 0x100000
          ∧ (∀ i ∈ [0x100, 0x102, 0x105, 0x108, 0x109, 0x10A, 0x10C, 0x10D, 0x111], s.readReg (regAt c 0 i) = 0)
          ∧ s.readReg (regAt c 0 0x200) = 50 * 256 + 50
          ∧ s.readReg (regAt c 0 0x303) = BitVec.ofNat 64 (0x1A4 * 2 ^ 40 + 8 * 2 ^ 32 + 0x10 * 2 ^ 16 + 0x154)
          ∧ s.readReg (regAt c 0 0x4D1) = 2 ∧ s.readReg (regAt c 0 0x501) = BitVec.ofNat 64 (15 * 2 ^ 16 + 100)
          ∧ s.readReg (regAt c 0 0x560)
              = BitVec.ofNat 64 (50 * 2 ^ 46 + 2 * 2 ^ 42 + 64 * 2 ^ 32 + 16 * 2 ^ 22 + 64 * 2 ^ 11 + 192))
    ∧ s.mem.wf = true

/-- Decoding what the encoder makes of a bundle gives the bundle back, with every field of every slot at every value: no bit of an
encoding is dropped (R47 to R57, R70 to R74). -/
def Obligations.DecodeOfEncodeIsTheBundle : Prop :=
  ∀ b : Bundle, wellFormed b → (∀ p ∈ b.slots, p.2.wf = true) → decodeBundle (encodeBundle b) = .ok b ∧ encodeBundle b < 2 ^ 512

/-- A step of a context that is about to begin a bundle is the execution of what the bundle decodes to: of its one slot
instruction, of PLOG, or of all its slots at once. What is set to happen comes first, then an input whose time has come, and
then time goes on by one reference cycle. Where the manual leaves a choice, the model's: logs 4 and 86. -/
def Obligations.StepRunsTheDecodedInstruction : Prop :=
  (∀ (s : State) (c x : Nat) (rest : List Instr) (sl : Slot) (i : Instr), s.agenda = .bundleIssue c x :: rest → atBundle s c x →
      fetches s c x (Bundle.single sl i) → step s = exec i { s with agenda := rest, cur := (c, x) })
    ∧ (∀ (s : State) (c x : Nat) (rest : List Instr) (op : BitVec 3) (kd ka kb : BitVec 4),
      s.agenda = .bundleIssue c x :: rest → atBundle s c x →
      fetches s c x { Bundle.single .s (.nop .s) with plogop := op, plogd := kd, ploga := ka, plogb := kb } →
        step s = exec (.plog op kd ka kb) { s with agenda := rest, cur := (c, x) })
    ∧ (∀ (s : State) (c x : Nat) (rest : List Instr) (b : Bundle), s.agenda = .bundleIssue c x :: rest → atBundle s c x →
      fetches s c x b →
        step s = .next (issueBundle { s with agenda := rest, cur := (c, x) } c x b (slotParts b c x)))
    ∧ (∀ (s : State) (i : Instr) (rest : List Instr), s.agenda = i :: rest → step s = exec i { s with agenda := rest })
    ∧ (∀ (s : State) (t : Nat) (i : Instr) (rest : List (Nat × Instr)), s.agenda = [] → s.inputs = (t, i) :: rest → t ≤ s.now →
      step s = exec i { s with inputs := rest })
    ∧ (∀ s : State, s.agenda = [] → (∀ p ∈ s.inputs.head?, s.now < p.1) → Gives (step s) fun t => t.now = s.now + 1)

/-- Words written out from the manual's encodings decode to the instructions they stand for (R52 to R57, R70 to R74). -/
def Obligations.WordsDecodeToTheirInstruction : Prop :=
  decodeSlot .s 0x00C0514000000100 = some (.addi ⟨0, 5, 5, 0, 256⟩)
    ∧ decodeSlot .s 0x01C0414600000000 = some (.div ⟨0, 4, 5, 6, 0⟩)
    ∧ decodeSlot .s 0x0D0000C000000002 = some (.loop ⟨0, 0, 3, 0, 2⟩)
    ∧ decodeSlot .va 0x0100040100300200 = some (.vfma ⟨false, 0, 8, 16, 24, 8, 0, 0⟩)
    ∧ decodeSlot .mx 0 = some (.nop .mx)
    ∧ decodeSlot .sy 0x0FC0000000000000 = none
    ∧ decodeBundle (2 ^ 29) = .error .illb

/-! Steps of the matrix domain and of a core's registers. -/

namespace Sys2Proof.Claims

/-- Rne(n / 16) (R39). -/
def rne16 (n : Int) : Int := if n % 16 < 8 ∨ (n % 16 = 8 ∧ n / 16 % 2 = 0) then n / 16 else n / 16 + 1

/-- An element after r renormalisations of its tile (R39, R40). -/
def renormed (r : Nat) (a : Elem) : Elem :=
  if a.cls = 0 then { a with sig := (List.range r).foldl (fun n _ => rne16 n) a.sig } else a

/-- The significand of an element of a tile of exponent e with the values that enter it, and whether it is finite and reaches
2^54 (R38, R39). -/
def sumAt (e : Int) (a : Elem) (vs : List TileVal) : Int := vs.foldl (fun n v => n + v.q e) a.sig
def tooBig (e : Int) (a : Elem) (vs : List TileVal) : Bool := a.cls == 0 && decide (2 ^ 54 ≤ (sumAt e a vs).natAbs)

/-- The element after its values have entered: what is still over becomes an infinity, and classes join (R39, R40). -/
def entered (e : Int) (a : Elem) (vs : List TileVal) : Elem :=
  let c := vs.foldl (fun c v => joinCls c v.clsOf) (if tooBig e a vs then (if 0 < sumAt e a vs then 1 else 2) else a.cls)
  ⟨c, if c = 0 then sumAt e a vs else 0⟩

/-- Element p of tile T of a core. -/
def elemAt (k : Core) (T p : Nat) : Elem := mget {} k.elems (T * 16384 + p)

/-- The array has taken beat b of core c, with r renormalisations, and the rest waits; beyond tiles, statistics and what the beat's
context receives, nothing has changed (R252). -/
def beaten (s : State) (c : Nat) (b : Beat) (rest : List Beat) (r : Nat) (t : State) : Prop :=
  let k := s.core c
  let k1 := t.core c
  let q := s.ctx c b.x
  k1.fifo = rest ∧ k1.nextBeat = s.now + (1 + r) * k.mat ∧ k1.arrayUntil = mset b.x (s.now + (5 + r) * k.mat) k.arrayUntil
    ∧ { k1 with
        fifo := k.fifo, nextBeat := k.nextBeat, arrayUntil := k.arrayUntil, elems := k.elems, tileE := k.tileE
        tileMarks := k.tileMarks, statq := k.statq, statLost := k.statLost } = k
    ∧ { t.ctx c b.x with nfs := q.nfs, stat := q.stat, pend := q.pend, mx := q.mx } = q
    ∧ (∀ d, d ≠ c → t.core d = s.core d) ∧ (∀ d y, y < 2 → (d, y) ≠ (c, b.x) → t.ctx d y = s.ctx d y)
    ∧ { t with ctxs := s.ctxs, cores := s.cores } = s

/-- Records of statistics appended by a beat. -/
def recorded (s : State) (c : Nat) (t : State) : Prop :=
  (t.core c).statq = (s.core c).statq ∧ (t.core c).statLost = (s.core c).statLost

/-- Values enter tile T in one step, those of `vs` by the position of their element, into zeros where they replace. The tile
renormalises until no element with values reaches 2^54 or its exponent cannot rise; an element still over becomes an
infinity; NFS bit 0 is set for such, and `bit` when an element becomes no number; MX.PROG is `mx` (R32, R37 to R41, R288). -/
def enters (s : State) (c : Nat) (b : Beat) (rest : List Beat) (T : Nat) (replaces : Bool) (vs : Nat → Option (List TileVal))
    (bit more : BitVec 5) (mx : MxProg) (t : State) : Prop :=
  let k := s.core c
  let old (r p : Nat) : Elem := renormed r (elemAt k T p)
  let into (r p : Nat) : Elem := if replaces then {} else old r p
  let e (r : Nat) : Int := k.tileExp T + 4 * r
  let full (r : Nat) : List Nat := (List.range 16384).filter fun p => (vs p).any fun l => tooBig (e r) (into r p) l
  ∃ r : Nat, (∀ j < r, full j ≠ [] ∧ e (j + 1) ≤ 32767) ∧ (full r ≠ [] → 32767 < e (r + 1))
    ∧ beaten s c b rest r t
    ∧ (t.core c).tileExp T = e r ∧ (∀ n, n ≠ T → (t.core c).tileExp n = k.tileExp n)
    ∧ (∀ p < 16384, elemAt (t.core c) T p = match vs p with
        | none => old r p
        | some l => entered (e r) (into r p) l)
    ∧ (∀ i, i / 16384 ≠ T → mget {} (t.core c).elems i = mget {} k.elems i)
    ∧ (k.tileMarks = [] → k.faceMarks = [] → (t.core c).tileMarks = [])
    ∧ (t.ctx c b.x).stat = (s.ctx c b.x).stat ∧ (t.ctx c b.x).pend = (s.ctx c b.x).pend ∧ (t.ctx c b.x).mx = mx
    ∧ let lost := (List.range 16384).filter fun p => (vs p).any fun l =>
        (old r p).cls == 0 && (entered (e r) (into r p) l).cls != 0
      (t.ctx c b.x).nfs = (s.ctx c b.x).nfs ||| (if full r = [] then 0 else 1) ||| (if lost = [] then 0 else bit) ||| more
        ∧ let s1 := s.stats b.x T 2 c b.pc r
          let s2 := if full r = [] then s1 else s1.stat c b.x 0 T 4 (full r).length b.pc
          recorded (if lost = [] then s2 else s2.stat c b.x 0 T 1 lost.length b.pc) c t

/-- A block of tile T is drained into the register that awaits result `id`: each element converted, zero exactly; the register
lands six core cycles after issue, later by the time that its beat was held back; lost elements are recorded (R43, R252, R276,
R278, R288, R377). -/
def drains (s : State) (c : Nat) (b : Beat) (rest : List Beat) (T row col shape : Nat) (ty : ETy) (f : Fmt) (mode : RMode)
    (sat : Bool) (seed : BitVec 64) (id : Nat) (t : State) : Prop :=
  let k := s.core c
  let q := s.ctx c b.x
  let ps := blockPos ty.count shape row col
  let rs := ps.map fun p =>
    let a := elemAt k T p
    if a.cls = 0 ∧ a.sig = 0 then (⟨0, 0⟩ : FRes) else f.ofVal mode sat (rstZ seed p) (a.val (k.tileExp T))
  let lost := (rs.filter fun r => r.fl &&& Flags.fovf != 0 && !sat).length
  let due := b.tick + 6 + (s.now - (b.time + k.mat) + k.cor - 1) / k.cor
  beaten s c b rest 0 t ∧ (∀ n, (t.core c).tileExp n = k.tileExp n) ∧ (t.ctx c b.x).mx = q.mx
    ∧ (t.ctx c b.x).pend = q.pend.map (fun p =>
        if p.due = .reply id then
          { p with val := joinElems ty.w (rs.map (·.bits)), due := .cycle (q.cyc + (due - k.tick)) due
                   mark := ps.findSome? fun i => (k.tileMarks.find? fun m => m.1 == T * 16384 + i).map (·.2) }
        else p)
    ∧ (t.ctx c b.x).stat = rs.foldl (fun fl r => fl ||| r.fl) q.stat
    ∧ (t.ctx c b.x).nfs = q.nfs ||| (if lost ≠ 0 ∨ rs.any (fun r => ty.nonFinite r.bits) then 4 else 0)
    ∧ recorded (if lost = 0 then s else s.stat c b.x 0 T 3 lost b.pc) c t

/-- The products of a row's and a column's operands in one face vector each, of those in `used` (R251). -/
def products (af bf : Nat) (fa fb : BitVec 32) (g : Nat) (used : Nat → Bool) (a n : BitVec 2048) (row col : Nat) :
    List TileVal :=
  ((List.range g).filter used).map fun h =>
    tileProd (groupVal af fa fb (faceGroup a row) h) (groupVal bf fa fb (faceGroup n col) h)

/-- The element of an MOUTER's register that line m of the tile takes: those of 8 bits by half a register, those of 16 bits all,
those of 32 bits into half the tile (R277). -/
def outerVal (ty : ETy) (half : Bool) (v : BitVec 2048) (m : Nat) : Option FVal :=
  let h := if half then 1 else 0
  if ty.w = 8 then some (ty.val (elem 8 (128 * h + m) v))
  else if ty.w = 16 then some (ty.val (elem 16 m v))
  else if m / 64 = h then some (ty.val (elem 32 (m % 64) v)) else none

/-- A sequencer that may enter a beat: it emits in this cycle, and the FIFO has room (R152, R267). -/
def emits (s : State) (c : Nat) (q : Seq) : Prop :=
  s.hasCore c = true ∧ (s.core c).seq = some q ∧ s.seqRuns c q = true ∧ s.beatStop c = none

/-- Unit u of the own vault of core c reads clean: it is neither poisoned nor raced for (R270). -/
def clean (s : State) (c : Nat) (u : Nat) : Prop := s.poisoned (vaultPa c (64 * u)) 64 = false ∧ s.racy c (vaultPa c (64 * u)) 64 = false

/-- The beat that a sequencer sends. -/
def sends (s : State) (c : Nat) (q : Seq) : Beat :=
  ⟨q.d.x, q.d.pc, s.now, (s.core c).tick,
    match q.ready.find? fun r => r.1 == q.beat with
    | some r => .cubeStep q.d r.2.1 r.2.2.1 r.2.2.2
    | none => .cubeOther q.d q.clear⟩

end Sys2Proof.Claims

/-- The beat FIFO of a core performs its oldest beat: slices pushed, tiles cleared, products, blocks and scaled elements entered,
renormalised, drained, exponents read and written. The sequencer enters its own, from the fetch of its items to its end, and stops
at an item that is poisoned or raced for. Heat tokens refill by the governor's step; a switched crossing, the ballast floor, the
limiter and a swap request change their core's registers (R32, R37 to R44, R132, R251 to R256, R261, R262, R266 to R268, R270, R275
to R283, R288, R314, R371, R402). Where the manual leaves a choice, the model's: logs 4, 42, 78, 92, 110 and 116. -/
def Obligations.BeatsRefillsAndCoreRegisters : Prop :=
  (∀ (s : State) (c : Nat) (b : Beat) (rest : List Beat), s.hasCore c = true → (s.core c).fifo = b :: rest →
      s.paused c = false →
        (∀ n l v, b.op = .push n l v → Steps s (.matrixBeat c) (s.modCore c fun k =>
          { k with
            fifo := rest
            nextBeat := s.now + k.mat
            north := if n then mset l v k.north else k.north
            west := if n then k.west else mset l v k.west
            faceMarks := k.faceMarks.filter fun p => p.1 / 32 != 2 * l + (if n then 1 else 0)
            arrayUntil := mset b.x (s.now + 5 * k.mat) k.arrayUntil }))
        ∧ (∀ n e, b.op = .expWrite n e → Steps s (.matrixBeat c) (s.modCore c fun k =>
          { k with fifo := rest, nextBeat := s.now + k.mat, tileE := mset n e k.tileE
                   arrayUntil := mset b.x (s.now + 5 * k.mat) k.arrayUntil }))
        ∧ (∀ n e, n ≤ 16 → b.op = .zero n e → Gives (exec (.matrixBeat c) s) fun t =>
          (t.core c).fifo = rest ∧ (t.core c).tileExp n = e
            ∧ (∀ i < 16384, mget {} (t.core c).elems (n * 16384 + i) = {})
            ∧ ∀ i, (i < n * 16384 ∨ (n + 1) * 16384 ≤ i) → mget {} (t.core c).elems i = mget {} (s.core c).elems i)
        ∧ (∀ T mask af bf fa fb, b.x < 2 → b.op = .step T mask af bf fa fb →
          widthG af fa fb = widthG bf fa fb → Gives (exec (.matrixBeat c) s)
            (enters s c b rest T false (fun p => some ((layersOf mask).flatMap fun l =>
              products af bf fa fb (widthG af fa fb) (fun _ => true) (mget 0 (s.core c).west l) (mget 0 (s.core c).north l)
                (p / 128) (p % 128))) 1 0 (s.ctx c b.x).mx))
        ∧ (∀ d n a v, b.x < 2 → d.x = b.x → b.op = .cubeStep d n a v → d.m ≤ 128 → d.n ≤ 128 → a.length = v.length →
          widthG d.af d.fa d.fb = widthG d.bf d.fa d.fb → Gives (exec (.matrixBeat c) s)
            (enters s c b rest d.target false (fun p =>
              if p / 128 < d.m ∧ p % 128 < d.n then
                some ((List.range a.length).flatMap fun j =>
                  products d.af d.bf d.fa d.fb d.g (fun h => n * d.layers * d.g + j * d.g + h < d.k) (a.getD j 0) (v.getD j 0)
                    (p / 128) (p % 128))
              else none) 1 0
              (if (s.ctx c b.x).cubeId = d.id ∧ (s.ctx c b.x).strand.any (fun st => st.slot == d.slot) then
                { (s.ctx c b.x).mx with step := n + 1 }
              else (s.ctx c b.x).mx)))
        ∧ (∀ T ty ha hb a v, b.x < 2 → ty ≤ 8 → b.op = .outer T ty ha hb a v → Gives (exec (.matrixBeat c) s)
            (enters s c b rest T false (fun p =>
              match outerVal (eTy ty .f32) ha a (p / 128), outerVal (eTy ty .f32) hb v (p % 128) with
              | some y, some z => some [tileProd y z]
              | _, _ => none) 1 0 (s.ctx c b.x).mx))
        ∧ (∀ T row col ty add shape v, b.x < 2 → b.op = .wracc T row col ty add shape v →
          let e := eTy ty .f32
          blockOk e.count shape row col = true → Gives (exec (.matrixBeat c) s)
            (enters s c b rest T (!add) (fun p =>
              ((blockPos e.count shape row col).idxOf? p).map fun i => [(e.val (elem e.w i v)).tileVal]) 0
              (if (List.range e.count).any (fun i => (e.val (elem e.w i v)).tileVal.clsOf != 0) then 1 else 0) (s.ctx c b.x).mx))
        ∧ (∀ T ha hb a v, b.x < 2 → b.op = .scacc T ha hb a v → Gives (exec (.matrixBeat c) s)
            (enters s c b rest T false (fun p =>
              some [scaled (elemAt (s.core c) 16 p) ((s.core c).tileExp 16) (elem 8 ((if ha then 128 else 0) + p / 128) a)
                (elem 8 ((if hb then 128 else 0) + p % 128) v)]) 8 0 (s.ctx c b.x).mx))
        ∧ (∀ T row col ty fmt sat mode shape seed id f, b.x < 2 → b.op = .drain T row col ty fmt sat mode shape seed id →
          let e := eTy ty (Fmt.ofReg fmt)
          e.flt = some f → blockOk e.count shape row col = true → Gives (exec (.matrixBeat c) s) fun t =>
            drains s c b rest T row col shape e f mode sat seed id t ∧ (t.core c).elems = (s.core c).elems)
        ∧ (∀ T row col clr shape id, b.x < 2 → b.op = .rdacc T row col clr shape id → blockOk 64 shape row col = true →
          Gives (exec (.matrixBeat c) s) fun t =>
            drains s c b rest T row col shape (eTy 0 .f32) .f32 0 false 0 id t
              ∧ ∀ i, mget {} (t.core c).elems i =
                  if clr ∧ i / 16384 = T ∧ i % 16384 ∈ blockPos 64 shape row col then {} else mget {} (s.core c).elems i)
        ∧ (∀ T, b.x < 2 → b.op = .renorm T → Gives (exec (.matrixBeat c) s) fun t =>
            let k := s.core c
            let ok : Prop := k.tileExp T + 4 ≤ 32767
            beaten s c b rest 0 t ∧ (ok → (t.core c).tileExp T = k.tileExp T + 4 ∧ recorded (s.stat c b.x 0 T 2 1 b.pc) c t
                ∧ ∀ i, mget {} (t.core c).elems i = if i / 16384 = T then renormed 1 (mget {} k.elems i) else mget {} k.elems i)
              ∧ (¬ok → (t.core c).tileExp T = k.tileExp T ∧ (t.core c).elems = k.elems ∧ recorded s c t)
              ∧ (∀ n, n ≠ T → (t.core c).tileExp n = k.tileExp n) ∧ t.ctx c b.x = s.ctx c b.x)
        ∧ (∀ T id, b.x < 2 → b.op = .expRead T id → Gives (exec (.matrixBeat c) s) fun t =>
            let k := s.core c
            let q := s.ctx c b.x
            let due := b.tick + 2 + (s.now - (b.time + k.mat) + k.cor - 1) / k.cor
            beaten s c b rest 0 t ∧ (t.core c).elems = k.elems ∧ (t.core c).tileE = k.tileE
              ∧ t.ctx c b.x =
                { q with
                  pend := q.pend.map fun p =>
                    if p.due = .reply id then
                      { p with val := BitVec.ofInt 2048 (k.tileExp T), mark := none, due := .cycle (q.cyc + (due - k.tick)) due }
                    else p })
        ∧ (∀ d clear, b.x < 2 → b.op = .cubeOther d clear → Gives (exec (.matrixBeat c) s) fun t =>
            beaten s c b rest 0 t ∧ t.ctx c b.x = s.ctx c b.x
              ∧ (∀ n, (t.core c).tileExp n = if clear ∧ n = d.target then d.e0 else (s.core c).tileExp n)
              ∧ ∀ i, mget {} (t.core c).elems i = if clear ∧ i / 16384 = d.target then {} else mget {} (s.core c).elems i))
    ∧ (∀ (s : State) (c : Nat) (q : Seq), emits s c q → (q.d.stream q.start).length ≤ q.beat →
      q.beat + 1 < (q.d.stream q.start).length + 8 →
        Gives (exec (.cubeSeqBeat c) s) fun t =>
          (t.core c).fifo = (s.core c).fifo ++ [sends s c q]
            ∧ ∃ q1, (t.core c).seq = some q1 ∧ q1.beat = q.beat + 1 ∧ q1.d = q.d ∧ q1.start = q.start)
    ∧ (∀ (s : State) (c : Nat) (q : Seq), emits s c q → q.beat + 1 = (q.d.stream q.start).length + 8 →
        Gives (exec (.cubeSeqBeat c) s) fun t =>
          (t.core c).fifo = (s.core c).fifo ++ [sends s c q] ∧ (t.core c).seq = none
            ∧ (t.ctx c q.d.x).mx = { (s.ctx c q.d.x).mx with phase := 0 }
            ∧ (t.core c).score = (s.core c).score.filter (fun e => e.owner != .cubeA && e.owner != .cubeB)
            ∧ (∀ n l, (t.core c).face n l = if q.d.mask / 2 ^ l % 2 = 1 then 0 else (s.core c).face n l)
            ∧ t.mem = s.mem)
    ∧ (∀ (s : State) (c : Nat) (q : Seq) (it : FetchItem), emits s c q → (q.d.stream q.start)[q.beat]? = some it →
      s.latent = [] → (∀ u ∈ q.d.itemUnits it, clean s c u.2) →
        let waits (l : List (Nat × Nat × List (BitVec 2048) × List (BitVec 2048))) := l.filter fun r => r.1 != q.beat
        Gives (exec (.cubeSeqBeat c) s) fun t =>
          (t.core c).fifo = (s.core c).fifo ++ [sends s c q]
            ∧ (t.core c).score = ((s.core c).updateClaims q.d ((q.d.stream q.start).drop (q.beat + 1))).score
            ∧ (t.core c).xing = (if q.d.itemUnits it = [] then (s.core c).xing
                else min 12 ((s.core c).xing + (q.d.itemUnits it).length))
            ∧ t.mem = s.mem ∧ ∃ q1, (t.core c).seq = some q1 ∧ q1.beat = q.beat + 1 ∧ q1.d = q.d ∧ q1.start = q.start
              ∧ q1.clear = false
              ∧ match it with
                | .fetch n => q1.buf = q.buf
                    ∧ q1.ready = waits (q.ready ++ [(q.beat + 8, n, (q.d.stepGroups n).map (q.faceVec s c false),
                        (q.d.stepGroups n).map (q.faceVec s c true))])
                | .load op blk i => q1.ready = waits q.ready
                    ∧ (∀ r < min 32 (q.d.dim op - 32 * i),
                        mget 0 q1.buf (bufKey op blk (32 * i + r)) = ownUnit s c (q.d.rowUnit op blk (32 * i + r)))
                    ∧ ∀ key, (∀ r < min 32 (q.d.dim op - 32 * i), key ≠ bufKey op blk (32 * i + r)) →
                        mget 0 q1.buf key = mget 0 q.buf key)
    ∧ (∀ (s : State) (c : Nat) (q : Seq) (op : Bool) (u r : Nat), q.d.dim op ≤ 128 → r < q.d.dim op →
        (q.faceVec s c op u).extractLsb' (16 * r) 16 =
          if q.d.trans op then (mget 0 q.buf (bufKey op (u / 32) r)).extractLsb' (16 * (u % 32)) 16
          else (ownUnit s c (q.d.faceUnit op u (r / 32))).extractLsb' (16 * (r % 32)) 16)
    ∧ (∀ (s : State) (c : Nat) (q : Seq) (it : FetchItem) (pre : List (Bool × Nat)) (u : Bool × Nat) (post : List (Bool × Nat)),
      emits s c q → (q.d.stream q.start)[q.beat]? = some it → s.latent = [] → q.d.itemUnits it = pre ++ u :: post →
      (∀ v ∈ pre, clean s c v.2) → ¬clean s c u.2 →
        let code := if s.poisoned (vaultPa c (64 * u.2)) 64 then 0x10 else 0x0B
        Gives (exec (.cubeSeqBeat c) s) fun t =>
          (t.core c).seq = none ∧ (t.core c).fifo = (s.core c).fifo
            ∧ (t.core c).score = (s.core c).score.filter (fun e => e.owner != .cubeA && e.owner != .cubeB)
            ∧ t.ctx c q.d.x =
                { s.ctx c q.d.x with
                  mx := { (s.ctx c q.d.x).mx with phase := 2 }
                  trapNext := some ((s.ctx c q.d.x).trapNext.getD ⟨code, 3, q.d.unitPtr u⟩) }
            ∧ t.mem = s.mem)
    ∧ (∀ (s : State) (c : Nat), s.hasCore c = true →
      Steps s (.heatRefill c) (s.modCore c fun k =>
        { k with heat := min (2 ^ 20) (k.heat + 4 * (8 - (s.stk (stackOf c)).govStep)) }))
    ∧ (∀ (s : State) (c : Nat), s.hasCore c = true → (s.core c).holdUntil ≤ s.now →
      Steps s (.crossingRatioSwitch c) (s.modCore c fun k => { k with holdUntil := 0 }))
    ∧ (∀ (s : State) (c : Nat), s.hasCore c = true →
      let k := s.core c
      let avg := if k.balCyc = 0 then 0 else k.balSum * 16 / k.balCyc
      let f := if k.balMode = 2 then min 4095 (max (k.balF - k.dslew) avg) else k.balF - k.dslew
      Steps s (.ballastFloorUpdate c) (s.setCore c
        { k with balF := f, balMode := if k.balMode = 1 ∧ f = 0 then 0 else k.balMode, balA := min 4095 avg, balSum := 0
                 balCyc := 0 }))
    ∧ (∀ (s : State) (c : Nat), s.hasCore c = true → s.form ≠ .s →
      let up := if s.pkg.rampUp = 0 ∨ s.rampN = 0 then 0x1000 else max 1 (s.pkg.rampUp / (25 * s.rampN))
      let dn := if s.pkg.rampDown = 0 ∨ s.rampN = 0 then 0x1000 else max 1 (s.pkg.rampDown / (25 * s.rampN))
      Steps s (.ilimUpdate c) (s.modCore c fun k =>
        { k with ilim := min 0x1000 (min (k.ilim + up) (max (k.ilim - dn) (k.iwinMax + up))), dslew := min 0xFFF (dn / 2)
                 iwinMax := 0 }))
    ∧ (∀ (s : State) (c : Nat), s.hasCore c = true → (s.core c).swapReq = false →
      Steps s (.swapreqWrite c) (s.modCore c fun k => { k with swapReq := true, swap := 1 }))
end

