-- ==== Sys2Proof/Laws/Map.lean ====
section
/-! SUPPORT. Reading after writing in finite maps and in memory, and the canonical form that every write of memory keeps. -/

namespace Sys2Proof.Machine

@[simp] theorem mget_nil {α : Type} (d : α) (j : Nat) : mget d [] j = d := rfl

/-- The value set at a key is read there. -/
@[simp] theorem mget_mset_same {α : Type} (d v : α) (k : Nat) (m : NMap α) : mget d (mset k v m) k = v := by
  induction m with
  | nil => simp [mset, mget]
  | cons p t ih =>
    obtain ⟨a, w⟩ := p
    simp only [mset]
    split
    · simp [mget]
    · split
      · simp [mget]
      · simp [mget, *]

/-- Of two values set at one key the second stays. -/
@[simp] theorem mset_mset {α : Type} (k : Nat) (v w : α) (m : NMap α) : mset k w (mset k v m) = mset k w m := by
  induction m with
  | nil => simp [mset]
  | cons p t ih =>
    obtain ⟨a, u⟩ := p
    simp only [mset]
    split
    · simp [mset]
    · split
      · simp [mset]
      · simp [mset, *]

/-- A value set at another key is not read. -/
theorem mget_mset_ne {α : Type} (d v : α) {k j : Nat} (m : NMap α) (h : j ≠ k) : mget d (mset k v m) j = mget d m j := by
  induction m with
  | nil => simp [mset, mget, h.symm]
  | cons p t ih =>
    obtain ⟨a, w⟩ := p
    simp only [mset]
    split
    · next e => subst e; simp [mget, h.symm]
    · split
      · simp [mget, h.symm]
      · simp [mget, ih]

/-- Both cases at once. -/
theorem mget_mset {α : Type} (d v : α) (k j : Nat) (m : NMap α) :
    mget d (mset k v m) j = if j = k then v else mget d m j := by
  split
  · next h => subst h; simp
  · next h => exact mget_mset_ne d v m h

/-- A key that is taken out reads as the default, another as before. -/
theorem mget_mdel {α : Type} (d : α) (k j : Nat) (m : NMap α) : mget d (mdel k m) j = if j = k then d else mget d m j := by
  induction m with
  | nil => simp [mdel, mget]
  | cons p t ih =>
    obtain ⟨a, w⟩ := p
    simp only [mdel, List.filter_cons] at *
    by_cases e : a = k <;> by_cases g : j = k <;> simp_all [mget] <;> omega

/-- Keys strictly rising. -/
def Rising {α : Type} (m : NMap α) : Prop := m.Pairwise fun p q => p.1 < q.1

theorem rising_mdel {α : Type} (k : Nat) {m : NMap α} (h : Rising m) : Rising (mdel k m) := List.Pairwise.filter _ h

theorem mem_mset {α : Type} {k : Nat} {v : α} {m : NMap α} {p : Nat × α} (h : p ∈ mset k v m) : p = (k, v) ∨ p ∈ m := by
  induction m with
  | nil => simpa [mset] using h
  | cons q t ih =>
    obtain ⟨a, w⟩ := q
    simp only [mset] at h
    split at h
    · rcases List.mem_cons.1 h with h | h
      · exact .inl h
      · exact .inr (List.mem_cons_of_mem _ h)
    · split at h
      · rcases List.mem_cons.1 h with h | h
        · exact .inl h
        · exact .inr h
      · rcases List.mem_cons.1 h with h | h
        · exact .inr (h ▸ List.mem_cons_self)
        · exact (ih h).imp id (List.mem_cons_of_mem _)

theorem rising_mset {α : Type} (k : Nat) (v : α) {m : NMap α} (h : Rising m) : Rising (mset k v m) := by
  induction m with
  | nil => simp [mset, Rising]
  | cons q t ih =>
    obtain ⟨a, w⟩ := q
    have ht : Rising t := (List.pairwise_cons.1 h).2
    have hq := (List.pairwise_cons.1 h).1
    simp only [mset]
    split
    · next e => subst e; exact List.pairwise_cons.2 ⟨hq, ht⟩
    · split
      · next e g =>
        refine List.pairwise_cons.2 ⟨?_, h⟩
        intro p hp
        rcases List.mem_cons.1 hp with rfl | hp
        · exact g
        · exact Nat.lt_trans g (hq p hp)
      · next e g =>
        refine List.pairwise_cons.2 ⟨?_, ih ht⟩
        intro p hp
        rcases mem_mset hp with rfl | hp
        · simp only; omega
        · exact hq p hp

/-- The canonical form of memory in the terms of the two lemmas above. -/
theorem Memory.wf_iff (m : Memory) : m.wf = true ↔ Rising m ∧ ∀ p ∈ m, p.2 ≠ Memory.unlisted := by
  induction m with
  | nil => simp [Memory.wf, Rising]
  | cons p t ih =>
    obtain ⟨a, b⟩ := p
    cases t with
    | nil => simp [Memory.wf, Rising]
    | cons q r =>
      obtain ⟨a', b'⟩ := q
      simp only [Memory.wf, Bool.and_eq_true, bne_iff_ne, decide_eq_true_eq, ih]
      constructor
      · rintro ⟨⟨hb, hl⟩, hr, hm⟩
        refine ⟨List.pairwise_cons.2 ⟨?_, hr⟩, ?_⟩
        · intro p hp
          rcases List.mem_cons.1 hp with rfl | hp
          · exact hl
          · exact Nat.lt_trans hl ((List.pairwise_cons.1 hr).1 p hp)
        · intro p hp
          rcases List.mem_cons.1 hp with rfl | hp
          · exact hb
          · exact hm p hp
      · rintro ⟨hr, hm⟩
        have h1 := List.pairwise_cons.1 hr
        exact ⟨⟨hm _ List.mem_cons_self, h1.1 _ List.mem_cons_self⟩, h1.2, fun p hp => hm p (List.mem_cons_of_mem _ hp)⟩

/-- A byte write keeps the canonical form. -/
theorem Memory.write_wf {m : Memory} (a : Nat) (b : Byte) (h : m.wf = true) : (m.write a b).wf = true := by
  rw [Memory.wf_iff] at *
  obtain ⟨hr, hm⟩ := h
  have hd : ∀ p ∈ mdel a m, p.2 ≠ Memory.unlisted := fun p hp => hm p (List.mem_filter.1 hp).1
  unfold Memory.write
  split
  · exact ⟨rising_mdel a hr, hd⟩
  · next hb =>
    refine ⟨rising_mset a b (rising_mdel a hr), fun p hp => ?_⟩
    rcases mem_mset hp with rfl | hp
    · exact hb
    · exact hd p hp

/-- The byte that a write leaves at each address. -/
theorem Memory.read_write (m : Memory) (a : Nat) (b : Byte) (c : Nat) :
    (m.write a b).read c = if c = a then b else m.read c := by
  unfold Memory.write Memory.read
  split
  · next hb => subst hb; rw [mget_mdel]
  · rw [mget_mset, mget_mdel]; split <;> simp_all

end Sys2Proof.Machine
end

