-- ==== Sys2Proof/Laws/State.lean ====
section
/-! SUPPORT. What each update of the state leaves as it was: one lemma per field per update, and the units read after an
update of them. -/

namespace Sys2Proof.Machine

@[simp] theorem State.setCtx_form (s : State) (c x : Nat) (k : Ctx) : (s.setCtx c x k).form = s.form := rfl
@[simp] theorem State.setCtx_fuses (s : State) (c x : Nat) (k : Ctx) : (s.setCtx c x k).fuses = s.fuses := rfl
@[simp] theorem State.setCtx_badLayers (s : State) (c x : Nat) (k : Ctx) : (s.setCtx c x k).badLayers = s.badLayers := rfl
@[simp] theorem State.setCtx_fusedLanes (s : State) (c x : Nat) (k : Ctx) : (s.setCtx c x k).fusedLanes = s.fusedLanes := rfl
@[simp] theorem State.setCtx_flashLanes (s : State) (c x : Nat) (k : Ctx) : (s.setCtx c x k).flashLanes = s.flashLanes := rfl
@[simp] theorem State.setCtx_now (s : State) (c x : Nat) (k : Ctx) : (s.setCtx c x k).now = s.now := rfl
@[simp] theorem State.setCtx_cur (s : State) (c x : Nat) (k : Ctx) : (s.setCtx c x k).cur = s.cur := rfl
@[simp] theorem State.setCtx_agenda (s : State) (c x : Nat) (k : Ctx) : (s.setCtx c x k).agenda = s.agenda := rfl
@[simp] theorem State.setCtx_inputs (s : State) (c x : Nat) (k : Ctx) : (s.setCtx c x k).inputs = s.inputs := rfl
@[simp] theorem State.setCtx_free (s : State) (c x : Nat) (k : Ctx) : (s.setCtx c x k).free = s.free := rfl
@[simp] theorem State.setCtx_nextId (s : State) (c x : Nat) (k : Ctx) : (s.setCtx c x k).nextId = s.nextId := rfl
@[simp] theorem State.setCtx_mem (s : State) (c x : Nat) (k : Ctx) : (s.setCtx c x k).mem = s.mem := rfl
@[simp] theorem State.setCtx_poison (s : State) (c x : Nat) (k : Ctx) : (s.setCtx c x k).poison = s.poison := rfl
@[simp] theorem State.setCtx_latent (s : State) (c x : Nat) (k : Ctx) : (s.setCtx c x k).latent = s.latent := rfl
@[simp] theorem State.setCtx_stamps (s : State) (c x : Nat) (k : Ctx) : (s.setCtx c x k).stamps = s.stamps := rfl
@[simp] theorem State.setCtx_cores (s : State) (c x : Nat) (k : Ctx) : (s.setCtx c x k).cores = s.cores := rfl
@[simp] theorem State.setCtx_clusters (s : State) (c x : Nat) (k : Ctx) : (s.setCtx c x k).clusters = s.clusters := rfl
@[simp] theorem State.setCtx_stks (s : State) (c x : Nat) (k : Ctx) : (s.setCtx c x k).stks = s.stks := rfl
@[simp] theorem State.setCtx_pkg (s : State) (c x : Nat) (k : Ctx) : (s.setCtx c x k).pkg = s.pkg := rfl
@[simp] theorem State.setCtx_net (s : State) (c x : Nat) (k : Ctx) : (s.setCtx c x k).net = s.net := rfl
@[simp] theorem State.setCtx_units (s : State) (c x : Nat) (k : Ctx) : (s.setCtx c x k).units = s.units := rfl
@[simp] theorem State.setCtx_barTags (s : State) (c x : Nat) (k : Ctx) : (s.setCtx c x k).barTags = s.barTags := rfl
@[simp] theorem State.setCtx_home (s : State) (c x : Nat) (k : Ctx) : (s.setCtx c x k).home = s.home := rfl
@[simp] theorem State.setCtx_hostDone (s : State) (c x : Nat) (k : Ctx) : (s.setCtx c x k).hostDone = s.hostDone := rfl

@[simp] theorem State.modCtx_form (s : State) (c x : Nat) (f : Ctx → Ctx) : (s.modCtx c x f).form = s.form := rfl
@[simp] theorem State.modCtx_fuses (s : State) (c x : Nat) (f : Ctx → Ctx) : (s.modCtx c x f).fuses = s.fuses := rfl
@[simp] theorem State.modCtx_badLayers (s : State) (c x : Nat) (f : Ctx → Ctx) : (s.modCtx c x f).badLayers = s.badLayers := rfl
@[simp] theorem State.modCtx_fusedLanes (s : State) (c x : Nat) (f : Ctx → Ctx) : (s.modCtx c x f).fusedLanes = s.fusedLanes := rfl
@[simp] theorem State.modCtx_flashLanes (s : State) (c x : Nat) (f : Ctx → Ctx) : (s.modCtx c x f).flashLanes = s.flashLanes := rfl
@[simp] theorem State.modCtx_now (s : State) (c x : Nat) (f : Ctx → Ctx) : (s.modCtx c x f).now = s.now := rfl
@[simp] theorem State.modCtx_cur (s : State) (c x : Nat) (f : Ctx → Ctx) : (s.modCtx c x f).cur = s.cur := rfl
@[simp] theorem State.modCtx_agenda (s : State) (c x : Nat) (f : Ctx → Ctx) : (s.modCtx c x f).agenda = s.agenda := rfl
@[simp] theorem State.modCtx_inputs (s : State) (c x : Nat) (f : Ctx → Ctx) : (s.modCtx c x f).inputs = s.inputs := rfl
@[simp] theorem State.modCtx_free (s : State) (c x : Nat) (f : Ctx → Ctx) : (s.modCtx c x f).free = s.free := rfl
@[simp] theorem State.modCtx_nextId (s : State) (c x : Nat) (f : Ctx → Ctx) : (s.modCtx c x f).nextId = s.nextId := rfl
@[simp] theorem State.modCtx_mem (s : State) (c x : Nat) (f : Ctx → Ctx) : (s.modCtx c x f).mem = s.mem := rfl
@[simp] theorem State.modCtx_poison (s : State) (c x : Nat) (f : Ctx → Ctx) : (s.modCtx c x f).poison = s.poison := rfl
@[simp] theorem State.modCtx_latent (s : State) (c x : Nat) (f : Ctx → Ctx) : (s.modCtx c x f).latent = s.latent := rfl
@[simp] theorem State.modCtx_stamps (s : State) (c x : Nat) (f : Ctx → Ctx) : (s.modCtx c x f).stamps = s.stamps := rfl
@[simp] theorem State.modCtx_cores (s : State) (c x : Nat) (f : Ctx → Ctx) : (s.modCtx c x f).cores = s.cores := rfl
@[simp] theorem State.modCtx_clusters (s : State) (c x : Nat) (f : Ctx → Ctx) : (s.modCtx c x f).clusters = s.clusters := rfl
@[simp] theorem State.modCtx_stks (s : State) (c x : Nat) (f : Ctx → Ctx) : (s.modCtx c x f).stks = s.stks := rfl
@[simp] theorem State.modCtx_pkg (s : State) (c x : Nat) (f : Ctx → Ctx) : (s.modCtx c x f).pkg = s.pkg := rfl
@[simp] theorem State.modCtx_net (s : State) (c x : Nat) (f : Ctx → Ctx) : (s.modCtx c x f).net = s.net := rfl
@[simp] theorem State.modCtx_units (s : State) (c x : Nat) (f : Ctx → Ctx) : (s.modCtx c x f).units = s.units := rfl
@[simp] theorem State.modCtx_barTags (s : State) (c x : Nat) (f : Ctx → Ctx) : (s.modCtx c x f).barTags = s.barTags := rfl
@[simp] theorem State.modCtx_home (s : State) (c x : Nat) (f : Ctx → Ctx) : (s.modCtx c x f).home = s.home := rfl
@[simp] theorem State.modCtx_hostDone (s : State) (c x : Nat) (f : Ctx → Ctx) : (s.modCtx c x f).hostDone = s.hostDone := rfl

@[simp] theorem State.setCore_form (s : State) (c : Nat) (k : Core) : (s.setCore c k).form = s.form := rfl
@[simp] theorem State.setCore_fuses (s : State) (c : Nat) (k : Core) : (s.setCore c k).fuses = s.fuses := rfl
@[simp] theorem State.setCore_badLayers (s : State) (c : Nat) (k : Core) : (s.setCore c k).badLayers = s.badLayers := rfl
@[simp] theorem State.setCore_fusedLanes (s : State) (c : Nat) (k : Core) : (s.setCore c k).fusedLanes = s.fusedLanes := rfl
@[simp] theorem State.setCore_flashLanes (s : State) (c : Nat) (k : Core) : (s.setCore c k).flashLanes = s.flashLanes := rfl
@[simp] theorem State.setCore_now (s : State) (c : Nat) (k : Core) : (s.setCore c k).now = s.now := rfl
@[simp] theorem State.setCore_cur (s : State) (c : Nat) (k : Core) : (s.setCore c k).cur = s.cur := rfl
@[simp] theorem State.setCore_agenda (s : State) (c : Nat) (k : Core) : (s.setCore c k).agenda = s.agenda := rfl
@[simp] theorem State.setCore_inputs (s : State) (c : Nat) (k : Core) : (s.setCore c k).inputs = s.inputs := rfl
@[simp] theorem State.setCore_free (s : State) (c : Nat) (k : Core) : (s.setCore c k).free = s.free := rfl
@[simp] theorem State.setCore_nextId (s : State) (c : Nat) (k : Core) : (s.setCore c k).nextId = s.nextId := rfl
@[simp] theorem State.setCore_mem (s : State) (c : Nat) (k : Core) : (s.setCore c k).mem = s.mem := rfl
@[simp] theorem State.setCore_poison (s : State) (c : Nat) (k : Core) : (s.setCore c k).poison = s.poison := rfl
@[simp] theorem State.setCore_latent (s : State) (c : Nat) (k : Core) : (s.setCore c k).latent = s.latent := rfl
@[simp] theorem State.setCore_stamps (s : State) (c : Nat) (k : Core) : (s.setCore c k).stamps = s.stamps := rfl
@[simp] theorem State.setCore_ctxs (s : State) (c : Nat) (k : Core) : (s.setCore c k).ctxs = s.ctxs := rfl
@[simp] theorem State.setCore_clusters (s : State) (c : Nat) (k : Core) : (s.setCore c k).clusters = s.clusters := rfl
@[simp] theorem State.setCore_stks (s : State) (c : Nat) (k : Core) : (s.setCore c k).stks = s.stks := rfl
@[simp] theorem State.setCore_pkg (s : State) (c : Nat) (k : Core) : (s.setCore c k).pkg = s.pkg := rfl
@[simp] theorem State.setCore_net (s : State) (c : Nat) (k : Core) : (s.setCore c k).net = s.net := rfl
@[simp] theorem State.setCore_units (s : State) (c : Nat) (k : Core) : (s.setCore c k).units = s.units := rfl
@[simp] theorem State.setCore_barTags (s : State) (c : Nat) (k : Core) : (s.setCore c k).barTags = s.barTags := rfl
@[simp] theorem State.setCore_home (s : State) (c : Nat) (k : Core) : (s.setCore c k).home = s.home := rfl
@[simp] theorem State.setCore_hostDone (s : State) (c : Nat) (k : Core) : (s.setCore c k).hostDone = s.hostDone := rfl

@[simp] theorem State.modCore_form (s : State) (c : Nat) (f : Core → Core) : (s.modCore c f).form = s.form := rfl
@[simp] theorem State.modCore_fuses (s : State) (c : Nat) (f : Core → Core) : (s.modCore c f).fuses = s.fuses := rfl
@[simp] theorem State.modCore_badLayers (s : State) (c : Nat) (f : Core → Core) : (s.modCore c f).badLayers = s.badLayers := rfl
@[simp] theorem State.modCore_fusedLanes (s : State) (c : Nat) (f : Core → Core) : (s.modCore c f).fusedLanes = s.fusedLanes := rfl
@[simp] theorem State.modCore_flashLanes (s : State) (c : Nat) (f : Core → Core) : (s.modCore c f).flashLanes = s.flashLanes := rfl
@[simp] theorem State.modCore_now (s : State) (c : Nat) (f : Core → Core) : (s.modCore c f).now = s.now := rfl
@[simp] theorem State.modCore_cur (s : State) (c : Nat) (f : Core → Core) : (s.modCore c f).cur = s.cur := rfl
@[simp] theorem State.modCore_agenda (s : State) (c : Nat) (f : Core → Core) : (s.modCore c f).agenda = s.agenda := rfl
@[simp] theorem State.modCore_inputs (s : State) (c : Nat) (f : Core → Core) : (s.modCore c f).inputs = s.inputs := rfl
@[simp] theorem State.modCore_free (s : State) (c : Nat) (f : Core → Core) : (s.modCore c f).free = s.free := rfl
@[simp] theorem State.modCore_nextId (s : State) (c : Nat) (f : Core → Core) : (s.modCore c f).nextId = s.nextId := rfl
@[simp] theorem State.modCore_mem (s : State) (c : Nat) (f : Core → Core) : (s.modCore c f).mem = s.mem := rfl
@[simp] theorem State.modCore_poison (s : State) (c : Nat) (f : Core → Core) : (s.modCore c f).poison = s.poison := rfl
@[simp] theorem State.modCore_latent (s : State) (c : Nat) (f : Core → Core) : (s.modCore c f).latent = s.latent := rfl
@[simp] theorem State.modCore_stamps (s : State) (c : Nat) (f : Core → Core) : (s.modCore c f).stamps = s.stamps := rfl
@[simp] theorem State.modCore_ctxs (s : State) (c : Nat) (f : Core → Core) : (s.modCore c f).ctxs = s.ctxs := rfl
@[simp] theorem State.modCore_clusters (s : State) (c : Nat) (f : Core → Core) : (s.modCore c f).clusters = s.clusters := rfl
@[simp] theorem State.modCore_stks (s : State) (c : Nat) (f : Core → Core) : (s.modCore c f).stks = s.stks := rfl
@[simp] theorem State.modCore_pkg (s : State) (c : Nat) (f : Core → Core) : (s.modCore c f).pkg = s.pkg := rfl
@[simp] theorem State.modCore_net (s : State) (c : Nat) (f : Core → Core) : (s.modCore c f).net = s.net := rfl
@[simp] theorem State.modCore_units (s : State) (c : Nat) (f : Core → Core) : (s.modCore c f).units = s.units := rfl
@[simp] theorem State.modCore_barTags (s : State) (c : Nat) (f : Core → Core) : (s.modCore c f).barTags = s.barTags := rfl
@[simp] theorem State.modCore_home (s : State) (c : Nat) (f : Core → Core) : (s.modCore c f).home = s.home := rfl
@[simp] theorem State.modCore_hostDone (s : State) (c : Nat) (f : Core → Core) : (s.modCore c f).hostDone = s.hostDone := rfl

@[simp] theorem State.modCluster_form (s : State) (q : Nat) (f : Cluster → Cluster) : (s.modCluster q f).form = s.form := rfl
@[simp] theorem State.modCluster_fuses (s : State) (q : Nat) (f : Cluster → Cluster) : (s.modCluster q f).fuses = s.fuses := rfl
@[simp] theorem State.modCluster_badLayers (s : State) (q : Nat) (f : Cluster → Cluster) : (s.modCluster q f).badLayers = s.badLayers := rfl
@[simp] theorem State.modCluster_fusedLanes (s : State) (q : Nat) (f : Cluster → Cluster) : (s.modCluster q f).fusedLanes = s.fusedLanes := rfl
@[simp] theorem State.modCluster_flashLanes (s : State) (q : Nat) (f : Cluster → Cluster) : (s.modCluster q f).flashLanes = s.flashLanes := rfl
@[simp] theorem State.modCluster_now (s : State) (q : Nat) (f : Cluster → Cluster) : (s.modCluster q f).now = s.now := rfl
@[simp] theorem State.modCluster_cur (s : State) (q : Nat) (f : Cluster → Cluster) : (s.modCluster q f).cur = s.cur := rfl
@[simp] theorem State.modCluster_agenda (s : State) (q : Nat) (f : Cluster → Cluster) : (s.modCluster q f).agenda = s.agenda := rfl
@[simp] theorem State.modCluster_inputs (s : State) (q : Nat) (f : Cluster → Cluster) : (s.modCluster q f).inputs = s.inputs := rfl
@[simp] theorem State.modCluster_free (s : State) (q : Nat) (f : Cluster → Cluster) : (s.modCluster q f).free = s.free := rfl
@[simp] theorem State.modCluster_nextId (s : State) (q : Nat) (f : Cluster → Cluster) : (s.modCluster q f).nextId = s.nextId := rfl
@[simp] theorem State.modCluster_mem (s : State) (q : Nat) (f : Cluster → Cluster) : (s.modCluster q f).mem = s.mem := rfl
@[simp] theorem State.modCluster_poison (s : State) (q : Nat) (f : Cluster → Cluster) : (s.modCluster q f).poison = s.poison := rfl
@[simp] theorem State.modCluster_latent (s : State) (q : Nat) (f : Cluster → Cluster) : (s.modCluster q f).latent = s.latent := rfl
@[simp] theorem State.modCluster_stamps (s : State) (q : Nat) (f : Cluster → Cluster) : (s.modCluster q f).stamps = s.stamps := rfl
@[simp] theorem State.modCluster_ctxs (s : State) (q : Nat) (f : Cluster → Cluster) : (s.modCluster q f).ctxs = s.ctxs := rfl
@[simp] theorem State.modCluster_cores (s : State) (q : Nat) (f : Cluster → Cluster) : (s.modCluster q f).cores = s.cores := rfl
@[simp] theorem State.modCluster_stks (s : State) (q : Nat) (f : Cluster → Cluster) : (s.modCluster q f).stks = s.stks := rfl
@[simp] theorem State.modCluster_pkg (s : State) (q : Nat) (f : Cluster → Cluster) : (s.modCluster q f).pkg = s.pkg := rfl
@[simp] theorem State.modCluster_net (s : State) (q : Nat) (f : Cluster → Cluster) : (s.modCluster q f).net = s.net := rfl
@[simp] theorem State.modCluster_units (s : State) (q : Nat) (f : Cluster → Cluster) : (s.modCluster q f).units = s.units := rfl
@[simp] theorem State.modCluster_barTags (s : State) (q : Nat) (f : Cluster → Cluster) : (s.modCluster q f).barTags = s.barTags := rfl
@[simp] theorem State.modCluster_home (s : State) (q : Nat) (f : Cluster → Cluster) : (s.modCluster q f).home = s.home := rfl
@[simp] theorem State.modCluster_hostDone (s : State) (q : Nat) (f : Cluster → Cluster) : (s.modCluster q f).hostDone = s.hostDone := rfl

@[simp] theorem State.modStk_form (s : State) (t : Nat) (f : Stack → Stack) : (s.modStk t f).form = s.form := rfl
@[simp] theorem State.modStk_fuses (s : State) (t : Nat) (f : Stack → Stack) : (s.modStk t f).fuses = s.fuses := rfl
@[simp] theorem State.modStk_badLayers (s : State) (t : Nat) (f : Stack → Stack) : (s.modStk t f).badLayers = s.badLayers := rfl
@[simp] theorem State.modStk_fusedLanes (s : State) (t : Nat) (f : Stack → Stack) : (s.modStk t f).fusedLanes = s.fusedLanes := rfl
@[simp] theorem State.modStk_flashLanes (s : State) (t : Nat) (f : Stack → Stack) : (s.modStk t f).flashLanes = s.flashLanes := rfl
@[simp] theorem State.modStk_now (s : State) (t : Nat) (f : Stack → Stack) : (s.modStk t f).now = s.now := rfl
@[simp] theorem State.modStk_cur (s : State) (t : Nat) (f : Stack → Stack) : (s.modStk t f).cur = s.cur := rfl
@[simp] theorem State.modStk_agenda (s : State) (t : Nat) (f : Stack → Stack) : (s.modStk t f).agenda = s.agenda := rfl
@[simp] theorem State.modStk_inputs (s : State) (t : Nat) (f : Stack → Stack) : (s.modStk t f).inputs = s.inputs := rfl
@[simp] theorem State.modStk_free (s : State) (t : Nat) (f : Stack → Stack) : (s.modStk t f).free = s.free := rfl
@[simp] theorem State.modStk_nextId (s : State) (t : Nat) (f : Stack → Stack) : (s.modStk t f).nextId = s.nextId := rfl
@[simp] theorem State.modStk_mem (s : State) (t : Nat) (f : Stack → Stack) : (s.modStk t f).mem = s.mem := rfl
@[simp] theorem State.modStk_poison (s : State) (t : Nat) (f : Stack → Stack) : (s.modStk t f).poison = s.poison := rfl
@[simp] theorem State.modStk_latent (s : State) (t : Nat) (f : Stack → Stack) : (s.modStk t f).latent = s.latent := rfl
@[simp] theorem State.modStk_stamps (s : State) (t : Nat) (f : Stack → Stack) : (s.modStk t f).stamps = s.stamps := rfl
@[simp] theorem State.modStk_ctxs (s : State) (t : Nat) (f : Stack → Stack) : (s.modStk t f).ctxs = s.ctxs := rfl
@[simp] theorem State.modStk_cores (s : State) (t : Nat) (f : Stack → Stack) : (s.modStk t f).cores = s.cores := rfl
@[simp] theorem State.modStk_clusters (s : State) (t : Nat) (f : Stack → Stack) : (s.modStk t f).clusters = s.clusters := rfl
@[simp] theorem State.modStk_pkg (s : State) (t : Nat) (f : Stack → Stack) : (s.modStk t f).pkg = s.pkg := rfl
@[simp] theorem State.modStk_net (s : State) (t : Nat) (f : Stack → Stack) : (s.modStk t f).net = s.net := rfl
@[simp] theorem State.modStk_units (s : State) (t : Nat) (f : Stack → Stack) : (s.modStk t f).units = s.units := rfl
@[simp] theorem State.modStk_barTags (s : State) (t : Nat) (f : Stack → Stack) : (s.modStk t f).barTags = s.barTags := rfl
@[simp] theorem State.modStk_home (s : State) (t : Nat) (f : Stack → Stack) : (s.modStk t f).home = s.home := rfl
@[simp] theorem State.modStk_hostDone (s : State) (t : Nat) (f : Stack → Stack) : (s.modStk t f).hostDone = s.hostDone := rfl

@[simp] theorem State.modPkg_form (s : State) (f : Pkg → Pkg) : (s.modPkg f).form = s.form := rfl
@[simp] theorem State.modPkg_fuses (s : State) (f : Pkg → Pkg) : (s.modPkg f).fuses = s.fuses := rfl
@[simp] theorem State.modPkg_badLayers (s : State) (f : Pkg → Pkg) : (s.modPkg f).badLayers = s.badLayers := rfl
@[simp] theorem State.modPkg_fusedLanes (s : State) (f : Pkg → Pkg) : (s.modPkg f).fusedLanes = s.fusedLanes := rfl
@[simp] theorem State.modPkg_flashLanes (s : State) (f : Pkg → Pkg) : (s.modPkg f).flashLanes = s.flashLanes := rfl
@[simp] theorem State.modPkg_now (s : State) (f : Pkg → Pkg) : (s.modPkg f).now = s.now := rfl
@[simp] theorem State.modPkg_cur (s : State) (f : Pkg → Pkg) : (s.modPkg f).cur = s.cur := rfl
@[simp] theorem State.modPkg_agenda (s : State) (f : Pkg → Pkg) : (s.modPkg f).agenda = s.agenda := rfl
@[simp] theorem State.modPkg_inputs (s : State) (f : Pkg → Pkg) : (s.modPkg f).inputs = s.inputs := rfl
@[simp] theorem State.modPkg_free (s : State) (f : Pkg → Pkg) : (s.modPkg f).free = s.free := rfl
@[simp] theorem State.modPkg_nextId (s : State) (f : Pkg → Pkg) : (s.modPkg f).nextId = s.nextId := rfl
@[simp] theorem State.modPkg_mem (s : State) (f : Pkg → Pkg) : (s.modPkg f).mem = s.mem := rfl
@[simp] theorem State.modPkg_poison (s : State) (f : Pkg → Pkg) : (s.modPkg f).poison = s.poison := rfl
@[simp] theorem State.modPkg_latent (s : State) (f : Pkg → Pkg) : (s.modPkg f).latent = s.latent := rfl
@[simp] theorem State.modPkg_stamps (s : State) (f : Pkg → Pkg) : (s.modPkg f).stamps = s.stamps := rfl
@[simp] theorem State.modPkg_ctxs (s : State) (f : Pkg → Pkg) : (s.modPkg f).ctxs = s.ctxs := rfl
@[simp] theorem State.modPkg_cores (s : State) (f : Pkg → Pkg) : (s.modPkg f).cores = s.cores := rfl
@[simp] theorem State.modPkg_clusters (s : State) (f : Pkg → Pkg) : (s.modPkg f).clusters = s.clusters := rfl
@[simp] theorem State.modPkg_stks (s : State) (f : Pkg → Pkg) : (s.modPkg f).stks = s.stks := rfl
@[simp] theorem State.modPkg_net (s : State) (f : Pkg → Pkg) : (s.modPkg f).net = s.net := rfl
@[simp] theorem State.modPkg_units (s : State) (f : Pkg → Pkg) : (s.modPkg f).units = s.units := rfl
@[simp] theorem State.modPkg_barTags (s : State) (f : Pkg → Pkg) : (s.modPkg f).barTags = s.barTags := rfl
@[simp] theorem State.modPkg_home (s : State) (f : Pkg → Pkg) : (s.modPkg f).home = s.home := rfl
@[simp] theorem State.modPkg_hostDone (s : State) (f : Pkg → Pkg) : (s.modPkg f).hostDone = s.hostDone := rfl

@[simp] theorem State.send_form (s : State) (m : Msg) : (s.send m).form = s.form := rfl
@[simp] theorem State.send_fuses (s : State) (m : Msg) : (s.send m).fuses = s.fuses := rfl
@[simp] theorem State.send_badLayers (s : State) (m : Msg) : (s.send m).badLayers = s.badLayers := rfl
@[simp] theorem State.send_fusedLanes (s : State) (m : Msg) : (s.send m).fusedLanes = s.fusedLanes := rfl
@[simp] theorem State.send_flashLanes (s : State) (m : Msg) : (s.send m).flashLanes = s.flashLanes := rfl
@[simp] theorem State.send_now (s : State) (m : Msg) : (s.send m).now = s.now := rfl
@[simp] theorem State.send_cur (s : State) (m : Msg) : (s.send m).cur = s.cur := rfl
@[simp] theorem State.send_agenda (s : State) (m : Msg) : (s.send m).agenda = s.agenda := rfl
@[simp] theorem State.send_inputs (s : State) (m : Msg) : (s.send m).inputs = s.inputs := rfl
@[simp] theorem State.send_free (s : State) (m : Msg) : (s.send m).free = s.free := rfl
@[simp] theorem State.send_mem (s : State) (m : Msg) : (s.send m).mem = s.mem := rfl
@[simp] theorem State.send_poison (s : State) (m : Msg) : (s.send m).poison = s.poison := rfl
@[simp] theorem State.send_latent (s : State) (m : Msg) : (s.send m).latent = s.latent := rfl
@[simp] theorem State.send_stamps (s : State) (m : Msg) : (s.send m).stamps = s.stamps := rfl
@[simp] theorem State.send_ctxs (s : State) (m : Msg) : (s.send m).ctxs = s.ctxs := rfl
@[simp] theorem State.send_cores (s : State) (m : Msg) : (s.send m).cores = s.cores := rfl
@[simp] theorem State.send_clusters (s : State) (m : Msg) : (s.send m).clusters = s.clusters := rfl
@[simp] theorem State.send_stks (s : State) (m : Msg) : (s.send m).stks = s.stks := rfl
@[simp] theorem State.send_pkg (s : State) (m : Msg) : (s.send m).pkg = s.pkg := rfl
@[simp] theorem State.send_units (s : State) (m : Msg) : (s.send m).units = s.units := rfl
@[simp] theorem State.send_barTags (s : State) (m : Msg) : (s.send m).barTags = s.barTags := rfl
@[simp] theorem State.send_home (s : State) (m : Msg) : (s.send m).home = s.home := rfl
@[simp] theorem State.send_hostDone (s : State) (m : Msg) : (s.send m).hostDone = s.hostDone := rfl

@[simp] theorem State.result_form (s : State) (c x : Nat) (d : Dst) (v : BitVec 2048) (lat : Nat) : (s.result c x d v lat).form = s.form := rfl
@[simp] theorem State.result_fuses (s : State) (c x : Nat) (d : Dst) (v : BitVec 2048) (lat : Nat) : (s.result c x d v lat).fuses = s.fuses := rfl
@[simp] theorem State.result_badLayers (s : State) (c x : Nat) (d : Dst) (v : BitVec 2048) (lat : Nat) : (s.result c x d v lat).badLayers = s.badLayers := rfl
@[simp] theorem State.result_fusedLanes (s : State) (c x : Nat) (d : Dst) (v : BitVec 2048) (lat : Nat) : (s.result c x d v lat).fusedLanes = s.fusedLanes := rfl
@[simp] theorem State.result_flashLanes (s : State) (c x : Nat) (d : Dst) (v : BitVec 2048) (lat : Nat) : (s.result c x d v lat).flashLanes = s.flashLanes := rfl
@[simp] theorem State.result_now (s : State) (c x : Nat) (d : Dst) (v : BitVec 2048) (lat : Nat) : (s.result c x d v lat).now = s.now := rfl
@[simp] theorem State.result_cur (s : State) (c x : Nat) (d : Dst) (v : BitVec 2048) (lat : Nat) : (s.result c x d v lat).cur = s.cur := rfl
@[simp] theorem State.result_agenda (s : State) (c x : Nat) (d : Dst) (v : BitVec 2048) (lat : Nat) : (s.result c x d v lat).agenda = s.agenda := rfl
@[simp] theorem State.result_inputs (s : State) (c x : Nat) (d : Dst) (v : BitVec 2048) (lat : Nat) : (s.result c x d v lat).inputs = s.inputs := rfl
@[simp] theorem State.result_free (s : State) (c x : Nat) (d : Dst) (v : BitVec 2048) (lat : Nat) : (s.result c x d v lat).free = s.free := rfl
@[simp] theorem State.result_nextId (s : State) (c x : Nat) (d : Dst) (v : BitVec 2048) (lat : Nat) : (s.result c x d v lat).nextId = s.nextId := rfl
@[simp] theorem State.result_mem (s : State) (c x : Nat) (d : Dst) (v : BitVec 2048) (lat : Nat) : (s.result c x d v lat).mem = s.mem := rfl
@[simp] theorem State.result_poison (s : State) (c x : Nat) (d : Dst) (v : BitVec 2048) (lat : Nat) : (s.result c x d v lat).poison = s.poison := rfl
@[simp] theorem State.result_latent (s : State) (c x : Nat) (d : Dst) (v : BitVec 2048) (lat : Nat) : (s.result c x d v lat).latent = s.latent := rfl
@[simp] theorem State.result_stamps (s : State) (c x : Nat) (d : Dst) (v : BitVec 2048) (lat : Nat) : (s.result c x d v lat).stamps = s.stamps := rfl
@[simp] theorem State.result_cores (s : State) (c x : Nat) (d : Dst) (v : BitVec 2048) (lat : Nat) : (s.result c x d v lat).cores = s.cores := rfl
@[simp] theorem State.result_clusters (s : State) (c x : Nat) (d : Dst) (v : BitVec 2048) (lat : Nat) : (s.result c x d v lat).clusters = s.clusters := rfl
@[simp] theorem State.result_stks (s : State) (c x : Nat) (d : Dst) (v : BitVec 2048) (lat : Nat) : (s.result c x d v lat).stks = s.stks := rfl
@[simp] theorem State.result_pkg (s : State) (c x : Nat) (d : Dst) (v : BitVec 2048) (lat : Nat) : (s.result c x d v lat).pkg = s.pkg := rfl
@[simp] theorem State.result_net (s : State) (c x : Nat) (d : Dst) (v : BitVec 2048) (lat : Nat) : (s.result c x d v lat).net = s.net := rfl
@[simp] theorem State.result_units (s : State) (c x : Nat) (d : Dst) (v : BitVec 2048) (lat : Nat) : (s.result c x d v lat).units = s.units := rfl
@[simp] theorem State.result_barTags (s : State) (c x : Nat) (d : Dst) (v : BitVec 2048) (lat : Nat) : (s.result c x d v lat).barTags = s.barTags := rfl
@[simp] theorem State.result_home (s : State) (c x : Nat) (d : Dst) (v : BitVec 2048) (lat : Nat) : (s.result c x d v lat).home = s.home := rfl
@[simp] theorem State.result_hostDone (s : State) (c x : Nat) (d : Dst) (v : BitVec 2048) (lat : Nat) : (s.result c x d v lat).hostDone = s.hostDone := rfl

@[simp] theorem State.setFlags_form (s : State) (c x : Nat) (f : BitVec 5) : (s.setFlags c x f).form = s.form := rfl
@[simp] theorem State.setFlags_fuses (s : State) (c x : Nat) (f : BitVec 5) : (s.setFlags c x f).fuses = s.fuses := rfl
@[simp] theorem State.setFlags_badLayers (s : State) (c x : Nat) (f : BitVec 5) : (s.setFlags c x f).badLayers = s.badLayers := rfl
@[simp] theorem State.setFlags_fusedLanes (s : State) (c x : Nat) (f : BitVec 5) : (s.setFlags c x f).fusedLanes = s.fusedLanes := rfl
@[simp] theorem State.setFlags_flashLanes (s : State) (c x : Nat) (f : BitVec 5) : (s.setFlags c x f).flashLanes = s.flashLanes := rfl
@[simp] theorem State.setFlags_now (s : State) (c x : Nat) (f : BitVec 5) : (s.setFlags c x f).now = s.now := rfl
@[simp] theorem State.setFlags_cur (s : State) (c x : Nat) (f : BitVec 5) : (s.setFlags c x f).cur = s.cur := rfl
@[simp] theorem State.setFlags_agenda (s : State) (c x : Nat) (f : BitVec 5) : (s.setFlags c x f).agenda = s.agenda := rfl
@[simp] theorem State.setFlags_inputs (s : State) (c x : Nat) (f : BitVec 5) : (s.setFlags c x f).inputs = s.inputs := rfl
@[simp] theorem State.setFlags_free (s : State) (c x : Nat) (f : BitVec 5) : (s.setFlags c x f).free = s.free := rfl
@[simp] theorem State.setFlags_nextId (s : State) (c x : Nat) (f : BitVec 5) : (s.setFlags c x f).nextId = s.nextId := rfl
@[simp] theorem State.setFlags_mem (s : State) (c x : Nat) (f : BitVec 5) : (s.setFlags c x f).mem = s.mem := rfl
@[simp] theorem State.setFlags_poison (s : State) (c x : Nat) (f : BitVec 5) : (s.setFlags c x f).poison = s.poison := rfl
@[simp] theorem State.setFlags_latent (s : State) (c x : Nat) (f : BitVec 5) : (s.setFlags c x f).latent = s.latent := rfl
@[simp] theorem State.setFlags_stamps (s : State) (c x : Nat) (f : BitVec 5) : (s.setFlags c x f).stamps = s.stamps := rfl
@[simp] theorem State.setFlags_cores (s : State) (c x : Nat) (f : BitVec 5) : (s.setFlags c x f).cores = s.cores := rfl
@[simp] theorem State.setFlags_clusters (s : State) (c x : Nat) (f : BitVec 5) : (s.setFlags c x f).clusters = s.clusters := rfl
@[simp] theorem State.setFlags_stks (s : State) (c x : Nat) (f : BitVec 5) : (s.setFlags c x f).stks = s.stks := rfl
@[simp] theorem State.setFlags_pkg (s : State) (c x : Nat) (f : BitVec 5) : (s.setFlags c x f).pkg = s.pkg := rfl
@[simp] theorem State.setFlags_net (s : State) (c x : Nat) (f : BitVec 5) : (s.setFlags c x f).net = s.net := rfl
@[simp] theorem State.setFlags_units (s : State) (c x : Nat) (f : BitVec 5) : (s.setFlags c x f).units = s.units := rfl
@[simp] theorem State.setFlags_barTags (s : State) (c x : Nat) (f : BitVec 5) : (s.setFlags c x f).barTags = s.barTags := rfl
@[simp] theorem State.setFlags_home (s : State) (c x : Nat) (f : BitVec 5) : (s.setFlags c x f).home = s.home := rfl
@[simp] theorem State.setFlags_hostDone (s : State) (c x : Nat) (f : BitVec 5) : (s.setFlags c x f).hostDone = s.hostDone := rfl

@[simp] theorem State.setNfs_form (s : State) (c x : Nat) (f : BitVec 5) : (s.setNfs c x f).form = s.form := rfl
@[simp] theorem State.setNfs_fuses (s : State) (c x : Nat) (f : BitVec 5) : (s.setNfs c x f).fuses = s.fuses := rfl
@[simp] theorem State.setNfs_badLayers (s : State) (c x : Nat) (f : BitVec 5) : (s.setNfs c x f).badLayers = s.badLayers := rfl
@[simp] theorem State.setNfs_fusedLanes (s : State) (c x : Nat) (f : BitVec 5) : (s.setNfs c x f).fusedLanes = s.fusedLanes := rfl
@[simp] theorem State.setNfs_flashLanes (s : State) (c x : Nat) (f : BitVec 5) : (s.setNfs c x f).flashLanes = s.flashLanes := rfl
@[simp] theorem State.setNfs_now (s : State) (c x : Nat) (f : BitVec 5) : (s.setNfs c x f).now = s.now := rfl
@[simp] theorem State.setNfs_cur (s : State) (c x : Nat) (f : BitVec 5) : (s.setNfs c x f).cur = s.cur := rfl
@[simp] theorem State.setNfs_agenda (s : State) (c x : Nat) (f : BitVec 5) : (s.setNfs c x f).agenda = s.agenda := rfl
@[simp] theorem State.setNfs_inputs (s : State) (c x : Nat) (f : BitVec 5) : (s.setNfs c x f).inputs = s.inputs := rfl
@[simp] theorem State.setNfs_free (s : State) (c x : Nat) (f : BitVec 5) : (s.setNfs c x f).free = s.free := rfl
@[simp] theorem State.setNfs_nextId (s : State) (c x : Nat) (f : BitVec 5) : (s.setNfs c x f).nextId = s.nextId := rfl
@[simp] theorem State.setNfs_mem (s : State) (c x : Nat) (f : BitVec 5) : (s.setNfs c x f).mem = s.mem := rfl
@[simp] theorem State.setNfs_poison (s : State) (c x : Nat) (f : BitVec 5) : (s.setNfs c x f).poison = s.poison := rfl
@[simp] theorem State.setNfs_latent (s : State) (c x : Nat) (f : BitVec 5) : (s.setNfs c x f).latent = s.latent := rfl
@[simp] theorem State.setNfs_stamps (s : State) (c x : Nat) (f : BitVec 5) : (s.setNfs c x f).stamps = s.stamps := rfl
@[simp] theorem State.setNfs_cores (s : State) (c x : Nat) (f : BitVec 5) : (s.setNfs c x f).cores = s.cores := rfl
@[simp] theorem State.setNfs_clusters (s : State) (c x : Nat) (f : BitVec 5) : (s.setNfs c x f).clusters = s.clusters := rfl
@[simp] theorem State.setNfs_stks (s : State) (c x : Nat) (f : BitVec 5) : (s.setNfs c x f).stks = s.stks := rfl
@[simp] theorem State.setNfs_pkg (s : State) (c x : Nat) (f : BitVec 5) : (s.setNfs c x f).pkg = s.pkg := rfl
@[simp] theorem State.setNfs_net (s : State) (c x : Nat) (f : BitVec 5) : (s.setNfs c x f).net = s.net := rfl
@[simp] theorem State.setNfs_units (s : State) (c x : Nat) (f : BitVec 5) : (s.setNfs c x f).units = s.units := rfl
@[simp] theorem State.setNfs_barTags (s : State) (c x : Nat) (f : BitVec 5) : (s.setNfs c x f).barTags = s.barTags := rfl
@[simp] theorem State.setNfs_home (s : State) (c x : Nat) (f : BitVec 5) : (s.setNfs c x f).home = s.home := rfl
@[simp] theorem State.setNfs_hostDone (s : State) (c x : Nat) (f : BitVec 5) : (s.setNfs c x f).hostDone = s.hostDone := rfl

@[simp] theorem State.setCtx_at_core (s : State) (c x : Nat) (k : Ctx) (d' : Nat) : (s.setCtx c x k).core d' = s.core d' := rfl
@[simp] theorem State.setCtx_at_cluster (s : State) (c x : Nat) (k : Ctx) (r : Nat) : (s.setCtx c x k).cluster r = s.cluster r := rfl
@[simp] theorem State.setCtx_at_stk (s : State) (c x : Nat) (k : Ctx) (r : Nat) : (s.setCtx c x k).stk r = s.stk r := rfl
@[simp] theorem State.modCtx_at_core (s : State) (c x : Nat) (f : Ctx → Ctx) (d' : Nat) : (s.modCtx c x f).core d' = s.core d' := rfl
@[simp] theorem State.modCtx_at_cluster (s : State) (c x : Nat) (f : Ctx → Ctx) (r : Nat) : (s.modCtx c x f).cluster r = s.cluster r := rfl
@[simp] theorem State.modCtx_at_stk (s : State) (c x : Nat) (f : Ctx → Ctx) (r : Nat) : (s.modCtx c x f).stk r = s.stk r := rfl
@[simp] theorem State.setCore_at_ctx (s : State) (c : Nat) (k : Core) (d' y : Nat) : (s.setCore c k).ctx d' y = s.ctx d' y := rfl
@[simp] theorem State.setCore_at_cluster (s : State) (c : Nat) (k : Core) (r : Nat) : (s.setCore c k).cluster r = s.cluster r := rfl
@[simp] theorem State.setCore_at_stk (s : State) (c : Nat) (k : Core) (r : Nat) : (s.setCore c k).stk r = s.stk r := rfl
@[simp] theorem State.modCore_at_ctx (s : State) (c : Nat) (f : Core → Core) (d' y : Nat) : (s.modCore c f).ctx d' y = s.ctx d' y := rfl
@[simp] theorem State.modCore_at_cluster (s : State) (c : Nat) (f : Core → Core) (r : Nat) : (s.modCore c f).cluster r = s.cluster r := rfl
@[simp] theorem State.modCore_at_stk (s : State) (c : Nat) (f : Core → Core) (r : Nat) : (s.modCore c f).stk r = s.stk r := rfl
@[simp] theorem State.modCluster_at_ctx (s : State) (q : Nat) (f : Cluster → Cluster) (d' y : Nat) : (s.modCluster q f).ctx d' y = s.ctx d' y := rfl
@[simp] theorem State.modCluster_at_core (s : State) (q : Nat) (f : Cluster → Cluster) (d' : Nat) : (s.modCluster q f).core d' = s.core d' := rfl
@[simp] theorem State.modCluster_at_stk (s : State) (q : Nat) (f : Cluster → Cluster) (r : Nat) : (s.modCluster q f).stk r = s.stk r := rfl
@[simp] theorem State.modStk_at_ctx (s : State) (t : Nat) (f : Stack → Stack) (d' y : Nat) : (s.modStk t f).ctx d' y = s.ctx d' y := rfl
@[simp] theorem State.modStk_at_core (s : State) (t : Nat) (f : Stack → Stack) (d' : Nat) : (s.modStk t f).core d' = s.core d' := rfl
@[simp] theorem State.modStk_at_cluster (s : State) (t : Nat) (f : Stack → Stack) (r : Nat) : (s.modStk t f).cluster r = s.cluster r := rfl
@[simp] theorem State.modPkg_at_ctx (s : State) (f : Pkg → Pkg) (d' y : Nat) : (s.modPkg f).ctx d' y = s.ctx d' y := rfl
@[simp] theorem State.modPkg_at_core (s : State) (f : Pkg → Pkg) (d' : Nat) : (s.modPkg f).core d' = s.core d' := rfl
@[simp] theorem State.modPkg_at_cluster (s : State) (f : Pkg → Pkg) (r : Nat) : (s.modPkg f).cluster r = s.cluster r := rfl
@[simp] theorem State.modPkg_at_stk (s : State) (f : Pkg → Pkg) (r : Nat) : (s.modPkg f).stk r = s.stk r := rfl
@[simp] theorem State.send_at_ctx (s : State) (m : Msg) (d' y : Nat) : (s.send m).ctx d' y = s.ctx d' y := rfl
@[simp] theorem State.send_at_core (s : State) (m : Msg) (d' : Nat) : (s.send m).core d' = s.core d' := rfl
@[simp] theorem State.send_at_cluster (s : State) (m : Msg) (r : Nat) : (s.send m).cluster r = s.cluster r := rfl
@[simp] theorem State.send_at_stk (s : State) (m : Msg) (r : Nat) : (s.send m).stk r = s.stk r := rfl
@[simp] theorem State.result_at_core (s : State) (c x : Nat) (d : Dst) (v : BitVec 2048) (lat : Nat) (d' : Nat) : (s.result c x d v lat).core d' = s.core d' := rfl
@[simp] theorem State.result_at_cluster (s : State) (c x : Nat) (d : Dst) (v : BitVec 2048) (lat : Nat) (r : Nat) : (s.result c x d v lat).cluster r = s.cluster r := rfl
@[simp] theorem State.result_at_stk (s : State) (c x : Nat) (d : Dst) (v : BitVec 2048) (lat : Nat) (r : Nat) : (s.result c x d v lat).stk r = s.stk r := rfl
@[simp] theorem State.setFlags_at_core (s : State) (c x : Nat) (f : BitVec 5) (d' : Nat) : (s.setFlags c x f).core d' = s.core d' := rfl
@[simp] theorem State.setFlags_at_cluster (s : State) (c x : Nat) (f : BitVec 5) (r : Nat) : (s.setFlags c x f).cluster r = s.cluster r := rfl
@[simp] theorem State.setFlags_at_stk (s : State) (c x : Nat) (f : BitVec 5) (r : Nat) : (s.setFlags c x f).stk r = s.stk r := rfl
@[simp] theorem State.setNfs_at_core (s : State) (c x : Nat) (f : BitVec 5) (d' : Nat) : (s.setNfs c x f).core d' = s.core d' := rfl
@[simp] theorem State.setNfs_at_cluster (s : State) (c x : Nat) (f : BitVec 5) (r : Nat) : (s.setNfs c x f).cluster r = s.cluster r := rfl
@[simp] theorem State.setNfs_at_stk (s : State) (c x : Nat) (f : BitVec 5) (r : Nat) : (s.setNfs c x f).stk r = s.stk r := rfl

/-! Units after an update. -/

@[simp] theorem State.ctx_setCtx_same (s : State) (c x : Nat) (k : Ctx) : (s.setCtx c x k).ctx c x = k := by
  simp [State.ctx, State.setCtx]

theorem State.ctx_setCtx_ne (s : State) (c x d y : Nat) (k : Ctx) (h : 2 * d + y ≠ 2 * c + x) :
    (s.setCtx c x k).ctx d y = s.ctx d y := by
  simp [State.ctx, State.setCtx, mget_mset_ne _ _ _ h]

@[simp] theorem State.ctx_modCtx_same (s : State) (c x : Nat) (f : Ctx → Ctx) : (s.modCtx c x f).ctx c x = f (s.ctx c x) := by
  simp [State.modCtx]

theorem State.ctx_modCtx_ne (s : State) (c x d y : Nat) (f : Ctx → Ctx) (h : 2 * d + y ≠ 2 * c + x) :
    (s.modCtx c x f).ctx d y = s.ctx d y := State.ctx_setCtx_ne s c x d y _ h

/-- Two changes of one context are one. -/
theorem State.modCtx_modCtx (s : State) (c x : Nat) (f g : Ctx → Ctx) :
    (s.modCtx c x f).modCtx c x g = s.modCtx c x fun k => g (f k) := by
  simp [State.modCtx, State.setCtx, State.ctx]

@[simp] theorem State.core_modCore_same (s : State) (c : Nat) (f : Core → Core) : (s.modCore c f).core c = f (s.core c) := by
  simp [State.core, State.modCore, State.setCore]

theorem State.core_modCore_ne (s : State) (c d : Nat) (f : Core → Core) (h : d ≠ c) : (s.modCore c f).core d = s.core d := by
  simp [State.core, State.modCore, State.setCore, mget_mset_ne _ _ _ h]

@[simp] theorem State.cluster_modCluster_same (s : State) (q : Nat) (f : Cluster → Cluster) :
    (s.modCluster q f).cluster q = f (s.cluster q) := by
  simp [State.cluster, State.modCluster]

theorem State.cluster_modCluster_ne (s : State) (q r : Nat) (f : Cluster → Cluster) (h : r ≠ q) :
    (s.modCluster q f).cluster r = s.cluster r := by
  simp [State.cluster, State.modCluster, mget_mset_ne _ _ _ h]

@[simp] theorem State.stk_modStk_same (s : State) (t : Nat) (f : Stack → Stack) : (s.modStk t f).stk t = f (s.stk t) := by
  simp [State.stk, State.modStk]

theorem State.stk_modStk_ne (s : State) (t r : Nat) (f : Stack → Stack) (h : r ≠ t) :
    (s.modStk t f).stk r = s.stk r := by
  simp [State.stk, State.modStk, mget_mset_ne _ _ _ h]

@[simp] theorem State.modPkg_pkg (s : State) (f : Pkg → Pkg) : (s.modPkg f).pkg = f s.pkg := rfl

@[simp] theorem State.core_modCtx (s : State) (c x d : Nat) (f : Ctx → Ctx) : (s.modCtx c x f).core d = s.core d := rfl

/-! Registers after a write. -/

theorem Ctx.rs_ws (k : Ctx) (r q : BitVec 6) (v : BitVec 64) :
    (k.ws r v).rs q = if q = 0 then 0 else if q = r then v else k.rs q := by
  by_cases hq : q = 0
  · rw [if_pos hq]; unfold Ctx.rs; rw [if_pos hq]
  · rw [if_neg hq]
    unfold Ctx.ws Ctx.rs
    rw [if_neg hq, if_neg hq]
    by_cases h : q = r
    · subst h; rw [if_pos rfl, if_neg hq]; exact mget_mset_same ..
    · have e : q.toNat ≠ r.toNat := fun e => h (BitVec.eq_of_toNat_eq e)
      rw [if_neg h]
      split
      · rfl
      · exact mget_mset_ne _ _ _ e

theorem Ctx.rk_wk (k : Ctx) (r q : BitVec 4) (v : BitVec 64) :
    (k.wk r v).rk q = if q = 0 then BitVec.allOnes 64 else if q = r then v else k.rk q := by
  by_cases hq : q = 0
  · rw [if_pos hq]; unfold Ctx.rk; rw [if_pos hq]
  · rw [if_neg hq]
    unfold Ctx.wk Ctx.rk
    rw [if_neg hq, if_neg hq]
    by_cases h : q = r
    · subst h; rw [if_pos rfl, if_neg hq]; exact mget_mset_same ..
    · have e : q.toNat ≠ r.toNat := fun e => h (BitVec.eq_of_toNat_eq e)
      rw [if_neg h]
      split
      · rfl
      · exact mget_mset_ne _ _ _ e

theorem Ctx.rv_wv (k : Ctx) (r q : BitVec 11) (v : BitVec 2048) : (k.wv r v).rv q = if q = r then v else k.rv q := by
  unfold Ctx.wv Ctx.rv
  by_cases h : q = r
  · subst h; simp
  · have : q.toNat ≠ r.toNat := fun e => h (BitVec.eq_of_toNat_eq e)
    simp [h, mget_mset_ne _ _ _ this]

@[simp] theorem Ctx.rs_zero (k : Ctx) : k.rs 0 = 0 := rfl
@[simp] theorem Ctx.rk_zero (k : Ctx) : k.rk 0 = BitVec.allOnes 64 := rfl

end Sys2Proof.Machine
end

