-- ==== Sys2Proof/Laws/Errors.lean ====
section
/-! SUPPORT. What a read that meets errors of memory can do, units that nobody asks, contributions that nobody made, and the elements
of a tile put in order. -/

namespace Sys2Proof.Machine

/-! Errors that reads meet (R377). -/

/-- The states differ in their errors of memory, their marks of poison and their stacks' counters only. -/
def State.errorsOnly (s t : State) : Prop := t = { s with latent := t.latent, poison := t.poison, stks := t.stks }

theorem State.errorsOnly_refl (s : State) : s.errorsOnly s := rfl

theorem State.errorsOnly_trans {s t u : State} (h : s.errorsOnly t) (g : t.errorsOnly u) : s.errorsOnly u := by
  unfold State.errorsOnly at *
  rw [g, h]

/-- Steps that each change errors only do so together. -/
theorem State.errorsOnly_foldl {α : Type} {f : State → α → State} (h : ∀ (s : State) (a : α), s.errorsOnly (f s a)) (l : List α) (s : State) :
    s.errorsOnly (l.foldl f s) := by
  induction l generalizing s with
  | nil => exact s.errorsOnly_refl
  | cons a l ih => exact State.errorsOnly_trans (h s a) (ih _)

theorem State.meet_errors (s : State) (pa n : Nat) : s.errorsOnly (s.meet pa n) := by
  unfold State.meet
  split
  · rfl
  · refine State.errorsOnly_foldl (fun t w => ?_) _ _
    split
    · split <;> rfl
    · rfl

theorem State.meetRange_errors (s : State) (r : Nat × Nat) : s.errorsOnly (s.meetRange r) :=
  State.errorsOnly_foldl (fun t _ => t.meet_errors _ _) _ _

theorem State.meetAll_errors (s : State) (rs : List (Nat × Nat)) : s.errorsOnly (s.meetAll rs) := by
  unfold State.meetAll
  split
  · rfl
  · exact State.errorsOnly_foldl State.meetRange_errors rs s

theorem State.walkMeets_errors (s : State) (root : BitVec 64) (va : Nat) : s.errorsOnly (s.walkMeets root va) := by
  unfold State.walkMeets
  split
  · rfl
  · exact s.meetAll_errors _

theorem State.fetchMeets_errors (s : State) (c x : Nat) : s.errorsOnly (s.fetchMeets c x) := by
  unfold State.fetchMeets
  split
  · split
    · rfl
    · exact s.meetAll_errors _
  · rfl

/-- Where no word holds an error that nothing has read, a read changes nothing. -/
@[simp] theorem State.meet_clean (s : State) (pa n : Nat) (h : s.latent = []) : s.meet pa n = s := by simp [State.meet, h]
@[simp] theorem State.meetAll_clean (s : State) (rs : List (Nat × Nat)) (h : s.latent = []) : s.meetAll rs = s := by
  simp [State.meetAll, h]
@[simp] theorem State.walkMeets_clean (s : State) (root : BitVec 64) (va : Nat) (h : s.latent = []) : s.walkMeets root va = s := by
  simp [State.walkMeets, h]
@[simp] theorem State.fetchMeets_clean (s : State) (c x : Nat) (h : s.latent = []) : s.fetchMeets c x = s := by
  unfold State.fetchMeets
  split
  · split <;> simp [h]
  · rfl

/-- Memory is as it was. -/
@[simp] theorem State.meet_mem (s : State) (pa n : Nat) : (s.meet pa n).mem = s.mem := by rw [s.meet_errors pa n]
@[simp] theorem State.meetAll_mem (s : State) (rs : List (Nat × Nat)) : (s.meetAll rs).mem = s.mem := by rw [s.meetAll_errors rs]
@[simp] theorem State.walkMeets_mem (s : State) (root : BitVec 64) (va : Nat) : (s.walkMeets root va).mem = s.mem := by
  rw [s.walkMeets_errors root va]
@[simp] theorem State.fetchMeets_mem (s : State) (c x : Nat) : (s.fetchMeets c x).mem = s.mem := by rw [s.fetchMeets_errors c x]

/-! Reservations and contributions. -/

/-- A reservation changes the units only (R293). -/
theorem State.reserve_units (s : State) (u : Nat) : s.reserve u = { s with units := (s.reserve u).units } := by
  unfold State.reserve
  dsimp only
  split
  · split <;> rfl
  · rfl

/-- Where no unit has a requester in its queue, nothing is reserved. -/
theorem State.reserveAll_none (s : State) (h : ∀ u ∈ s.units, u.2.order = []) : s.reserveAll = s := by
  unfold State.reserveAll
  generalize s.units = l at h
  induction l with
  | nil => rfl
  | cons u l ih =>
    rw [List.foldl_cons, h u List.mem_cons_self]
    exact ih fun v hv => h v (List.mem_cons_of_mem _ hv)

/-- A context that has made no contribution, or whose round has ended, keeps all it has (R270, R307). -/
theorem State.takeBackGred_done (s : State) (c x : Nat) (h : ∀ w, (s.ctx c x).gred = some w → w.done = true) :
    s.takeBackGred c x = s := by
  unfold State.takeBackGred
  split
  · rfl
  · rename_i w e
    rw [if_pos (h w e)]

/-! Elements of a tile. -/

/-- The elements put in order are the same elements. -/
@[simp] theorem mget_inOrder (l : NMap Elem) (i : Nat) : mget {} (inOrder l) i = mget {} l i := by
  induction l with
  | nil => rfl
  | cons p l ih =>
    obtain ⟨a, e⟩ := p
    have h : inOrder ((a, e) :: l) = if e = {} then mdel a (inOrder l) else mset a e (inOrder l) := rfl
    rw [h]
    by_cases z : e = {}
    · rw [if_pos z, mget_mdel, ih]
      by_cases g : i = a
      · subst g; simp [mget, z]
      · rw [if_neg g]; simp [mget, Ne.symm g]
    · rw [if_neg z, mget_mset, ih]
      by_cases g : i = a
      · subst g; simp [mget]
      · rw [if_neg g]; simp [mget, Ne.symm g]

theorem rising_inOrder (l : NMap Elem) : Rising (inOrder l) := by
  induction l with
  | nil => exact List.Pairwise.nil
  | cons p l ih =>
    obtain ⟨a, e⟩ := p
    have h : inOrder ((a, e) :: l) = if e = {} then mdel a (inOrder l) else mset a e (inOrder l) := rfl
    rw [h]
    split
    · exact rising_mdel a ih
    · exact rising_mset a e ih

end Sys2Proof.Machine
end

