-- ==== Sys2Proof/Laws/Ops.lean ====
section
/-! SUPPORT. What the shared operations can do, each said once: settling, the issue of one slot instruction by a calm context,
its retirement, and stores to memory. -/

namespace Sys2Proof.Machine

/-! Settling. -/

@[simp] theorem Ctx.hasPend_nil (k : Ctx) (r : RegName) (h : k.pend = []) : k.hasPend r = false := by simp [Ctx.hasPend, h]

/-- In a calm context nothing settles. -/
theorem settle_calm (s : State) (c x : Nat) (hp : (s.ctx c x).pend = []) (hl : (s.ctx c x).la.all (fun p => p.2.due.isNone) = true) :
    settle s c x = s.setCtx c x (s.ctx c x) := by
  have hm : ((s.ctx c x).la.map fun p => (p.1, p.2.landDue (s.ctx c x).cyc (s.core c).tick)) = (s.ctx c x).la := by
    rw [List.all_eq_true] at hl
    conv_rhs => rw [← List.map_id (s.ctx c x).la]
    apply List.map_congr_left
    intro p hmem
    have := hl p hmem
    simp only [La.landDue]
    split
    · next e => simp [e] at this
    · rfl
  unfold settle State.modCtx
  simp only [hp, List.filter_nil, List.foldl_nil, hm]
  congr 1
  rw [← hp]

/-! The issue of one slot. -/

/-- What lets a slot's issue go in a context: no trap, no freeze, landing slots full and unmarked, and no two banks in
conflict. -/
structure Goes (m : Sem) (k : Ctx) (n : Nat) : Prop where
  trap0 : m.trap0 = none
  trap : m.trap = none
  late : m.late = none
  wait : m.wait = none
  final : m.final = none
  las : ∀ i ∈ m.las, (k.slot i).st = .full ∧ (k.slot i).arr ≤ k.cyc ∧ (k.slot i).mark = none
  bank : bankConf (m.units.map fun u => (n, u.1, u.2)) [] = none

theorem twoWriters_one (n : Nat) (w : List RegName) : twoWriters [(n, w), (8, [])] = none := by
  unfold twoWriters
  simp only [List.flatMap_cons, List.flatMap_nil, List.filter_nil, List.map_nil, List.append_nil, Option.map_eq_none_iff,
    List.find?_eq_none]
  intro q hq
  simp only [List.mem_map] at hq
  obtain ⟨a, -, rfl⟩ := hq
  simp

theorem verdict_go (k : Ctx) (p : Part) (hon : p.on = true) (hp : k.pend = []) (hm : k.marks = [])
    (ht : k.trapNext = none) (h : Goes p.sem k p.sl.idx) : verdict k [p] [] [] [] = .go := by
  obtain ⟨h0, h1, h2, h3, h4, h5, h6⟩ := h
  have np : ∀ r, k.hasPend r = false := fun r => by simp [Ctx.hasPend, hp]
  have e1 : p.sem.las.any (laEarly k) = false := by
    rw [List.any_eq_false]
    intro i hi
    obtain ⟨a, b, -⟩ := h5 i hi
    simp [laEarly, a]
    omega
  have e2 : (p.sem.las.any fun i => (k.slot i).st == .pending) = false := by
    rw [List.any_eq_false]
    intro i hi
    simp [(h5 i hi).1]
  have ld : ∀ rs, k.landed rs = true := by simp [Ctx.landed, np]
  have tr : p.issueTrap k = none := by simp [Part.issueTrap, h0, e1, h1]
  have fr : p.freeze k = none := by simp [Part.freeze, Sem.waitsReg, ld, e2, h3, Frz.first]
  have mo : ∀ rs, k.markOf rs = none := by simp [Ctx.markOf, hm]
  have lm : (p.sem.las.findSome? fun i => (k.slot i).mark) = none := by
    rw [List.findSome?_eq_none_iff]
    exact fun i hi => (h5 i hi).2.2
  have mk : p.markTrap k = none := by simp [Part.markTrap, lm, mo, h2]
  have bk : bankConf (partUnits [p]) [] = none := by simpa [partUnits] using h6
  unfold verdict
  simp [hon, twoWriters_one, lowerSlot, tr, fr, mk, mo, ld, bk, ht, h4, Frz.first]

/-- The slots of a bundle that holds one instruction: it, and NOPs. -/
theorem slotsAt_single (sl : Slot) (i : Instr) (p : Slot × Instr) (h : p ∈ (Bundle.single sl i).slotsAt 0) :
    p.2 = i ∨ ∃ t, p.2 = .nop t := by
  simp only [Bundle.slotsAt, Bundle.single, List.map_map, List.mem_map, Function.comp_apply, Nat.zero_div, Nat.zero_mod,
    Nat.zero_ne_one, if_false] at h
  obtain ⟨t, -, rfl⟩ := h
  by_cases e : t = sl
  · exact .inl (by simp [e])
  · exact .inr ⟨t, by simp [e]⟩

/-- A NOP is of no feature. -/
theorem featOff_nop (s : State) (c : Nat) (t : Slot) : s.featOff c (.nop t) = false := by
  simp [State.featOff, formTrap, featsOf]

/-- An enabled instruction alone raises no encoding trap. -/
theorem encTrap_single (s : State) (sl : Slot) (i : Instr) (h : s.enabled i = true) :
    encTrap s s.cur.1 (Bundle.single sl i) 0 = none := by
  simp only [State.enabled, Bool.and_eq_true, Bool.not_eq_true'] at h
  obtain ⟨hw, hf⟩ := h
  have hform : formTrap s.form i = none := by
    simp only [State.featOff, Bool.or_eq_false_iff, Option.isSome_eq_false_iff, Option.isNone_iff_eq_none] at hf
    exact hf.1
  have b : (Bundle.single sl i).badSlot 0 = none := by
    simp only [Bundle.badSlot, Option.map_eq_none_iff, List.find?_eq_none]
    intro p hp
    have st : (Bundle.single sl i).step = 0 := rfl
    have rp : (Bundle.single sl i).rep = 0 := rfl
    rcases slotsAt_single sl i p hp with e | ⟨t, e⟩
    · simp [e, st, rp, hw]
    · simp [e, st, rp, Instr.wf]
  have f1 : ((Bundle.single sl i).slotsAt 0).find? (fun p => formTrap s.form p.2 == some 1) = none := by
    rw [List.find?_eq_none]
    intro p hp
    rcases slotsAt_single sl i p hp with e | ⟨t, e⟩
    · simp [e, hform]
    · simp [e, formTrap]
  have f2 : ((Bundle.single sl i).slotsAt 0).find? (fun p => s.featOff s.cur.1 p.2) = none := by
    rw [List.find?_eq_none]
    intro p hp
    rcases slotsAt_single sl i p hp with e | ⟨t, e⟩
    · simp [e, hf]
    · simp [e, featOff_nop]
  simp [encTrap, illSlot, b, f1, f2]

/-- A calm context: the parts of the conjunction. -/
theorem Ctx.calm_iff (k : Ctx) : k.calm = true ↔
    k.pend = [] ∧ k.marks = [] ∧ k.trapNext = none ∧ k.target = none ∧ k.leaveTrap = false ∧ k.restart = false
      ∧ k.rep = 0 ∧ k.loopActs = false ∧ (k.la.all fun p => p.2.due.isNone) = true := by
  simp only [Ctx.calm, Bool.and_eq_true, List.isEmpty_iff, Option.isNone_iff_eq_none, Bool.not_eq_true', beq_iff_eq]
  tauto

/-- The retirement of one slot: its landing slots are freed, its effect takes place, a local access enters the crossing, and the
context advances. -/
def retireOne (s : State) (c x : Nat) (m : Sem) : State :=
  ((m.eff (s.modCtx c x fun k => { k with la := m.frees.foldl (fun a i => mdel i a) k.la })).cross c
    (if m.near then 1 else 0)).modCtx c x fun k => k.advance 0

theorem retire_single (s : State) (c x : Nat) (sl : Slot) (i : Instr) (p : Part) :
    retire s c x (Bundle.single sl i) [p] = retireOne s c x p.sem := by
  cases h : p.sem.near <;> simp [retire, retireOne, Bundle.single, h]

/-- A slot instruction alone in a calm context whose slot may go retires: the equation that the statements about single
instructions rest on. The context has settled, which leaves it as it was. -/
theorem issueOne_go (sl : Slot) (i : Instr) (g : BitVec 4) (sem : State → Nat → Nat → Sem) (s : State)
    (h : s.runs i sl g)
    (hg : Goes (sem (s.setCtx s.cur.1 s.cur.2 s.here) s.cur.1 s.cur.2) s.here sl.idx)
    (hf : ((retireOne (s.setCtx s.cur.1 s.cur.2 s.here) s.cur.1 s.cur.2
      (sem (s.setCtx s.cur.1 s.cur.2 s.here) s.cur.1 s.cur.2)).core s.cur.1).fifo = []
      ∨ s.paused s.cur.1 = false) :
    issueOne sl i g sem s = .next (retireOne (s.setCtx s.cur.1 s.cur.2 s.here) s.cur.1 s.cur.2
      (sem (s.setCtx s.cur.1 s.cur.2 s.here) s.cur.1 s.cur.2)) := by
  obtain ⟨hc, he, hon⟩ := h
  simp only [State.calm, Bool.and_eq_true, Option.isNone_iff_eq_none, List.isEmpty_iff, decide_eq_true_eq] at hc
  obtain ⟨⟨⟨⟨⟨hk, -⟩, -⟩, hq⟩, hff⟩, hfe⟩ := hc
  obtain ⟨hp, hm, htn, -, -, -, hr, -, hl⟩ := (Ctx.calm_iff _).1 hk
  set c := s.cur.1 with hcdef
  set x := s.cur.2 with hxdef
  have hst : settle s c x = s.setCtx c x s.here := settle_calm s c x hp hl
  have hctx : (s.setCtx c x s.here).ctx c x = s.here := State.ctx_setCtx_same ..
  have henc : encTrap (s.setCtx c x s.here) c (Bundle.single sl i) ((s.setCtx c x s.here).ctx c x).rep = none := by
    rw [hctx, hr]; exact encTrap_single (s.setCtx c x s.here) sl i he
  have hsq : seqUses (s.setCtx c x s.here) c x = [] := by
    simp [seqUses, hq]
  have hon' : (part (s.setCtx c x s.here) c x sl g sem).on = true := by
    simp only [part, hctx]; exact hon
  have hat : attempt (s.setCtx c x s.here) c x (Bundle.single sl i) [part (s.setCtx c x s.here) c x sl g sem]
      (seqUses (s.setCtx c x s.here) c x)
      = retireOne (s.setCtx c x s.here) c x (sem (s.setCtx c x s.here) c x) := by
    have hv := verdict_go s.here (part (s.setCtx c x s.here) c x sl g sem) hon' hp hm htn hg
    have np : ∀ r, s.here.hasPend r = false := fun r => by simp [Ctx.hasPend, hp]
    have pw : plogWrites (Bundle.single sl i) = [] := rfl
    have pr : plogReads (Bundle.single sl i) = [] := rfl
    simp only [attempt, hctx, hsq, pw, pr, hv, np, List.any_cons, List.any_nil, Bool.and_false, Bool.or_false, hon',
      List.isEmpty_cons, Bool.not_false, Bool.true_and, List.all_cons, Bool.not_true, Bool.false_and, List.filter_cons,
      List.filter_nil, if_true, Bool.false_eq_true, if_false]
    rw [retire_single]; rfl
  have hnf : (s.setCtx c x s.here).fenced c x = false := by simpa [State.fenced, State.setCtx] using hfe
  unfold issueOne issueBundle
  simp only [← hcdef, ← hxdef, hst, hnf, henc, hat, Bool.false_eq_true, if_false]
  split
  · next hlt =>
    rcases hf with hf | hf
    · simp [hf] at hlt
    · have : (s.setCtx c x s.here).beatStop c = none := by
        have e1 : (s.setCtx c x s.here).paused c = s.paused c := rfl
        simp [State.beatStop, e1, hf, hff]
      simp [this]
  · rfl

/-! Where a context goes on. -/

/-- The fields of a context on which its advance rests. -/
def Ctx.sameWay (k k1 : Ctx) : Prop :=
  k1.pc = k.pc ∧ k1.rep = k.rep ∧ k1.cyc = k.cyc ∧ k1.loopCnt = k.loopCnt ∧ k1.loopEnd = k.loopEnd ∧ k1.trapm = k.trapm
    ∧ k1.target = k.target ∧ k1.leaveTrap = k.leaveTrap

/-- A calm context that nothing has turned aside goes on at the next bundle. -/
theorem advance_calm (k k1 : Ctx) (h : k.calm = true) (w : k.sameWay k1) :
    k1.advance 0 =
      { k1 with cyc := k1.cyc + 1, target := none, leaveTrap := false, wait := [], xl := [], frozen := none, issued := true
                syncRun := 0, slackWait := k1.slackWait && k1.syncRun == 0, pc := k1.pc + 64, rep := 0 } := by
  obtain ⟨-, -, -, ht, hl, -, hr, hlo, -⟩ := (Ctx.calm_iff _).1 h
  obtain ⟨w1, w2, w3, w4, w5, w6, w7, w8⟩ := w
  have hnl : ∀ k2 : Ctx, k2.pc = k1.pc → k2.loopCnt = k1.loopCnt → k2.loopEnd = k1.loopEnd → k2.trapm = k1.trapm →
      k2.loopActs = false := by
    intro k2 a b c d
    simpa [Ctx.loopActs, a, b, c, d, w1, w4, w5, w6] using hlo
  unfold Ctx.advance
  simp only [w7, w8, ht, hl, w2, hr, Bool.false_eq_true, if_false, Nat.lt_irrefl]
  unfold Ctx.groupEnd
  rw [if_neg fun hh => Bool.false_ne_true ((hnl _ (by rfl) (by rfl) (by rfl) (by rfl)).symm.trans hh)]

/-- A destination that its register file has. -/
def Dst.ok : Dst → Prop
  | .s r => r < 64
  | .v r => r < 2048
  | .k r => r < 16

/-- A value as wide as its destination. -/
def Dst.fits (d : Dst) (v : BitVec 2048) : Prop :=
  match d with
  | .v _ => True
  | _ => (v.setWidth 64).setWidth 2048 = v

@[simp] theorem Ctx.put_pend (k : Ctx) (d : Dst) (v : BitVec 2048) (m : Option Mark) : (k.put d v m).pend = k.pend := by
  cases d <;> simp only [Ctx.put, Ctx.ws, Ctx.wk, Ctx.wv] <;> (try split) <;> rfl

/-- Every register after a result has been written at once. -/
theorem reg_put (k : Ctx) (d : Dst) (v : BitVec 2048) (m : Option Mark) (hd : d.ok) (hv : d.fits v) (e : Dst) :
    (k.put d v m).reg e = if e = d ∧ d.fixed = false then v else k.reg e := by
  cases d with
  | s r =>
    have hr : (BitVec.ofNat 6 r).toNat = r := by simp only [Dst.ok] at hd; simp; omega
    have hz : BitVec.ofNat 6 r = 0 ↔ r = 0 := ⟨fun z => by have := congrArg BitVec.toNat z; simpa [hr] using this, by rintro rfl; rfl⟩
    have es : (k.put (.s r) v m).s = if r = 0 then k.s else mset r (v.setWidth 64) k.s := by
      simp only [Ctx.put, Ctx.ws, hz, hr]; split <;> rfl
    have ev : (k.put (.s r) v m).v = k.v := by simp only [Ctx.put, Ctx.ws]; split <;> rfl
    have ek : (k.put (.s r) v m).k = k.k := by simp only [Ctx.put, Ctx.ws]; split <;> rfl
    cases e with
    | s q =>
      simp only [Ctx.reg, es, Dst.s.injEq, Dst.fixed, beq_eq_false_iff_ne]
      by_cases h0 : r = 0
      · simp [h0]
      · by_cases hq : q = r
        · subst hq; simpa [h0, Dst.fits] using hv
        · simp [h0, hq, mget_mset_ne _ _ _ hq]
    | v q => simp [Ctx.reg, ev]
    | k q => simp [Ctx.reg, ek]
  | v r =>
    have hr : (BitVec.ofNat 11 r).toNat = r := by simp only [Dst.ok] at hd; simp; omega
    have es : (k.put (.v r) v m).s = k.s := rfl
    have ev : (k.put (.v r) v m).v = mset r v k.v := by simp only [Ctx.put, Ctx.wv, hr]
    have ek : (k.put (.v r) v m).k = k.k := rfl
    cases e with
    | s q => simp [Ctx.reg, es]
    | v q =>
      simp only [Ctx.reg, ev, Dst.v.injEq, Dst.fixed, and_true]
      by_cases hq : q = r
      · subst hq; simp
      · simp [hq, mget_mset_ne _ _ _ hq]
    | k q => simp [Ctx.reg, ek]
  | k r =>
    have hr : (BitVec.ofNat 4 r).toNat = r := by simp only [Dst.ok] at hd; simp; omega
    have hz : BitVec.ofNat 4 r = 0 ↔ r = 0 := ⟨fun z => by have := congrArg BitVec.toNat z; simpa [hr] using this, by rintro rfl; rfl⟩
    have es : (k.put (.k r) v m).s = k.s := by simp only [Ctx.put, Ctx.wk]; split <;> rfl
    have ev : (k.put (.k r) v m).v = k.v := by simp only [Ctx.put, Ctx.wk]; split <;> rfl
    have ek : (k.put (.k r) v m).k = if r = 0 then k.k else mset r (v.setWidth 64) k.k := by
      simp only [Ctx.put, Ctx.wk, hz, hr]; split <;> rfl
    cases e with
    | s q => simp [Ctx.reg, es]
    | v q => simp [Ctx.reg, ev]
    | k q =>
      simp only [Ctx.reg, ek, Dst.k.injEq, Dst.fixed, beq_eq_false_iff_ne]
      by_cases h0 : r = 0
      · simp [h0]
      · by_cases hq : q = r
        · subst hq; simpa [h0, Dst.fits] using hv
        · simp [h0, hq, mget_mset_ne _ _ _ hq]

/-- What a context without pending results holds. -/
theorem hold_nil (k : Ctx) (hp : k.pend = []) (d : Dst) : k.hold d = k.reg d := by
  unfold Ctx.hold; rw [hp]; simp

/-- What a context without pending results holds after a result has been written or made pending. -/
theorem hold_result (k : Ctx) (d : Dst) (v : BitVec 2048) (lat cy ti : Nat) (hp : k.pend = []) (hd : d.ok) (hv : d.fits v) (e : Dst) :
    (if lat ≤ 1 then k.put d v none else k.pending d v (.cycle cy ti) none).hold e
      = if e = d ∧ d.fixed = false then v else k.hold e := by
  split
  · rw [hold_nil _ (by simpa using hp), hold_nil _ hp, reg_put _ _ _ _ hd hv]
  · rw [hold_nil _ hp]
    unfold Ctx.hold Ctx.pending
    simp only [hp, List.nil_append]
    by_cases hf : e.fixed
    · have h : ¬(e = d ∧ d.fixed = false) := by rintro ⟨rfl, h⟩; simp [hf] at h
      simp only [hf, if_true, h, if_false]
      cases e <;> rfl
    · by_cases h : e = d
      · subst h; simp [hf, List.find?_cons]
      · have hb : (d == e) = false := by simpa using fun g => h g.symm
        simp only [hf, List.find?_cons, hb, List.find?_nil, h, false_and, if_false]
        cases e <;> rfl

/-- The state in which the effect of a slot that goes takes place: its context has settled and its landing slots are freed. -/
def State.entered (s : State) (m : Sem) : State :=
  (s.setCtx s.cur.1 s.cur.2 s.here).modCtx s.cur.1 s.cur.2 fun k => k.freed m.frees

@[simp] theorem State.entered_here (s : State) (m : Sem) : (s.entered m).ctx s.cur.1 s.cur.2 = s.here.freed m.frees := by
  simp [State.entered]

@[simp] theorem State.entered_core (s : State) (m : Sem) (c : Nat) : (s.entered m).core c = s.core c := rfl
@[simp] theorem State.entered_now (s : State) (m : Sem) : (s.entered m).now = s.now := rfl
@[simp] theorem State.entered_net (s : State) (m : Sem) : (s.entered m).net = s.net := rfl
@[simp] theorem State.entered_mem (s : State) (m : Sem) : (s.entered m).mem = s.mem := rfl
@[simp] theorem State.entered_pkg (s : State) (m : Sem) : (s.entered m).pkg = s.pkg := rfl
@[simp] theorem State.entered_nextId (s : State) (m : Sem) : (s.entered m).nextId = s.nextId := rfl

/-- What crossing into the vault die leaves as it was. -/
@[simp] theorem State.cross_zero (s : State) (c : Nat) : s.cross c 0 = s := rfl
@[simp] theorem State.cross_ctx (s : State) (c n d y : Nat) : (s.cross c n).ctx d y = s.ctx d y := by
  unfold State.cross; split <;> rfl
@[simp] theorem State.cross_cur (s : State) (c n : Nat) : (s.cross c n).cur = s.cur := by unfold State.cross; split <;> rfl
@[simp] theorem State.cross_fifo (s : State) (c n d : Nat) : ((s.cross c n).core d).fifo = (s.core d).fifo := by
  unfold State.cross
  split
  · rfl
  · by_cases h : d = c
    · subst h; simp
    · rw [State.core_modCore_ne _ _ _ _ h]

/-- The state after the effect of a slot that goes, before the context's advance. -/
def State.acted (s : State) (m : Sem) : State := (m.eff (s.entered m)).cross s.cur.1 (if m.near then 1 else 0)

theorem State.acted_far (s : State) (m : Sem) (h : m.near = false) : s.acted m = m.eff (s.entered m) := by
  simp [State.acted, h]

/-- What a slot's effect has to show for its issue to do what an effect says, the context not turned aside. -/
structure Shows (s t : State) (k : Ctx) (e : Effect) : Prop where
  ctx : t.ctx s.cur.1 s.cur.2 = k
  cur : t.cur = s.cur
  way : s.here.sameWay k
  regs : ∀ p ∈ e.regs, k.hold p.1 = (if p.1.fixed then s.here.hold p.1 else p.2) ∧ s.here.lands k p.1 p.2 e.lat
  awaits : ∀ p ∈ e.awaits, ∃ q ∈ k.pend, q.dst = p.1 ∧ q.due = .reply p.2
  frame : ∀ d, d ∉ e.regs.map Prod.fst → d ∉ e.awaits.map Prod.fst → k.hold d = s.here.hold d
  rest : (e.rest s.here).restSame k
  others : ∀ c x, x < 2 → (c, x) ≠ s.cur → t.ctx c x = s.ctx c x
  mach : machineSame (e.mach s) t
  pc : e.pc = none

/-- A slot instruction alone, in a calm context whose slot may go, does what its effect shows. -/
theorem does_of_shows (sl : Slot) (i : Instr) (g : BitVec 4) (sem : State → Nat → Nat → Sem) (s : State) (e : Effect) (k : Ctx)
    (m : Sem) (hm : sem (s.setCtx s.cur.1 s.cur.2 s.here) s.cur.1 s.cur.2 = m)
    (h : s.runs i sl g) (hg : Goes m s.here sl.idx)
    (hf : ((s.acted m).core s.cur.1).fifo = [] ∨ s.paused s.cur.1 = false)
    (w : Shows s (s.acted m) k e) : Does s (issueOne sl i g sem s) e := by
  subst hm
  have hc := h.1
  simp only [State.calm, Bool.and_eq_true, Option.isNone_iff_eq_none, List.isEmpty_iff, decide_eq_true_eq] at hc
  obtain ⟨⟨⟨⟨⟨hk, -⟩, hx⟩, -⟩, -⟩, -⟩ := hc
  refine ⟨_, issueOne_go sl i g sem s h hg ?_, ?_⟩
  · simpa [retireOne, State.acted, State.entered, Ctx.freed] using hf
  · obtain ⟨w1, wc, w2, w3, w9, w4, w5, w6, w7, w8⟩ := w
    set m := sem (s.setCtx s.cur.1 s.cur.2 s.here) s.cur.1 s.cur.2 with hm
    have he : retireOne (s.setCtx s.cur.1 s.cur.2 s.here) s.cur.1 s.cur.2 m
        = (s.acted m).modCtx s.cur.1 s.cur.2 fun k => k.advance 0 := rfl
    have hh : (retireOne (s.setCtx s.cur.1 s.cur.2 s.here) s.cur.1 s.cur.2 m).here = k.advance 0 := by
      rw [he]
      show State.ctx _ ((s.acted m).cur).1 ((s.acted m).cur).2 = _
      rw [wc, State.ctx_modCtx_same, w1]
    have hadv := advance_calm s.here k hk w2
    have hsame : ∀ e, (k.advance 0).hold e = k.hold e := by intro e; rw [hadv]; unfold Ctx.hold; cases e <;> rfl
    have hl : ∀ d v n, s.here.lands k d v n → s.here.lands (k.advance 0) d v n := by
      intro d v n hl
      rw [hadv]
      rcases hl with hl | hl
      · exact .inl hl
      · right
        split at hl
        · next h1 => rw [if_pos h1, ← hl]; cases d <;> rfl
        · next h1 => rw [if_neg h1]; exact hl
    have hcalm := (Ctx.calm_iff _).1 hk
    refine ⟨?_, ?_, ?_, ?_, ?_, ?_, ?_⟩
    · intro p hp; rw [hh, hsame]; exact ⟨(w3 p hp).1, hl _ _ _ (w3 p hp).2⟩
    · rw [hh, hadv]; exact w9
    · intro d hd hd'; rw [hh, hsame]; exact w4 d hd hd'
    · rw [hh, hadv]
      have ht : k.target = none := by rw [w2.2.2.2.2.2.2.1]; exact hcalm.2.2.2.1
      have hl : k.leaveTrap = false := by rw [w2.2.2.2.2.2.2.2]; exact hcalm.2.2.2.2.1
      unfold Ctx.restSame at w5 ⊢
      rw [← w5]
      simp [ht, hl]
    · intro c x hx' hne
      have hk' : 2 * c + x ≠ 2 * s.cur.1 + s.cur.2 := by
        intro e'
        apply hne
        have h1 : c = s.cur.1 := by omega
        have h2 : x = s.cur.2 := by omega
        rw [h1, h2]
      rw [he, State.ctx_modCtx_ne _ _ _ _ _ _ hk']
      exact w6 c x hx' hne
    · rw [he]; exact w7
    · rw [hh, hadv, w8]
      exact ⟨by simp [w2.1], rfl, by simp [w2.2.2.1], rfl, rfl⟩

/-- The rest of a context after a result. -/
theorem restSame_result (k : Ctx) (d : Dst) (v : BitVec 2048) (lat cy ti : Nat) (hm : k.marks = []) :
    k.restSame (if lat ≤ 1 then k.put d v none else k.pending d v (.cycle cy ti) none) := by
  unfold Ctx.restSame
  split
  · cases d <;> simp only [Ctx.put, Ctx.ws, Ctx.wk, Ctx.wv] <;> (try split) <;> simp [hm, mdel] <;> cases k <;> simp_all
  · rfl

theorem sameWay_result (k : Ctx) (d : Dst) (v : BitVec 2048) (lat cy ti : Nat) :
    k.sameWay (if lat ≤ 1 then k.put d v none else k.pending d v (.cycle cy ti) none) := by
  split
  · cases d <;> simp only [Ctx.put, Ctx.ws, Ctx.wk, Ctx.wv] <;> (try split) <;> exact ⟨rfl, rfl, rfl, rfl, rfl, rfl, rfl, rfl⟩
  · exact ⟨rfl, rfl, rfl, rfl, rfl, rfl, rfl, rfl⟩

/-- A slot instruction whose effect is one change of its own context. -/
theorem does_ctx (sl : Slot) (i : Instr) (g : BitVec 4) (sem : State → Nat → Nat → Sem) (s : State) (e : Effect) (F : Ctx → Ctx)
    (m : Sem) (hm : sem (s.setCtx s.cur.1 s.cur.2 s.here) s.cur.1 s.cur.2 = m)
    (h : s.runs i sl g) (hg : Goes m s.here sl.idx) (hn : m.near = false)
    (he : m.eff (s.entered m) = (s.entered m).modCtx s.cur.1 s.cur.2 F)
    (way : s.here.sameWay (F (s.here.freed m.frees)))
    (regs : ∀ p ∈ e.regs, (F (s.here.freed m.frees)).hold p.1 = (if p.1.fixed then s.here.hold p.1 else p.2)
      ∧ s.here.lands (F (s.here.freed m.frees)) p.1 p.2 e.lat)
    (frame : ∀ d, d ∉ e.regs.map Prod.fst → (F (s.here.freed m.frees)).hold d = s.here.hold d)
    (aw : e.awaits = []) (rest : (e.rest s.here).restSame (F (s.here.freed m.frees)))
    (mach : e.mach s = s) (pc : e.pc = none) : Does s (issueOne sl i g sem s) e := by
  have hc := h.1
  simp only [State.calm, Bool.and_eq_true, Option.isNone_iff_eq_none, List.isEmpty_iff, decide_eq_true_eq] at hc
  obtain ⟨⟨⟨⟨⟨-, -⟩, hx⟩, -⟩, hff⟩, -⟩ := hc
  refine does_of_shows sl i g sem s e (F (s.here.freed m.frees)) m hm h hg (.inl ?_)
    ⟨?_, ?_, way, regs, by simp [aw], fun d hd _ => frame d hd, rest, ?_, ?_, pc⟩
  · rw [State.acted_far s m hn, he]; simpa [State.entered] using hff
  · rw [State.acted_far s m hn, he, State.ctx_modCtx_same, State.entered_here]
  · rw [State.acted_far s m hn, he]; rfl
  · intro c x hx' hne
    have hk' : 2 * c + x ≠ 2 * s.cur.1 + s.cur.2 := by
      intro e'
      apply hne
      have h1 : c = s.cur.1 := by omega
      have h2 : x = s.cur.2 := by omega
      rw [h1, h2]
    rw [State.acted_far s m hn, he, State.ctx_modCtx_ne _ _ _ _ _ _ hk', State.entered, State.ctx_modCtx_ne _ _ _ _ _ _ hk',
      State.ctx_setCtx_ne _ _ _ _ _ _ hk']
  · rw [State.acted_far s m hn, he, mach]; rfl

/-- A slot instruction whose only effect is one result. -/
theorem does_result (sl : Slot) (i : Instr) (g : BitVec 4) (sem : State → Nat → Nat → Sem) (s : State) (m : Sem)
    (d : Dst) (v : BitVec 2048) (lat : Nat) (f : BitVec 5)
    (hm : sem (s.setCtx s.cur.1 s.cur.2 s.here) s.cur.1 s.cur.2 = m)
    (h : s.runs i sl g) (hg : Goes m s.here sl.idx) (hn : m.near = false)
    (he : m.eff (s.entered m) = ((s.entered m).result s.cur.1 s.cur.2 d v lat).setFlags s.cur.1 s.cur.2 f)
    (hd : d.ok) (hv : d.fits v) :
    Does s (issueOne sl i g sem s) { regs := [(d, v)], lat := lat, rest := fun k => (k.freed m.frees).flagged f } := by
  have hc := h.1
  simp only [State.calm, Bool.and_eq_true, Option.isNone_iff_eq_none, List.isEmpty_iff, decide_eq_true_eq] at hc
  obtain ⟨⟨⟨⟨⟨hk, -⟩, -⟩, -⟩, -⟩, -⟩ := hc
  obtain ⟨hp, hmk, -⟩ := (Ctx.calm_iff _).1 hk
  set n := ((s.entered m).core s.cur.1).tick with hnt
  have hh : ∀ e, ((if lat ≤ 1 then (s.here.freed m.frees).put d v none
        else (s.here.freed m.frees).pending d v (.cycle ((s.here.freed m.frees).cyc + lat) (n + lat)) none).flagged f).hold e
      = if e = d ∧ d.fixed = false then v else s.here.hold e := by
    intro e
    have := hold_result (s.here.freed m.frees) d v lat ((s.here.freed m.frees).cyc + lat) (n + lat) (by simpa [Ctx.freed] using hp)
      hd hv e
    have h2 : (s.here.freed m.frees).hold e = s.here.hold e := by unfold Ctx.hold; cases e <;> rfl
    rw [h2] at this
    rw [← this]
    unfold Ctx.hold; cases e <;> rfl
  refine does_ctx sl i g sem s _ (fun k => (if lat ≤ 1 then k.put d v none
        else k.pending d v (.cycle (k.cyc + lat) (n + lat)) none).flagged f) m hm h hg hn ?_ ?_ ?_ ?_ rfl ?_ rfl rfl
  · rw [he, State.setFlags, State.result, State.modCtx_modCtx]; rfl
  · exact sameWay_result (s.here.freed m.frees) d v lat _ _
  · intro p hp'
    simp only [List.mem_singleton] at hp'
    subst hp'
    refine ⟨?_, ?_⟩
    · rw [hh]
      cases hfx : d.fixed <;> simp
    · rw [Ctx.lands, or_iff_not_imp_left]
      intro hfx
      have hfx' : d.fixed = false := by simpa using hfx
      split
      · next h1 =>
        have := reg_put (s.here.freed m.frees) d v none hd hv d
        simp only [hfx', and_self, if_true] at this
        refine Eq.trans ?_ this
        have h1 : lat ≤ 1 := h1
        simp only [h1, if_true]
        cases d <;> rfl
      · next h1 =>
        have h1 : ¬lat ≤ 1 := h1
        refine ⟨⟨d, v, .cycle (s.here.cyc + lat) (n + lat), none⟩, ?_, rfl, rfl, rfl, _, rfl⟩
        simp [Ctx.flagged, Ctx.pending, Ctx.freed, h1]
  · intro e he'
    have : e ≠ d := by simpa using he'
    rw [hh]; simp [this]
  · have := restSame_result (s.here.freed m.frees) d v lat ((s.here.freed m.frees).cyc + lat) (n + lat) (by simpa [Ctx.freed] using hmk)
    unfold Ctx.restSame at this ⊢
    show _ = (s.here.freed m.frees).flagged f
    conv_rhs => rw [← this]
    simp only [Ctx.flagged, Ctx.freed]

/-- A slot instruction alone does what the context that its effect leaves has to show after its advance. -/
theorem does_of_advance (sl : Slot) (i : Instr) (g : BitVec 4) (sem : State → Nat → Nat → Sem) (s : State) (e : Effect) (k : Ctx)
    (m : Sem) (hm : sem (s.setCtx s.cur.1 s.cur.2 s.here) s.cur.1 s.cur.2 = m)
    (h : s.runs i sl g) (hg : Goes m s.here sl.idx)
    (hf : ((s.acted m).core s.cur.1).fifo = [] ∨ s.paused s.cur.1 = false)
    (ctx : (s.acted m).ctx s.cur.1 s.cur.2 = k) (cur : (s.acted m).cur = s.cur)
    (regs : ∀ p ∈ e.regs, (k.advance 0).hold p.1 = (if p.1.fixed then s.here.hold p.1 else p.2)
      ∧ s.here.lands (k.advance 0) p.1 p.2 e.lat)
    (aw : ∀ p ∈ e.awaits, ∃ q ∈ (k.advance 0).pend, q.dst = p.1 ∧ q.due = .reply p.2)
    (frame : ∀ d, d ∉ e.regs.map Prod.fst → d ∉ e.awaits.map Prod.fst → (k.advance 0).hold d = s.here.hold d)
    (rest : (e.rest s.here).restSame (k.advance 0))
    (others : ∀ c x, x < 2 → (c, x) ≠ s.cur → (s.acted m).ctx c x = s.ctx c x)
    (mach : machineSame (e.mach s) (s.acted m))
    (pc : (k.advance 0).pc = e.pc.getD (s.here.pc + 64)) (rep : (k.advance 0).rep = 0)
    (cyc : (k.advance 0).cyc = s.here.cyc + 1) (wt : (k.advance 0).wait = [])
    (xl : (k.advance 0).xl = []) : Does s (issueOne sl i g sem s) e := by
  subst hm
  have hc := h.1
  simp only [State.calm, Bool.and_eq_true, Option.isNone_iff_eq_none, List.isEmpty_iff, decide_eq_true_eq] at hc
  obtain ⟨⟨⟨⟨⟨-, -⟩, hx⟩, -⟩, -⟩, -⟩ := hc
  refine ⟨_, issueOne_go sl i g sem s h hg ?_, ?_⟩
  · simpa [retireOne, State.acted, State.entered, Ctx.freed] using hf
  · set m := sem (s.setCtx s.cur.1 s.cur.2 s.here) s.cur.1 s.cur.2 with hm
    have he : retireOne (s.setCtx s.cur.1 s.cur.2 s.here) s.cur.1 s.cur.2 m
        = (s.acted m).modCtx s.cur.1 s.cur.2 fun k => k.advance 0 := rfl
    have hh : (retireOne (s.setCtx s.cur.1 s.cur.2 s.here) s.cur.1 s.cur.2 m).here = k.advance 0 := by
      rw [he]
      show State.ctx _ ((s.acted m).cur).1 ((s.acted m).cur).2 = _
      rw [cur, State.ctx_modCtx_same, ctx]
    refine ⟨?_, ?_, ?_, ?_, ?_, ?_, ?_⟩
    · rw [hh]; exact regs
    · rw [hh]; exact aw
    · rw [hh]; exact frame
    · rw [hh]; exact rest
    · intro c x hx' hne
      have hk' : 2 * c + x ≠ 2 * s.cur.1 + s.cur.2 := by
        intro e'
        apply hne
        have h1 : c = s.cur.1 := by omega
        have h2 : x = s.cur.2 := by omega
        rw [h1, h2]
      rw [he, State.ctx_modCtx_ne _ _ _ _ _ _ hk']
      exact others c x hx' hne
    · rw [he]; exact mach
    · rw [hh]; exact ⟨pc, rep, cyc, wt, xl⟩

/-- A context with a branch taken goes to its target and spends a cycle (R68). -/
theorem advance_jump (k : Ctx) (a : BitVec 64) (hl : k.leaveTrap = false) (ht : k.target = some a) :
    k.advance 0 =
      { k with
        cyc := k.cyc + 1, target := none, leaveTrap := false, wait := [], xl := [], frozen := none, issued := true
        syncRun := 0, slackWait := k.slackWait && k.syncRun == 0, pc := (a >>> 6) <<< 6, rep := 0, bubble := 1 } := by
  simp [Ctx.advance, hl, ht]

/-- A branch taken to a target. -/
def Ctx.aim (k : Ctx) (a : BitVec 64) : Ctx := { k with target := some a }

/-- A slot instruction whose effect is one change of its own context with a branch to a target. -/
theorem does_jump (sl : Slot) (i : Instr) (g : BitVec 4) (sem : State → Nat → Nat → Sem) (s : State) (e : Effect) (F : Ctx → Ctx)
    (m : Sem) (a : BitVec 64) (hm : sem (s.setCtx s.cur.1 s.cur.2 s.here) s.cur.1 s.cur.2 = m)
    (h : s.runs i sl g) (hg : Goes m s.here sl.idx) (hn : m.near = false) (hfr : m.frees = [])
    (he : m.eff (s.entered m) = (s.entered m).modCtx s.cur.1 s.cur.2 fun k => (F k).aim a)
    (ltr : (F s.here).leaveTrap = s.here.leaveTrap) (hcyc : (F s.here).cyc = s.here.cyc)
    (regs : ∀ p ∈ e.regs, (F s.here).hold p.1 = (if p.1.fixed then s.here.hold p.1 else p.2)
      ∧ s.here.lands (F s.here) p.1 p.2 e.lat)
    (frame : ∀ d, d ∉ e.regs.map Prod.fst → (F s.here).hold d = s.here.hold d)
    (aw : e.awaits = []) (rest : (e.rest s.here).restSame { F s.here with target := none, bubble := 1 })
    (mach : e.mach s = s) (pc : e.pc = some ((a >>> 6) <<< 6)) : Does s (issueOne sl i g sem s) e := by
  have hc := h.1
  simp only [State.calm, Bool.and_eq_true, Option.isNone_iff_eq_none, List.isEmpty_iff, decide_eq_true_eq] at hc
  obtain ⟨⟨⟨⟨⟨hk, -⟩, hx⟩, -⟩, hff⟩, -⟩ := hc
  obtain ⟨-, -, -, -, hl, -⟩ := (Ctx.calm_iff _).1 hk
  have hfd : s.here.freed m.frees = s.here := by rw [hfr]; rfl
  have hadv := advance_jump ((F s.here).aim a) a (by rw [← hl, ← ltr]; rfl) rfl
  have hsame : ∀ e, (((F s.here).aim a).advance 0).hold e = (F s.here).hold e := by
    intro e; rw [hadv]; unfold Ctx.hold; cases e <;> rfl
  have hld : ∀ d v n, s.here.lands (F s.here) d v n → s.here.lands (((F s.here).aim a).advance 0) d v n := by
    intro d v n hl
    rw [hadv]
    rcases hl with hl | hl
    · exact .inl hl
    · right
      split at hl
      · next h1 => rw [if_pos h1, ← hl]; cases d <;> rfl
      · next h1 => rw [if_neg h1]; exact hl
  refine does_of_advance sl i g sem s e ((F s.here).aim a) m hm h hg (.inl ?_) ?_ ?_ ?_ (by simp [aw]) ?_ ?_ ?_ ?_ ?_ ?_ ?_ ?_ ?_
  · rw [State.acted_far s m hn, he]; simpa [State.entered] using hff
  · rw [State.acted_far s m hn, he, State.ctx_modCtx_same, State.entered_here, hfd]
  · rw [State.acted_far s m hn, he]; rfl
  · intro p hp; rw [hsame]; exact ⟨(regs p hp).1, hld _ _ _ (regs p hp).2⟩
  · intro d hd _; rw [hsame]; exact frame d hd
  · rw [hadv]
    unfold Ctx.restSame at rest ⊢
    conv_rhs => rw [← rest]
    have hl' : (F s.here).leaveTrap = false := by rw [ltr, hl]
    simp [Ctx.aim, hl']
  · intro c x hx' hne
    have hk' : 2 * c + x ≠ 2 * s.cur.1 + s.cur.2 := by
      intro e'
      apply hne
      have h1 : c = s.cur.1 := by omega
      have h2 : x = s.cur.2 := by omega
      rw [h1, h2]
    rw [State.acted_far s m hn, he, State.ctx_modCtx_ne _ _ _ _ _ _ hk', State.entered, State.ctx_modCtx_ne _ _ _ _ _ _ hk',
      State.ctx_setCtx_ne _ _ _ _ _ _ hk']
  · rw [State.acted_far s m hn, he, mach]; rfl
  · rw [hadv, pc]; rfl
  · rw [hadv]
  · rw [hadv]; simp [hcyc, Ctx.aim]
  · rw [hadv]
  · rw [hadv]

/-- Setting no flag after a result changes nothing. -/
theorem result_setFlags_zero (s : State) (c x : Nat) (d : Dst) (v : BitVec 2048) (lat : Nat) :
    (s.result c x d v lat).setFlags c x 0 = s.result c x d v lat := by
  have h : ∀ k : Ctx, { k with stat := k.stat ||| 0 } = k := fun k => by cases k; simp
  simp only [State.result, State.setFlags, State.modCtx_modCtx, h]

/-- Two effects that agree on the context in turn and on the machine. -/
theorem Does.congr {s : State} {r : Host.Outcome State Fault Refusal} {e e' : Effect} (h : Does s r e)
    (h1 : e'.regs = e.regs) (h2 : e'.lat = e.lat) (h3 : e'.rest s.here = e.rest s.here) (h4 : e'.mach s = e.mach s)
    (h5 : e'.pc = e.pc) (h6 : e'.awaits = e.awaits) : Does s r e' := by
  obtain ⟨t, ht, a, b, c, d, o, m, p⟩ := h
  exact ⟨t, ht, by rw [h1, h2]; exact a, by rw [h6]; exact b, by rw [h1, h6]; exact c, by rw [h3]; exact d, o,
    by rw [h4]; exact m, by rw [h5]; exact p⟩

/-- A slot instruction whose only effect is one result, that frees no landing slot. -/
theorem writes_result (sl : Slot) (i : Instr) (g : BitVec 4) (sem : State → Nat → Nat → Sem) (s : State) (m : Sem)
    (d : Dst) (v : BitVec 2048) (lat : Nat)
    (hm : sem (s.setCtx s.cur.1 s.cur.2 s.here) s.cur.1 s.cur.2 = m)
    (h : s.runs i sl g) (hg : Goes m s.here sl.idx) (hn : m.near = false) (hfr : m.frees = [])
    (he : m.eff (s.entered m) = (s.entered m).result s.cur.1 s.cur.2 d v lat)
    (hd : d.ok) (hv : d.fits v) : Writes s (issueOne sl i g sem s) d v lat := by
  refine (does_result sl i g sem s m d v lat 0 hm h hg hn (by rw [he, result_setFlags_zero]) hd hv).congr rfl rfl ?_ rfl rfl rfl
  simp only [hfr, Ctx.freed, Ctx.flagged, List.foldl_nil, id]
  simp

/-- A slot with no landing operand, no bank and nothing to wait for or to trap on goes. -/
theorem Goes.plain (m : Sem) (k : Ctx) (n : Nat) (h0 : m.trap0 = none) (h1 : m.trap = none) (h2 : m.late = none)
    (h3 : m.wait = none) (h4 : m.final = none) (h5 : m.las = []) (h6 : m.units = []) : Goes m k n :=
  ⟨h0, h1, h2, h3, h4, by simp [h5], by simp [h6, bankConf]⟩

/-- Scalar and mask destinations, and 64-bit values as they hold them. -/
theorem Dst.ok_s (r : BitVec 6) : (Dst.s r.toNat).ok := r.isLt
theorem Dst.ok_k (r : BitVec 4) : (Dst.k r.toNat).ok := r.isLt
theorem Dst.ok_v (r : BitVec 11) : (Dst.v r.toNat).ok := r.isLt
theorem fits_asReg_s (r : Nat) (v : BitVec 64) : (Dst.s r).fits (asReg v) := by simp [Dst.fits, asReg]
theorem fits_asReg_k (r : Nat) (v : BitVec 64) : (Dst.k r).fits (asReg v) := by simp [Dst.fits, asReg]

end Sys2Proof.Machine
end

