-- ==== Sys2Proof/Laws/PerInstr.lean ====
section
/-! SUPPORT. For each instruction: the slot bits that `encodeSlot` gives a well-formed slot instruction are 60 bits, and
`decodeSlot` reads the same instruction, with every operand, back from them (R50 to R57, R70 to R75). -/

namespace Sys2Proof.Laws

/-- The fields laid side by side fill no more than the sum of their widths. -/
theorem packFields_lt : ∀ ws fs, packFields ws fs < 2 ^ ws.sum
  | [], fs => by simp [packFields]
  | w :: ws, [] =>
    (packFields_lt ws []).trans_le (Nat.pow_le_pow_right (by decide) (by simp))
  | w :: ws, v :: fs => by
    have h := packFields_lt ws fs
    have hv : v % 2 ^ w < 2 ^ w := Nat.mod_lt _ (by positivity)
    simp only [packFields, List.sum_cons, Nat.pow_add]
    calc _ < v % 2 ^ w * 2 ^ ws.sum + 2 ^ ws.sum := by omega
      _ = (v % 2 ^ w + 1) * 2 ^ ws.sum := by ring
      _ ≤ _ := Nat.mul_le_mul_right _ hv

/-- What stands above the layout does not change its fields. -/
theorem unpackFields_add : ∀ ws k n, unpackFields ws (k * 2 ^ ws.sum + n) = unpackFields ws n
  | [], _, _ => rfl
  | w :: ws, k, n => by
    have h : k * 2 ^ (w :: ws).sum + n = (k * 2 ^ w) * 2 ^ ws.sum + n := by
      simp only [List.sum_cons, Nat.pow_add]; ring
    have hq : ((k * 2 ^ w) * 2 ^ ws.sum + n) / 2 ^ ws.sum % 2 ^ w = n / 2 ^ ws.sum % 2 ^ w := by
      rw [Nat.add_comm, Nat.add_mul_div_right _ _ (by positivity), Nat.add_mul_mod_self_right]
    rw [h, unpackFields, unpackFields, unpackFields_add ws, hq]

/-- Unpacking gives back fields that fit their widths. -/
theorem unpackFields_packFields : ∀ ws fs, List.Forall₂ (fun w v => v < 2 ^ w) ws fs →
    unpackFields ws (packFields ws fs) = fs
  | [], _, .nil => rfl
  | w :: ws, v :: fs, .cons hv h => by
    rw [packFields, unpackFields, unpackFields_add, unpackFields_packFields ws fs h, Nat.add_comm,
      Nat.add_mul_div_right _ _ (by positivity), Nat.div_eq_of_lt (packFields_lt ws fs), Nat.zero_add,
      Nat.mod_mod, Nat.mod_eq_of_lt hv]

/-- The opcode of encoded slot bits. -/
theorem slotBits_op (op : Nat) (ws fs : List Nat) (hs : ws.sum = 54) (ho : op < 64) :
    slotBits op ws fs / 2 ^ 54 % 64 = op := by
  have h := packFields_lt ws fs
  rw [hs] at h
  simp only [slotBits]; omega

/-- Encoded slot bits are 60 bits. -/
theorem slotBits_lt (op : Nat) (ws fs : List Nat) (hs : ws.sum = 54) (ho : op < 64) :
    slotBits op ws fs < 2 ^ 60 := by
  have h := packFields_lt ws fs
  rw [hs] at h
  simp only [slotBits]; omega

/-- The fields of encoded slot bits. -/
theorem unpackFields_slotBits (op : Nat) (ws fs : List Nat) (hs : ws.sum = 54)
    (h : List.Forall₂ (fun w v => v < 2 ^ w) ws fs) : unpackFields ws (slotBits op ws fs) = fs := by
  rw [slotBits, ← hs, unpackFields_add, unpackFields_packFields ws fs h]

/-- Layout OpR reads back from its slot bits. -/
theorem OpR_read (op : Nat) (o : OpR) :
    OpR.ofFields (unpackFields OpR.widths (slotBits op OpR.widths o.fields)) = o := by
  rw [unpackFields_slotBits _ _ _ rfl (by
    simp only [OpR.widths, OpR.fields, List.forall₂_cons, BitVec.isLt, true_and, List.Forall₂.nil])]
  cases o; simp [OpR.ofFields, OpR.fields, fld]

/-- Layout OpI reads back from its slot bits. -/
theorem OpI_read (op : Nat) (o : OpI) :
    OpI.ofFields (unpackFields OpI.widths (slotBits op OpI.widths o.fields)) = o := by
  rw [unpackFields_slotBits _ _ _ rfl (by
    simp only [OpI.widths, OpI.fields, List.forall₂_cons, BitVec.isLt, true_and, List.Forall₂.nil])]
  cases o; simp [OpI.ofFields, OpI.fields, fld]

/-- Layout OpC reads back from its slot bits. -/
theorem OpC_read (op : Nat) (o : OpC) :
    OpC.ofFields (unpackFields OpC.widths (slotBits op OpC.widths o.fields)) = o := by
  rw [unpackFields_slotBits _ _ _ rfl (by
    simp only [OpC.widths, OpC.fields, List.forall₂_cons, BitVec.isLt, true_and, List.Forall₂.nil])]
  cases o; simp [OpC.ofFields, OpC.fields, fld]

/-- Layout OpB reads back from its slot bits. -/
theorem OpB_read (op : Nat) (o : OpB) :
    OpB.ofFields (unpackFields OpB.widths (slotBits op OpB.widths o.fields)) = o := by
  rw [unpackFields_slotBits _ _ _ rfl (by
    simp only [OpB.widths, OpB.fields, List.forall₂_cons, BitVec.isLt, true_and, List.Forall₂.nil])]
  cases o; simp [OpB.ofFields, OpB.fields, fld]

/-- Layout OpV reads back from its slot bits. -/
theorem OpV_read (op : Nat) (o : OpV) :
    OpV.ofFields o.u (unpackFields OpV.widths (slotBits op OpV.widths o.fields)) = o := by
  rw [unpackFields_slotBits _ _ _ rfl (by
    simp only [OpV.widths, OpV.fields, List.forall₂_cons, BitVec.isLt, true_and, List.Forall₂.nil])]
  cases o; simp [OpV.ofFields, OpV.fields, fld]

/-- Layout OpCube reads back from its slot bits. -/
theorem OpCube_read (op : Nat) (o : OpCube) :
    OpCube.ofFields (unpackFields OpCube.widths (slotBits op OpCube.widths o.fields)) = o := by
  rw [unpackFields_slotBits _ _ _ rfl (by
    simp only [OpCube.widths, OpCube.fields, List.forall₂_cons, BitVec.isLt, true_and, List.Forall₂.nil])]
  cases o; simp [OpCube.ofFields, OpCube.fields, fld]

/-- Layout OpAb reads back from its slot bits. -/
theorem OpAb_read (op : Nat) (o : OpAb) :
    OpAb.ofFields (unpackFields OpAb.widths (slotBits op OpAb.widths o.fields)) = o := by
  rw [unpackFields_slotBits _ _ _ rfl (by
    simp only [OpAb.widths, OpAb.fields, List.forall₂_cons, BitVec.isLt, true_and, List.Forall₂.nil])]
  cases o; simp [OpAb.ofFields, OpAb.fields, fld]

/-- Layout OpPush reads back from its slot bits. -/
theorem OpPush_read (op : Nat) (o : OpPush) :
    OpPush.ofFields (unpackFields OpPush.widths (slotBits op OpPush.widths o.fields)) = o := by
  rw [unpackFields_slotBits _ _ _ rfl (by
    simp only [OpPush.widths, OpPush.fields, List.forall₂_cons, BitVec.isLt, true_and, List.Forall₂.nil])]
  cases o; simp [OpPush.ofFields, OpPush.fields, fld]

/-- Layout OpStep reads back from its slot bits. -/
theorem OpStep_read (op : Nat) (o : OpStep) :
    OpStep.ofFields (unpackFields OpStep.widths (slotBits op OpStep.widths o.fields)) = o := by
  rw [unpackFields_slotBits _ _ _ rfl (by
    simp only [OpStep.widths, OpStep.fields, List.forall₂_cons, BitVec.isLt, true_and, List.Forall₂.nil])]
  cases o; simp [OpStep.ofFields, OpStep.fields, fld]

/-- Layout OpDrain reads back from its slot bits. -/
theorem OpDrain_read (op : Nat) (o : OpDrain) :
    OpDrain.ofFields (unpackFields OpDrain.widths (slotBits op OpDrain.widths o.fields)) = o := by
  rw [unpackFields_slotBits _ _ _ rfl (by
    simp only [OpDrain.widths, OpDrain.fields, List.forall₂_cons, BitVec.isLt, true_and, List.Forall₂.nil])]
  cases o; simp [OpDrain.ofFields, OpDrain.fields, fld]

/-- Layout OpZero reads back from its slot bits. -/
theorem OpZero_read (op : Nat) (o : OpZero) :
    OpZero.ofFields (unpackFields OpZero.widths (slotBits op OpZero.widths o.fields)) = o := by
  rw [unpackFields_slotBits _ _ _ rfl (by
    simp only [OpZero.widths, OpZero.fields, List.forall₂_cons, BitVec.isLt, true_and, List.Forall₂.nil])]
  cases o; simp [OpZero.ofFields, OpZero.fields, fld]

/-- Layout OpOuter reads back from its slot bits. -/
theorem OpOuter_read (op : Nat) (o : OpOuter) :
    OpOuter.ofFields (unpackFields OpOuter.widths (slotBits op OpOuter.widths o.fields)) = o := by
  rw [unpackFields_slotBits _ _ _ rfl (by
    simp only [OpOuter.widths, OpOuter.fields, List.forall₂_cons, BitVec.isLt, true_and, List.Forall₂.nil])]
  cases o; simp [OpOuter.ofFields, OpOuter.fields, fld]

/-- Layout OpRdAcc reads back from its slot bits. -/
theorem OpRdAcc_read (op : Nat) (o : OpRdAcc) :
    OpRdAcc.ofFields (unpackFields OpRdAcc.widths (slotBits op OpRdAcc.widths o.fields)) = o := by
  rw [unpackFields_slotBits _ _ _ rfl (by
    simp only [OpRdAcc.widths, OpRdAcc.fields, List.forall₂_cons, BitVec.isLt, true_and, List.Forall₂.nil])]
  cases o; simp [OpRdAcc.ofFields, OpRdAcc.fields, fld]

/-- Layout OpWrAcc reads back from its slot bits. -/
theorem OpWrAcc_read (op : Nat) (o : OpWrAcc) :
    OpWrAcc.ofFields (unpackFields OpWrAcc.widths (slotBits op OpWrAcc.widths o.fields)) = o := by
  rw [unpackFields_slotBits _ _ _ rfl (by
    simp only [OpWrAcc.widths, OpWrAcc.fields, List.forall₂_cons, BitVec.isLt, true_and, List.Forall₂.nil])]
  cases o; simp [OpWrAcc.ofFields, OpWrAcc.fields, fld]

/-- Layout OpScAcc reads back from its slot bits. -/
theorem OpScAcc_read (op : Nat) (o : OpScAcc) :
    OpScAcc.ofFields (unpackFields OpScAcc.widths (slotBits op OpScAcc.widths o.fields)) = o := by
  rw [unpackFields_slotBits _ _ _ rfl (by
    simp only [OpScAcc.widths, OpScAcc.fields, List.forall₂_cons, BitVec.isLt, true_and, List.Forall₂.nil])]
  cases o; simp [OpScAcc.ofFields, OpScAcc.fields, fld]

/-- Layout OpTile reads back from its slot bits. -/
theorem OpTile_read (op : Nat) (o : OpTile) :
    OpTile.ofFields (unpackFields OpTile.widths (slotBits op OpTile.widths o.fields)) = o := by
  rw [unpackFields_slotBits _ _ _ rfl (by
    simp only [OpTile.widths, OpTile.fields, List.forall₂_cons, BitVec.isLt, true_and, List.Forall₂.nil])]
  cases o; simp [OpTile.ofFields, OpTile.fields, fld]

/-- Layout OpExp reads back from its slot bits. -/
theorem OpExp_read (op : Nat) (o : OpExp) :
    OpExp.ofFields (unpackFields OpExp.widths (slotBits op OpExp.widths o.fields)) = o := by
  rw [unpackFields_slotBits _ _ _ rfl (by
    simp only [OpExp.widths, OpExp.fields, List.forall₂_cons, BitVec.isLt, true_and, List.Forall₂.nil])]
  cases o; simp [OpExp.ofFields, OpExp.fields, fld]

/-- Layout OpFmt reads back from its slot bits. -/
theorem OpFmt_read (op : Nat) (o : OpFmt) :
    OpFmt.ofFields (unpackFields OpFmt.widths (slotBits op OpFmt.widths o.fields)) = o := by
  rw [unpackFields_slotBits _ _ _ rfl (by
    simp only [OpFmt.widths, OpFmt.fields, List.forall₂_cons, BitVec.isLt, true_and, List.Forall₂.nil])]
  cases o; simp [OpFmt.ofFields, OpFmt.fields, fld]

/-- Layout OpProg reads back from its slot bits. -/
theorem OpProg_read (op : Nat) (o : OpProg) :
    OpProg.ofFields (unpackFields OpProg.widths (slotBits op OpProg.widths o.fields)) = o := by
  rw [unpackFields_slotBits _ _ _ rfl (by
    simp only [OpProg.widths, OpProg.fields, List.forall₂_cons, BitVec.isLt, true_and, List.Forall₂.nil])]
  cases o; simp [OpProg.ofFields, OpProg.fields, fld]

/-- Layout OpLd reads back from its slot bits. -/
theorem OpLd_read (op : Nat) (o : OpLd) :
    OpLd.ofFields (unpackFields OpLd.widths (slotBits op OpLd.widths o.fields)) = o := by
  rw [unpackFields_slotBits _ _ _ rfl (by
    simp only [OpLd.widths, OpLd.fields, List.forall₂_cons, BitVec.isLt, true_and, List.Forall₂.nil])]
  cases o; simp [OpLd.ofFields, OpLd.fields, fld]

/-- Layout OpLdX reads back from its slot bits. -/
theorem OpLdX_read (op : Nat) (o : OpLdX) :
    OpLdX.ofFields (unpackFields OpLdX.widths (slotBits op OpLdX.widths o.fields)) = o := by
  rw [unpackFields_slotBits _ _ _ rfl (by
    simp only [OpLdX.widths, OpLdX.fields, List.forall₂_cons, BitVec.isLt, true_and, List.Forall₂.nil])]
  cases o; simp [OpLdX.ofFields, OpLdX.fields, fld]

/-- Layout OpD reads back from its slot bits. -/
theorem OpD_read (op : Nat) (o : OpD) :
    OpD.ofFields (unpackFields OpD.widths (slotBits op OpD.widths o.fields)) = o := by
  rw [unpackFields_slotBits _ _ _ rfl (by
    simp only [OpD.widths, OpD.fields, List.forall₂_cons, BitVec.isLt, true_and, List.Forall₂.nil])]
  cases o; simp [OpD.ofFields, OpD.fields, fld]

/-- Layout OpSt reads back from its slot bits. -/
theorem OpSt_read (op : Nat) (o : OpSt) :
    OpSt.ofFields (unpackFields OpSt.widths (slotBits op OpSt.widths o.fields)) = o := by
  rw [unpackFields_slotBits _ _ _ rfl (by
    simp only [OpSt.widths, OpSt.fields, List.forall₂_cons, BitVec.isLt, true_and, List.Forall₂.nil])]
  cases o; simp [OpSt.ofFields, OpSt.fields, fld]

/-- Layout OpStX reads back from its slot bits. -/
theorem OpStX_read (op : Nat) (o : OpStX) :
    OpStX.ofFields (unpackFields OpStX.widths (slotBits op OpStX.widths o.fields)) = o := by
  rw [unpackFields_slotBits _ _ _ rfl (by
    simp only [OpStX.widths, OpStX.fields, List.forall₂_cons, BitVec.isLt, true_and, List.Forall₂.nil])]
  cases o; simp [OpStX.ofFields, OpStX.fields, fld]

/-- Layout OpCeA reads back from its slot bits. -/
theorem OpCeA_read (op : Nat) (o : OpCeA) :
    OpCeA.ofFields (unpackFields OpCeA.widths (slotBits op OpCeA.widths o.fields)) = o := by
  rw [unpackFields_slotBits _ _ _ rfl (by
    simp only [OpCeA.widths, OpCeA.fields, List.forall₂_cons, BitVec.isLt, true_and, List.Forall₂.nil])]
  cases o; simp [OpCeA.ofFields, OpCeA.fields, fld]

/-- Layout OpCeV reads back from its slot bits. -/
theorem OpCeV_read (op : Nat) (o : OpCeV) :
    OpCeV.ofFields (unpackFields OpCeV.widths (slotBits op OpCeV.widths o.fields)) = o := by
  rw [unpackFields_slotBits _ _ _ rfl (by
    simp only [OpCeV.widths, OpCeV.fields, List.forall₂_cons, BitVec.isLt, true_and, List.Forall₂.nil])]
  cases o; simp [OpCeV.ofFields, OpCeV.fields, fld]

/-- Layout OpSy reads back from its slot bits. -/
theorem OpSy_read (op : Nat) (o : OpSy) :
    OpSy.ofFields (unpackFields OpSy.widths (slotBits op OpSy.widths o.fields)) = o := by
  rw [unpackFields_slotBits _ _ _ rfl (by
    simp only [OpSy.widths, OpSy.fields, List.forall₂_cons, BitVec.isLt, true_and, List.Forall₂.nil])]
  cases o; simp [OpSy.ofFields, OpSy.fields, fld]

/-- Layout OpSyA reads back from its slot bits. -/
theorem OpSyA_read (op : Nat) (o : OpSyA) :
    OpSyA.ofFields (unpackFields OpSyA.widths (slotBits op OpSyA.widths o.fields)) = o := by
  rw [unpackFields_slotBits _ _ _ rfl (by
    simp only [OpSyA.widths, OpSyA.fields, List.forall₂_cons, BitVec.isLt, true_and, List.Forall₂.nil])]
  cases o; simp [OpSyA.ofFields, OpSyA.fields, fld]

/-- Layout OpSyC reads back from its slot bits. -/
theorem OpSyC_read (op : Nat) (o : OpSyC) :
    OpSyC.ofFields (unpackFields OpSyC.widths (slotBits op OpSyC.widths o.fields)) = o := by
  rw [unpackFields_slotBits _ _ _ rfl (by
    simp only [OpSyC.widths, OpSyC.fields, List.forall₂_cons, BitVec.isLt, true_and, List.Forall₂.nil])]
  cases o; simp [OpSyC.ofFields, OpSyC.fields, fld]

/-- Layout OpSyV reads back from its slot bits. -/
theorem OpSyV_read (op : Nat) (o : OpSyV) :
    OpSyV.ofFields (unpackFields OpSyV.widths (slotBits op OpSyV.widths o.fields)) = o := by
  rw [unpackFields_slotBits _ _ _ rfl (by
    simp only [OpSyV.widths, OpSyV.fields, List.forall₂_cons, BitVec.isLt, true_and, List.Forall₂.nil])]
  cases o; simp [OpSyV.ofFields, OpSyV.fields, fld]

/-- The statement of the family: the slot bits of a well-formed slot instruction decode to it. -/
def RoundTrip.Statement (i : Instr) : Prop :=
  ∀ sl w, i.wf = true → encodeSlot i = some (sl, w) → decodeSlot sl w = some i ∧ w < 2 ^ 60

/-- The statement from the one decoding it needs. -/
theorem roundTrip_of {i : Instr} (sl : Slot) (op : Nat) (ws fs : List Nat) (hs : ws.sum = 54) (ho : op < 64)
    (he : encodeSlot i = some (sl, slotBits op ws fs))
    (hd : i.wf = true → decodeSlot sl (slotBits op ws fs) = some i) : RoundTrip.Statement i := by
  intro sl' w hw h
  rw [he] at h
  cases h
  exact ⟨hd hw, slotBits_lt op ws fs hs ho⟩

/-- The decoder of a vector slot. -/
theorem decodeSlot_v (u : Bool) (w : Nat) : decodeSlot (if u then .vb else .va) w = decodeV u w := by
  cases u <;> rfl

/-- The low word of layout OpSy is its immediate. -/
theorem OpSy_imm (op : Nat) (o : OpSy) : slotBits op OpSy.widths o.fields % 2 ^ 32 = o.imm.toNat := by
  simp only [slotBits, packFields, OpSy.widths, OpSy.fields, List.sum_cons, List.sum_nil]; omega

/-- The lowest bit of layout OpAb is its ABANDON bit. -/
theorem OpAb_ab (op : Nat) (o : OpAb) : slotBits op OpAb.widths o.fields % 2 = o.ab.toNat := by
  simp only [slotBits, packFields, OpAb.widths, OpAb.fields, List.sum_cons, List.sum_nil]; omega

/-- Bit 38 of layout OpExp is its W bit. -/
theorem OpExp_w (op : Nat) (o : OpExp) : slotBits op OpExp.widths o.fields / 2 ^ 38 % 2 = o.w.toNat := by
  simp only [slotBits, packFields, OpExp.widths, OpExp.fields, List.sum_cons, List.sum_nil]; omega

/-- A step that is no slot instruction has no slot bits. -/
theorem roundTrip_none {i : Instr} (h : encodeSlot i = none) : RoundTrip.Statement i :=
  fun _ _ _ he => by rw [h] at he; cases he

theorem RoundTrip.add (o : OpR) : RoundTrip.Statement (.add o) :=
  roundTrip_of .s 0x01 _ _ rfl (by decide) rfl fun _ => by
    change decodeS _ = _
    unfold decodeS; rw [slotBits_op _ _ _ rfl (by decide)]
    exact congrArg (fun x => some (Instr.add x)) (OpR_read _ o)

theorem RoundTrip.sub (o : OpR) : RoundTrip.Statement (.sub o) :=
  roundTrip_of .s 0x02 _ _ rfl (by decide) rfl fun _ => by
    change decodeS _ = _
    unfold decodeS; rw [slotBits_op _ _ _ rfl (by decide)]
    exact congrArg (fun x => some (Instr.sub x)) (OpR_read _ o)

theorem RoundTrip.addi (o : OpI) : RoundTrip.Statement (.addi o) :=
  roundTrip_of .s 0x03 _ _ rfl (by decide) rfl fun _ => by
    change decodeS _ = _
    unfold decodeS; rw [slotBits_op _ _ _ rfl (by decide)]
    exact congrArg (fun x => some (Instr.addi x)) (OpI_read _ o)

theorem RoundTrip.mul (o : OpR) : RoundTrip.Statement (.mul o) :=
  roundTrip_of .s 0x04 _ _ rfl (by decide) rfl fun _ => by
    change decodeS _ = _
    unfold decodeS; rw [slotBits_op _ _ _ rfl (by decide)]
    exact congrArg (fun x => some (Instr.mul x)) (OpR_read _ o)

theorem RoundTrip.mulh (o : OpR) : RoundTrip.Statement (.mulh o) :=
  roundTrip_of .s 0x05 _ _ rfl (by decide) rfl fun _ => by
    change decodeS _ = _
    unfold decodeS; rw [slotBits_op _ _ _ rfl (by decide)]
    exact congrArg (fun x => some (Instr.mulh x)) (OpR_read _ o)

theorem RoundTrip.mulhn (o : OpR) : RoundTrip.Statement (.mulhn o) :=
  roundTrip_of .s 0x06 _ _ rfl (by decide) rfl fun _ => by
    change decodeS _ = _
    unfold decodeS; rw [slotBits_op _ _ _ rfl (by decide)]
    exact congrArg (fun x => some (Instr.mulhn x)) (OpR_read _ o)

theorem RoundTrip.div (o : OpR) : RoundTrip.Statement (.div o) :=
  roundTrip_of .s 0x07 _ _ rfl (by decide) rfl fun _ => by
    change decodeS _ = _
    unfold decodeS; rw [slotBits_op _ _ _ rfl (by decide)]
    exact congrArg (fun x => some (Instr.div x)) (OpR_read _ o)

theorem RoundTrip.divn (o : OpR) : RoundTrip.Statement (.divn o) :=
  roundTrip_of .s 0x08 _ _ rfl (by decide) rfl fun _ => by
    change decodeS _ = _
    unfold decodeS; rw [slotBits_op _ _ _ rfl (by decide)]
    exact congrArg (fun x => some (Instr.divn x)) (OpR_read _ o)

theorem RoundTrip.rem (o : OpR) : RoundTrip.Statement (.rem o) :=
  roundTrip_of .s 0x09 _ _ rfl (by decide) rfl fun _ => by
    change decodeS _ = _
    unfold decodeS; rw [slotBits_op _ _ _ rfl (by decide)]
    exact congrArg (fun x => some (Instr.rem x)) (OpR_read _ o)

theorem RoundTrip.remn (o : OpR) : RoundTrip.Statement (.remn o) :=
  roundTrip_of .s 0x0A _ _ rfl (by decide) rfl fun _ => by
    change decodeS _ = _
    unfold decodeS; rw [slotBits_op _ _ _ rfl (by decide)]
    exact congrArg (fun x => some (Instr.remn x)) (OpR_read _ o)

theorem RoundTrip.and (o : OpR) : RoundTrip.Statement (.and o) :=
  roundTrip_of .s 0x0B _ _ rfl (by decide) rfl fun _ => by
    change decodeS _ = _
    unfold decodeS; rw [slotBits_op _ _ _ rfl (by decide)]
    exact congrArg (fun x => some (Instr.and x)) (OpR_read _ o)

theorem RoundTrip.or (o : OpR) : RoundTrip.Statement (.or o) :=
  roundTrip_of .s 0x0C _ _ rfl (by decide) rfl fun _ => by
    change decodeS _ = _
    unfold decodeS; rw [slotBits_op _ _ _ rfl (by decide)]
    exact congrArg (fun x => some (Instr.or x)) (OpR_read _ o)

theorem RoundTrip.xor (o : OpR) : RoundTrip.Statement (.xor o) :=
  roundTrip_of .s 0x0D _ _ rfl (by decide) rfl fun _ => by
    change decodeS _ = _
    unfold decodeS; rw [slotBits_op _ _ _ rfl (by decide)]
    exact congrArg (fun x => some (Instr.xor x)) (OpR_read _ o)

theorem RoundTrip.andi (o : OpI) : RoundTrip.Statement (.andi o) :=
  roundTrip_of .s 0x0E _ _ rfl (by decide) rfl fun _ => by
    change decodeS _ = _
    unfold decodeS; rw [slotBits_op _ _ _ rfl (by decide)]
    exact congrArg (fun x => some (Instr.andi x)) (OpI_read _ o)

theorem RoundTrip.ori (o : OpI) : RoundTrip.Statement (.ori o) :=
  roundTrip_of .s 0x0F _ _ rfl (by decide) rfl fun _ => by
    change decodeS _ = _
    unfold decodeS; rw [slotBits_op _ _ _ rfl (by decide)]
    exact congrArg (fun x => some (Instr.ori x)) (OpI_read _ o)

theorem RoundTrip.xori (o : OpI) : RoundTrip.Statement (.xori o) :=
  roundTrip_of .s 0x10 _ _ rfl (by decide) rfl fun _ => by
    change decodeS _ = _
    unfold decodeS; rw [slotBits_op _ _ _ rfl (by decide)]
    exact congrArg (fun x => some (Instr.xori x)) (OpI_read _ o)

theorem RoundTrip.shl (o : OpR) : RoundTrip.Statement (.shl o) :=
  roundTrip_of .s 0x11 _ _ rfl (by decide) rfl fun _ => by
    change decodeS _ = _
    unfold decodeS; rw [slotBits_op _ _ _ rfl (by decide)]
    exact congrArg (fun x => some (Instr.shl x)) (OpR_read _ o)

theorem RoundTrip.shr (o : OpR) : RoundTrip.Statement (.shr o) :=
  roundTrip_of .s 0x12 _ _ rfl (by decide) rfl fun _ => by
    change decodeS _ = _
    unfold decodeS; rw [slotBits_op _ _ _ rfl (by decide)]
    exact congrArg (fun x => some (Instr.shr x)) (OpR_read _ o)

theorem RoundTrip.sha (o : OpR) : RoundTrip.Statement (.sha o) :=
  roundTrip_of .s 0x13 _ _ rfl (by decide) rfl fun _ => by
    change decodeS _ = _
    unfold decodeS; rw [slotBits_op _ _ _ rfl (by decide)]
    exact congrArg (fun x => some (Instr.sha x)) (OpR_read _ o)

theorem RoundTrip.shli (o : OpI) : RoundTrip.Statement (.shli o) :=
  roundTrip_of .s 0x14 _ _ rfl (by decide) rfl fun _ => by
    change decodeS _ = _
    unfold decodeS; rw [slotBits_op _ _ _ rfl (by decide)]
    exact congrArg (fun x => some (Instr.shli x)) (OpI_read _ o)

theorem RoundTrip.shri (o : OpI) : RoundTrip.Statement (.shri o) :=
  roundTrip_of .s 0x15 _ _ rfl (by decide) rfl fun _ => by
    change decodeS _ = _
    unfold decodeS; rw [slotBits_op _ _ _ rfl (by decide)]
    exact congrArg (fun x => some (Instr.shri x)) (OpI_read _ o)

theorem RoundTrip.shai (o : OpI) : RoundTrip.Statement (.shai o) :=
  roundTrip_of .s 0x16 _ _ rfl (by decide) rfl fun _ => by
    change decodeS _ = _
    unfold decodeS; rw [slotBits_op _ _ _ rfl (by decide)]
    exact congrArg (fun x => some (Instr.shai x)) (OpI_read _ o)

theorem RoundTrip.roti (o : OpI) : RoundTrip.Statement (.roti o) :=
  roundTrip_of .s 0x17 _ _ rfl (by decide) rfl fun _ => by
    change decodeS _ = _
    unfold decodeS; rw [slotBits_op _ _ _ rfl (by decide)]
    exact congrArg (fun x => some (Instr.roti x)) (OpI_read _ o)

theorem RoundTrip.min (o : OpR) : RoundTrip.Statement (.min o) :=
  roundTrip_of .s 0x18 _ _ rfl (by decide) rfl fun _ => by
    change decodeS _ = _
    unfold decodeS; rw [slotBits_op _ _ _ rfl (by decide)]
    exact congrArg (fun x => some (Instr.min x)) (OpR_read _ o)

theorem RoundTrip.max (o : OpR) : RoundTrip.Statement (.max o) :=
  roundTrip_of .s 0x19 _ _ rfl (by decide) rfl fun _ => by
    change decodeS _ = _
    unfold decodeS; rw [slotBits_op _ _ _ rfl (by decide)]
    exact congrArg (fun x => some (Instr.max x)) (OpR_read _ o)

theorem RoundTrip.minn (o : OpR) : RoundTrip.Statement (.minn o) :=
  roundTrip_of .s 0x1A _ _ rfl (by decide) rfl fun _ => by
    change decodeS _ = _
    unfold decodeS; rw [slotBits_op _ _ _ rfl (by decide)]
    exact congrArg (fun x => some (Instr.minn x)) (OpR_read _ o)

theorem RoundTrip.maxn (o : OpR) : RoundTrip.Statement (.maxn o) :=
  roundTrip_of .s 0x1B _ _ rfl (by decide) rfl fun _ => by
    change decodeS _ = _
    unfold decodeS; rw [slotBits_op _ _ _ rfl (by decide)]
    exact congrArg (fun x => some (Instr.maxn x)) (OpR_read _ o)

theorem RoundTrip.clz (o : OpR) : RoundTrip.Statement (.clz o) :=
  roundTrip_of .s 0x1C _ _ rfl (by decide) rfl fun _ => by
    change decodeS _ = _
    unfold decodeS; rw [slotBits_op _ _ _ rfl (by decide)]
    exact congrArg (fun x => some (Instr.clz x)) (OpR_read _ o)

theorem RoundTrip.popc (o : OpR) : RoundTrip.Statement (.popc o) :=
  roundTrip_of .s 0x1D _ _ rfl (by decide) rfl fun _ => by
    change decodeS _ = _
    unfold decodeS; rw [slotBits_op _ _ _ rfl (by decide)]
    exact congrArg (fun x => some (Instr.popc x)) (OpR_read _ o)

theorem RoundTrip.movi (o : OpI) : RoundTrip.Statement (.movi o) :=
  roundTrip_of .s 0x1E _ _ rfl (by decide) rfl fun _ => by
    change decodeS _ = _
    unfold decodeS; rw [slotBits_op _ _ _ rfl (by decide)]
    exact congrArg (fun x => some (Instr.movi x)) (OpI_read _ o)

theorem RoundTrip.movhi (o : OpI) : RoundTrip.Statement (.movhi o) :=
  roundTrip_of .s 0x1F _ _ rfl (by decide) rfl fun _ => by
    change decodeS _ = _
    unfold decodeS; rw [slotBits_op _ _ _ rfl (by decide)]
    exact congrArg (fun x => some (Instr.movhi x)) (OpI_read _ o)

theorem RoundTrip.cmp (o : OpC) : RoundTrip.Statement (.cmp o) :=
  roundTrip_of .s 0x20 _ _ rfl (by decide) rfl fun _ => by
    change decodeS _ = _
    unfold decodeS; rw [slotBits_op _ _ _ rfl (by decide)]
    exact congrArg (fun x => some (Instr.cmp x)) (OpC_read _ o)

theorem RoundTrip.cmpi (o : OpC) : RoundTrip.Statement (.cmpi o) :=
  roundTrip_of .s 0x21 _ _ rfl (by decide) rfl fun _ => by
    change decodeS _ = _
    unfold decodeS; rw [slotBits_op _ _ _ rfl (by decide)]
    exact congrArg (fun x => some (Instr.cmpi x)) (OpC_read _ o)

theorem RoundTrip.sel (o : OpR) : RoundTrip.Statement (.sel o) :=
  roundTrip_of .s 0x22 _ _ rfl (by decide) rfl fun _ => by
    change decodeS _ = _
    unfold decodeS; rw [slotBits_op _ _ _ rfl (by decide)]
    exact congrArg (fun x => some (Instr.sel x)) (OpR_read _ o)

theorem RoundTrip.bfx (o : OpI) : RoundTrip.Statement (.bfx o) :=
  roundTrip_of .s 0x23 _ _ rfl (by decide) rfl fun _ => by
    change decodeS _ = _
    unfold decodeS; rw [slotBits_op _ _ _ rfl (by decide)]
    exact congrArg (fun x => some (Instr.bfx x)) (OpI_read _ o)

theorem RoundTrip.bfi (o : OpI) : RoundTrip.Statement (.bfi o) :=
  roundTrip_of .s 0x24 _ _ rfl (by decide) rfl fun _ => by
    change decodeS _ = _
    unfold decodeS; rw [slotBits_op _ _ _ rfl (by decide)]
    exact congrArg (fun x => some (Instr.bfi x)) (OpI_read _ o)

theorem RoundTrip.fadd (o : OpR) : RoundTrip.Statement (.fadd o) :=
  roundTrip_of .s 0x25 _ _ rfl (by decide) rfl fun _ => by
    change decodeS _ = _
    unfold decodeS; rw [slotBits_op _ _ _ rfl (by decide)]
    exact congrArg (fun x => some (Instr.fadd x)) (OpR_read _ o)

theorem RoundTrip.fmul (o : OpR) : RoundTrip.Statement (.fmul o) :=
  roundTrip_of .s 0x26 _ _ rfl (by decide) rfl fun _ => by
    change decodeS _ = _
    unfold decodeS; rw [slotBits_op _ _ _ rfl (by decide)]
    exact congrArg (fun x => some (Instr.fmul x)) (OpR_read _ o)

theorem RoundTrip.ffma (o : OpR) : RoundTrip.Statement (.ffma o) :=
  roundTrip_of .s 0x27 _ _ rfl (by decide) rfl fun _ => by
    change decodeS _ = _
    unfold decodeS; rw [slotBits_op _ _ _ rfl (by decide)]
    exact congrArg (fun x => some (Instr.ffma x)) (OpR_read _ o)

theorem RoundTrip.fcmp (o : OpC) : RoundTrip.Statement (.fcmp o) :=
  roundTrip_of .s 0x28 _ _ rfl (by decide) rfl fun _ => by
    change decodeS _ = _
    unfold decodeS; rw [slotBits_op _ _ _ rfl (by decide)]
    exact congrArg (fun x => some (Instr.fcmp x)) (OpC_read _ o)

theorem RoundTrip.fcvt (o : OpR) : RoundTrip.Statement (.fcvt o) :=
  roundTrip_of .s 0x29 _ _ rfl (by decide) rfl fun _ => by
    change decodeS _ = _
    unfold decodeS; rw [slotBits_op _ _ _ rfl (by decide)]
    exact congrArg (fun x => some (Instr.fcvt x)) (OpR_read _ o)

theorem RoundTrip.kmov (o : OpR) : RoundTrip.Statement (.kmov o) :=
  roundTrip_of .s 0x2A _ _ rfl (by decide) rfl fun _ => by
    change decodeS _ = _
    unfold decodeS; rw [slotBits_op _ _ _ rfl (by decide)]
    exact congrArg (fun x => some (Instr.kmov x)) (OpR_read _ o)

theorem RoundTrip.kget (o : OpR) : RoundTrip.Statement (.kget o) :=
  roundTrip_of .s 0x2B _ _ rfl (by decide) rfl fun _ => by
    change decodeS _ = _
    unfold decodeS; rw [slotBits_op _ _ _ rfl (by decide)]
    exact congrArg (fun x => some (Instr.kget x)) (OpR_read _ o)

theorem RoundTrip.kpopc (o : OpR) : RoundTrip.Statement (.kpopc o) :=
  roundTrip_of .s 0x2C _ _ rfl (by decide) rfl fun _ => by
    change decodeS _ = _
    unfold decodeS; rw [slotBits_op _ _ _ rfl (by decide)]
    exact congrArg (fun x => some (Instr.kpopc x)) (OpR_read _ o)

theorem RoundTrip.setshape (o : OpI) : RoundTrip.Statement (.setshape o) :=
  roundTrip_of .s 0x2D _ _ rfl (by decide) rfl fun _ => by
    change decodeS _ = _
    unfold decodeS; rw [slotBits_op _ _ _ rfl (by decide)]
    exact congrArg (fun x => some (Instr.setshape x)) (OpI_read _ o)

theorem RoundTrip.widf (o : OpI) : RoundTrip.Statement (.widf o) :=
  roundTrip_of .s 0x2E _ _ rfl (by decide) rfl fun _ => by
    change decodeS _ = _
    unfold decodeS; rw [slotBits_op _ _ _ rfl (by decide)]
    exact congrArg (fun x => some (Instr.widf x)) (OpI_read _ o)

theorem RoundTrip.br (o : OpR) : RoundTrip.Statement (.br o) :=
  roundTrip_of .s 0x30 _ _ rfl (by decide) rfl fun _ => by
    change decodeS _ = _
    unfold decodeS; rw [slotBits_op _ _ _ rfl (by decide)]
    exact congrArg (fun x => some (Instr.br x)) (OpR_read _ o)

theorem RoundTrip.bri (o : OpB) : RoundTrip.Statement (.bri o) :=
  roundTrip_of .s 0x31 _ _ rfl (by decide) rfl fun _ => by
    change decodeS _ = _
    unfold decodeS; rw [slotBits_op _ _ _ rfl (by decide)]
    exact congrArg (fun x => some (Instr.bri x)) (OpB_read _ o)

theorem RoundTrip.call (o : OpB) : RoundTrip.Statement (.call o) :=
  roundTrip_of .s 0x32 _ _ rfl (by decide) rfl fun _ => by
    change decodeS _ = _
    unfold decodeS; rw [slotBits_op _ _ _ rfl (by decide)]
    exact congrArg (fun x => some (Instr.call x)) (OpB_read _ o)

theorem RoundTrip.ret (o : OpR) : RoundTrip.Statement (.ret o) :=
  roundTrip_of .s 0x33 _ _ rfl (by decide) rfl fun _ => by
    change decodeS _ = _
    unfold decodeS; rw [slotBits_op _ _ _ rfl (by decide)]
    exact congrArg (fun x => some (Instr.ret x)) (OpR_read _ o)

theorem RoundTrip.loop (o : OpI) : RoundTrip.Statement (.loop o) :=
  roundTrip_of .s 0x34 _ _ rfl (by decide) rfl fun _ => by
    change decodeS _ = _
    unfold decodeS; rw [slotBits_op _ _ _ rfl (by decide)]
    exact congrArg (fun x => some (Instr.loop x)) (OpI_read _ o)

theorem RoundTrip.timer (o : OpR) : RoundTrip.Statement (.timer o) :=
  roundTrip_of .s 0x36 _ _ rfl (by decide) rfl fun _ => by
    change decodeS _ = _
    unfold decodeS; rw [slotBits_op _ _ _ rfl (by decide)]
    exact congrArg (fun x => some (Instr.timer x)) (OpR_read _ o)

theorem RoundTrip.sysrd (o : OpI) : RoundTrip.Statement (.sysrd o) :=
  roundTrip_of .s 0x3C _ _ rfl (by decide) rfl fun _ => by
    change decodeS _ = _
    unfold decodeS; rw [slotBits_op _ _ _ rfl (by decide)]
    exact congrArg (fun x => some (Instr.sysrd x)) (OpI_read _ o)

theorem RoundTrip.syswr (o : OpI) : RoundTrip.Statement (.syswr o) :=
  roundTrip_of .s 0x3D _ _ rfl (by decide) rfl fun _ => by
    change decodeS _ = _
    unfold decodeS; rw [slotBits_op _ _ _ rfl (by decide)]
    exact congrArg (fun x => some (Instr.syswr x)) (OpI_read _ o)

theorem RoundTrip.vadd (o : OpV) : RoundTrip.Statement (.vadd o) :=
  roundTrip_of _ 0x01 _ _ rfl (by decide) rfl fun _ => by
    rw [decodeSlot_v]; unfold decodeV; rw [slotBits_op _ _ _ rfl (by decide)]
    exact congrArg (fun x => some (Instr.vadd x)) (OpV_read _ o)

theorem RoundTrip.vsub (o : OpV) : RoundTrip.Statement (.vsub o) :=
  roundTrip_of _ 0x02 _ _ rfl (by decide) rfl fun _ => by
    rw [decodeSlot_v]; unfold decodeV; rw [slotBits_op _ _ _ rfl (by decide)]
    exact congrArg (fun x => some (Instr.vsub x)) (OpV_read _ o)

theorem RoundTrip.vmul (o : OpV) : RoundTrip.Statement (.vmul o) :=
  roundTrip_of _ 0x03 _ _ rfl (by decide) rfl fun _ => by
    rw [decodeSlot_v]; unfold decodeV; rw [slotBits_op _ _ _ rfl (by decide)]
    exact congrArg (fun x => some (Instr.vmul x)) (OpV_read _ o)

theorem RoundTrip.vfma (o : OpV) : RoundTrip.Statement (.vfma o) :=
  roundTrip_of _ 0x04 _ _ rfl (by decide) rfl fun _ => by
    rw [decodeSlot_v]; unfold decodeV; rw [slotBits_op _ _ _ rfl (by decide)]
    exact congrArg (fun x => some (Instr.vfma x)) (OpV_read _ o)

theorem RoundTrip.vfms (o : OpV) : RoundTrip.Statement (.vfms o) :=
  roundTrip_of _ 0x05 _ _ rfl (by decide) rfl fun _ => by
    rw [decodeSlot_v]; unfold decodeV; rw [slotBits_op _ _ _ rfl (by decide)]
    exact congrArg (fun x => some (Instr.vfms x)) (OpV_read _ o)

theorem RoundTrip.vfnma (o : OpV) : RoundTrip.Statement (.vfnma o) :=
  roundTrip_of _ 0x06 _ _ rfl (by decide) rfl fun _ => by
    rw [decodeSlot_v]; unfold decodeV; rw [slotBits_op _ _ _ rfl (by decide)]
    exact congrArg (fun x => some (Instr.vfnma x)) (OpV_read _ o)

theorem RoundTrip.vmin (o : OpV) : RoundTrip.Statement (.vmin o) :=
  roundTrip_of _ 0x07 _ _ rfl (by decide) rfl fun _ => by
    rw [decodeSlot_v]; unfold decodeV; rw [slotBits_op _ _ _ rfl (by decide)]
    exact congrArg (fun x => some (Instr.vmin x)) (OpV_read _ o)

theorem RoundTrip.vmax (o : OpV) : RoundTrip.Statement (.vmax o) :=
  roundTrip_of _ 0x08 _ _ rfl (by decide) rfl fun _ => by
    rw [decodeSlot_v]; unfold decodeV; rw [slotBits_op _ _ _ rfl (by decide)]
    exact congrArg (fun x => some (Instr.vmax x)) (OpV_read _ o)

theorem RoundTrip.vabs (o : OpV) : RoundTrip.Statement (.vabs o) :=
  roundTrip_of _ 0x09 _ _ rfl (by decide) rfl fun _ => by
    rw [decodeSlot_v]; unfold decodeV; rw [slotBits_op _ _ _ rfl (by decide)]
    exact congrArg (fun x => some (Instr.vabs x)) (OpV_read _ o)

theorem RoundTrip.vneg (o : OpV) : RoundTrip.Statement (.vneg o) :=
  roundTrip_of _ 0x0A _ _ rfl (by decide) rfl fun _ => by
    rw [decodeSlot_v]; unfold decodeV; rw [slotBits_op _ _ _ rfl (by decide)]
    exact congrArg (fun x => some (Instr.vneg x)) (OpV_read _ o)

theorem RoundTrip.vcmp (o : OpV) : RoundTrip.Statement (.vcmp o) :=
  roundTrip_of _ 0x0B _ _ rfl (by decide) rfl fun _ => by
    rw [decodeSlot_v]; unfold decodeV; rw [slotBits_op _ _ _ rfl (by decide)]
    exact congrArg (fun x => some (Instr.vcmp x)) (OpV_read _ o)

theorem RoundTrip.vsel (o : OpV) : RoundTrip.Statement (.vsel o) :=
  roundTrip_of _ 0x0C _ _ rfl (by decide) rfl fun _ => by
    rw [decodeSlot_v]; unfold decodeV; rw [slotBits_op _ _ _ rfl (by decide)]
    exact congrArg (fun x => some (Instr.vsel x)) (OpV_read _ o)

theorem RoundTrip.vand (o : OpV) : RoundTrip.Statement (.vand o) :=
  roundTrip_of _ 0x0D _ _ rfl (by decide) rfl fun _ => by
    rw [decodeSlot_v]; unfold decodeV; rw [slotBits_op _ _ _ rfl (by decide)]
    exact congrArg (fun x => some (Instr.vand x)) (OpV_read _ o)

theorem RoundTrip.vor (o : OpV) : RoundTrip.Statement (.vor o) :=
  roundTrip_of _ 0x0E _ _ rfl (by decide) rfl fun _ => by
    rw [decodeSlot_v]; unfold decodeV; rw [slotBits_op _ _ _ rfl (by decide)]
    exact congrArg (fun x => some (Instr.vor x)) (OpV_read _ o)

theorem RoundTrip.vxor (o : OpV) : RoundTrip.Statement (.vxor o) :=
  roundTrip_of _ 0x0F _ _ rfl (by decide) rfl fun _ => by
    rw [decodeSlot_v]; unfold decodeV; rw [slotBits_op _ _ _ rfl (by decide)]
    exact congrArg (fun x => some (Instr.vxor x)) (OpV_read _ o)

theorem RoundTrip.vnot (o : OpV) : RoundTrip.Statement (.vnot o) :=
  roundTrip_of _ 0x10 _ _ rfl (by decide) rfl fun _ => by
    rw [decodeSlot_v]; unfold decodeV; rw [slotBits_op _ _ _ rfl (by decide)]
    exact congrArg (fun x => some (Instr.vnot x)) (OpV_read _ o)

theorem RoundTrip.vshl (o : OpV) : RoundTrip.Statement (.vshl o) :=
  roundTrip_of _ 0x11 _ _ rfl (by decide) rfl fun _ => by
    rw [decodeSlot_v]; unfold decodeV; rw [slotBits_op _ _ _ rfl (by decide)]
    exact congrArg (fun x => some (Instr.vshl x)) (OpV_read _ o)

theorem RoundTrip.vshr (o : OpV) : RoundTrip.Statement (.vshr o) :=
  roundTrip_of _ 0x12 _ _ rfl (by decide) rfl fun _ => by
    rw [decodeSlot_v]; unfold decodeV; rw [slotBits_op _ _ _ rfl (by decide)]
    exact congrArg (fun x => some (Instr.vshr x)) (OpV_read _ o)

theorem RoundTrip.vsha (o : OpV) : RoundTrip.Statement (.vsha o) :=
  roundTrip_of _ 0x13 _ _ rfl (by decide) rfl fun _ => by
    rw [decodeSlot_v]; unfold decodeV; rw [slotBits_op _ _ _ rfl (by decide)]
    exact congrArg (fun x => some (Instr.vsha x)) (OpV_read _ o)

theorem RoundTrip.vcvt (o : OpV) : RoundTrip.Statement (.vcvt o) :=
  roundTrip_of _ 0x14 _ _ rfl (by decide) rfl fun _ => by
    rw [decodeSlot_v]; unfold decodeV; rw [slotBits_op _ _ _ rfl (by decide)]
    exact congrArg (fun x => some (Instr.vcvt x)) (OpV_read _ o)

theorem RoundTrip.vscale (o : OpV) : RoundTrip.Statement (.vscale o) :=
  roundTrip_of _ 0x15 _ _ rfl (by decide) rfl fun _ => by
    rw [decodeSlot_v]; unfold decodeV; rw [slotBits_op _ _ _ rfl (by decide)]
    exact congrArg (fun x => some (Instr.vscale x)) (OpV_read _ o)

theorem RoundTrip.vclass (o : OpV) : RoundTrip.Statement (.vclass o) :=
  roundTrip_of _ 0x16 _ _ rfl (by decide) rfl fun _ => by
    rw [decodeSlot_v]; unfold decodeV; rw [slotBits_op _ _ _ rfl (by decide)]
    exact congrArg (fun x => some (Instr.vclass x)) (OpV_read _ o)

theorem RoundTrip.vbcast (o : OpV) : RoundTrip.Statement (.vbcast o) :=
  roundTrip_of _ 0x17 _ _ rfl (by decide) rfl fun _ => by
    rw [decodeSlot_v]; unfold decodeV; rw [slotBits_op _ _ _ rfl (by decide)]
    exact congrArg (fun x => some (Instr.vbcast x)) (OpV_read _ o)

theorem RoundTrip.vmov (o : OpV) : RoundTrip.Statement (.vmov o) :=
  roundTrip_of _ 0x18 _ _ rfl (by decide) rfl fun _ => by
    rw [decodeSlot_v]; unfold decodeV; rw [slotBits_op _ _ _ rfl (by decide)]
    exact congrArg (fun x => some (Instr.vmov x)) (OpV_read _ o)

theorem RoundTrip.vmulhi (o : OpV) : RoundTrip.Statement (.vmulhi o) :=
  roundTrip_of _ 0x19 _ _ rfl (by decide) rfl fun _ => by
    rw [decodeSlot_v]; unfold decodeV; rw [slotBits_op _ _ _ rfl (by decide)]
    exact congrArg (fun x => some (Instr.vmulhi x)) (OpV_read _ o)

theorem RoundTrip.vsat (o : OpV) : RoundTrip.Statement (.vsat o) :=
  roundTrip_of _ 0x1A _ _ rfl (by decide) rfl fun _ => by
    rw [decodeSlot_v]; unfold decodeV; rw [slotBits_op _ _ _ rfl (by decide)]
    exact congrArg (fun x => some (Instr.vsat x)) (OpV_read _ o)

theorem RoundTrip.vhash (o : OpV) : RoundTrip.Statement (.vhash o) :=
  roundTrip_of _ 0x1B _ _ rfl (by decide) rfl fun _ => by
    rw [decodeSlot_v]; unfold decodeV; rw [slotBits_op _ _ _ rfl (by decide)]
    exact congrArg (fun x => some (Instr.vhash x)) (OpV_read _ o)

theorem RoundTrip.vfinite (o : OpV) : RoundTrip.Statement (.vfinite o) :=
  roundTrip_of _ 0x1C _ _ rfl (by decide) rfl fun _ => by
    rw [decodeSlot_v]; unfold decodeV; rw [slotBits_op _ _ _ rfl (by decide)]
    exact congrArg (fun x => some (Instr.vfinite x)) (OpV_read _ o)

theorem RoundTrip.viota (o : OpV) : RoundTrip.Statement (.viota o) :=
  roundTrip_of _ 0x1D _ _ rfl (by decide) rfl fun _ => by
    rw [decodeSlot_v]; unfold decodeV; rw [slotBits_op _ _ _ rfl (by decide)]
    exact congrArg (fun x => some (Instr.viota x)) (OpV_read _ o)

theorem RoundTrip.vkmov (o : OpV) : RoundTrip.Statement (.vkmov o) :=
  roundTrip_of _ 0x1E _ _ rfl (by decide) rfl fun _ => by
    rw [decodeSlot_v]; unfold decodeV; rw [slotBits_op _ _ _ rfl (by decide)]
    exact congrArg (fun x => some (Instr.vkmov x)) (OpV_read _ o)

theorem RoundTrip.vdiv (o : OpV) : RoundTrip.Statement (.vdiv o) :=
  roundTrip_of _ 0x20 _ _ rfl (by decide) rfl fun _ => by
    rw [decodeSlot_v]; unfold decodeV; rw [slotBits_op _ _ _ rfl (by decide)]
    exact congrArg (fun x => some (Instr.vdiv x)) (OpV_read _ o)

theorem RoundTrip.vsqrt (o : OpV) : RoundTrip.Statement (.vsqrt o) :=
  roundTrip_of _ 0x21 _ _ rfl (by decide) rfl fun _ => by
    rw [decodeSlot_v]; unfold decodeV; rw [slotBits_op _ _ _ rfl (by decide)]
    exact congrArg (fun x => some (Instr.vsqrt x)) (OpV_read _ o)

theorem RoundTrip.vrsqrt (o : OpV) : RoundTrip.Statement (.vrsqrt o) :=
  roundTrip_of _ 0x22 _ _ rfl (by decide) rfl fun _ => by
    rw [decodeSlot_v]; unfold decodeV; rw [slotBits_op _ _ _ rfl (by decide)]
    exact congrArg (fun x => some (Instr.vrsqrt x)) (OpV_read _ o)

theorem RoundTrip.vrcp (o : OpV) : RoundTrip.Statement (.vrcp o) :=
  roundTrip_of _ 0x23 _ _ rfl (by decide) rfl fun _ => by
    rw [decodeSlot_v]; unfold decodeV; rw [slotBits_op _ _ _ rfl (by decide)]
    exact congrArg (fun x => some (Instr.vrcp x)) (OpV_read _ o)

theorem RoundTrip.vexp2 (o : OpV) : RoundTrip.Statement (.vexp2 o) :=
  roundTrip_of _ 0x24 _ _ rfl (by decide) rfl fun _ => by
    rw [decodeSlot_v]; unfold decodeV; rw [slotBits_op _ _ _ rfl (by decide)]
    exact congrArg (fun x => some (Instr.vexp2 x)) (OpV_read _ o)

theorem RoundTrip.vlog2 (o : OpV) : RoundTrip.Statement (.vlog2 o) :=
  roundTrip_of _ 0x25 _ _ rfl (by decide) rfl fun _ => by
    rw [decodeSlot_v]; unfold decodeV; rw [slotBits_op _ _ _ rfl (by decide)]
    exact congrArg (fun x => some (Instr.vlog2 x)) (OpV_read _ o)

theorem RoundTrip.vtanh (o : OpV) : RoundTrip.Statement (.vtanh o) :=
  roundTrip_of _ 0x26 _ _ rfl (by decide) rfl fun _ => by
    rw [decodeSlot_v]; unfold decodeV; rw [slotBits_op _ _ _ rfl (by decide)]
    exact congrArg (fun x => some (Instr.vtanh x)) (OpV_read _ o)

theorem RoundTrip.vperm (o : OpV) : RoundTrip.Statement (.vperm o) :=
  roundTrip_of _ 0x27 _ _ rfl (by decide) rfl fun _ => by
    rw [decodeSlot_v]; unfold decodeV; rw [slotBits_op _ _ _ rfl (by decide)]
    exact congrArg (fun x => some (Instr.vperm x)) (OpV_read _ o)

theorem RoundTrip.vtrans (o : OpV) : RoundTrip.Statement (.vtrans o) :=
  roundTrip_of _ 0x28 _ _ rfl (by decide) rfl fun _ => by
    rw [decodeSlot_v]; unfold decodeV; rw [slotBits_op _ _ _ rfl (by decide)]
    exact congrArg (fun x => some (Instr.vtrans x)) (OpV_read _ o)

theorem RoundTrip.vrowred (o : OpV) : RoundTrip.Statement (.vrowred o) :=
  roundTrip_of _ 0x29 _ _ rfl (by decide) rfl fun _ => by
    rw [decodeSlot_v]; unfold decodeV; rw [slotBits_op _ _ _ rfl (by decide)]
    exact congrArg (fun x => some (Instr.vrowred x)) (OpV_read _ o)

theorem RoundTrip.vcolred (o : OpV) : RoundTrip.Statement (.vcolred o) :=
  roundTrip_of _ 0x2A _ _ rfl (by decide) rfl fun _ => by
    rw [decodeSlot_v]; unfold decodeV; rw [slotBits_op _ _ _ rfl (by decide)]
    exact congrArg (fun x => some (Instr.vcolred x)) (OpV_read _ o)

theorem RoundTrip.vallred (o : OpV) : RoundTrip.Statement (.vallred o) :=
  roundTrip_of _ 0x2B _ _ rfl (by decide) rfl fun _ => by
    rw [decodeSlot_v]; unfold decodeV; rw [slotBits_op _ _ _ rfl (by decide)]
    exact congrArg (fun x => some (Instr.vallred x)) (OpV_read _ o)

theorem RoundTrip.vrot (o : OpV) : RoundTrip.Statement (.vrot o) :=
  roundTrip_of _ 0x2C _ _ rfl (by decide) rfl fun _ => by
    rw [decodeSlot_v]; unfold decodeV; rw [slotBits_op _ _ _ rfl (by decide)]
    exact congrArg (fun x => some (Instr.vrot x)) (OpV_read _ o)

theorem RoundTrip.vpack (o : OpV) : RoundTrip.Statement (.vpack o) :=
  roundTrip_of _ 0x2D _ _ rfl (by decide) rfl fun _ => by
    rw [decodeSlot_v]; unfold decodeV; rw [slotBits_op _ _ _ rfl (by decide)]
    exact congrArg (fun x => some (Instr.vpack x)) (OpV_read _ o)

theorem RoundTrip.vunpack (o : OpV) : RoundTrip.Statement (.vunpack o) :=
  roundTrip_of _ 0x2E _ _ rfl (by decide) rfl fun _ => by
    rw [decodeSlot_v]; unfold decodeV; rw [slotBits_op _ _ _ rfl (by decide)]
    exact congrArg (fun x => some (Instr.vunpack x)) (OpV_read _ o)

theorem RoundTrip.vlaneget (o : OpV) : RoundTrip.Statement (.vlaneget o) :=
  roundTrip_of _ 0x2F _ _ rfl (by decide) rfl fun _ => by
    rw [decodeSlot_v]; unfold decodeV; rw [slotBits_op _ _ _ rfl (by decide)]
    exact congrArg (fun x => some (Instr.vlaneget x)) (OpV_read _ o)

theorem RoundTrip.cube (o : OpCube) : RoundTrip.Statement (.cube o) :=
  roundTrip_of .mx 0x01 _ _ rfl (by decide) rfl fun _ => by
    change decodeMx _ = _
    unfold decodeMx; rw [slotBits_op _ _ _ rfl (by decide)]
    exact congrArg (fun x => some (Instr.cube x)) (OpCube_read _ o)

theorem decode_mresume (w : Nat) (h : w / 2 ^ 54 % 64 = 2) (hb : w % 2 = 0) :
    decodeMx w = some (.mresume (OpAb.ofFields (unpackFields OpAb.widths w))) := by
  unfold decodeMx; rw [h]; exact if_pos hb

theorem RoundTrip.mresume (o : OpAb) : RoundTrip.Statement (.mresume o) :=
  roundTrip_of .mx 0x02 _ _ rfl (by decide) rfl fun hw => by
    have hb : slotBits 0x02 OpAb.widths o.fields % 2 = 0 := by
      have hl := OpAb_ab 0x02 o
      replace hw : (o.res == 0 && o.ab == 0) = true := hw
      simp at hw
      generalize slotBits _ _ _ = w at hl ⊢
      rw [hw.2] at hl; simpa using hl
    exact (decode_mresume _ (slotBits_op _ _ _ rfl (by decide)) hb).trans
      (congrArg (fun x => some (Instr.mresume x)) (OpAb_read _ o))

theorem decode_mresumeAbandon (w : Nat) (h : w / 2 ^ 54 % 64 = 2) (hb : w % 2 = 1) :
    decodeMx w = some (.mresumeAbandon (OpAb.ofFields (unpackFields OpAb.widths w))) := by
  unfold decodeMx; rw [h]; exact if_neg (by omega)

theorem RoundTrip.mresumeAbandon (o : OpAb) : RoundTrip.Statement (.mresumeAbandon o) :=
  roundTrip_of .mx 0x02 _ _ rfl (by decide) rfl fun hw => by
    have hb : slotBits 0x02 OpAb.widths o.fields % 2 = 1 := by
      have hl := OpAb_ab 0x02 o
      replace hw : (o.res == 0 && o.ab == 1) = true := hw
      simp at hw
      generalize slotBits _ _ _ = w at hl ⊢
      rw [hw.2] at hl; simpa using hl
    exact (decode_mresumeAbandon _ (slotBits_op _ _ _ rfl (by decide)) hb).trans
      (congrArg (fun x => some (Instr.mresumeAbandon x)) (OpAb_read _ o))

theorem RoundTrip.mpusha (o : OpPush) : RoundTrip.Statement (.mpusha o) :=
  roundTrip_of .mx 0x03 _ _ rfl (by decide) rfl fun _ => by
    change decodeMx _ = _
    unfold decodeMx; rw [slotBits_op _ _ _ rfl (by decide)]
    exact congrArg (fun x => some (Instr.mpusha x)) (OpPush_read _ o)

theorem RoundTrip.mpushb (o : OpPush) : RoundTrip.Statement (.mpushb o) :=
  roundTrip_of .mx 0x04 _ _ rfl (by decide) rfl fun _ => by
    change decodeMx _ = _
    unfold decodeMx; rw [slotBits_op _ _ _ rfl (by decide)]
    exact congrArg (fun x => some (Instr.mpushb x)) (OpPush_read _ o)

theorem RoundTrip.mstep (o : OpStep) : RoundTrip.Statement (.mstep o) :=
  roundTrip_of .mx 0x05 _ _ rfl (by decide) rfl fun _ => by
    change decodeMx _ = _
    unfold decodeMx; rw [slotBits_op _ _ _ rfl (by decide)]
    exact congrArg (fun x => some (Instr.mstep x)) (OpStep_read _ o)

theorem RoundTrip.mdrain (o : OpDrain) : RoundTrip.Statement (.mdrain o) :=
  roundTrip_of .mx 0x06 _ _ rfl (by decide) rfl fun _ => by
    change decodeMx _ = _
    unfold decodeMx; rw [slotBits_op _ _ _ rfl (by decide)]
    exact congrArg (fun x => some (Instr.mdrain x)) (OpDrain_read _ o)

theorem RoundTrip.mzero (o : OpZero) : RoundTrip.Statement (.mzero o) :=
  roundTrip_of .mx 0x07 _ _ rfl (by decide) rfl fun _ => by
    change decodeMx _ = _
    unfold decodeMx; rw [slotBits_op _ _ _ rfl (by decide)]
    exact congrArg (fun x => some (Instr.mzero x)) (OpZero_read _ o)

theorem RoundTrip.mouter (o : OpOuter) : RoundTrip.Statement (.mouter o) :=
  roundTrip_of .mx 0x08 _ _ rfl (by decide) rfl fun _ => by
    change decodeMx _ = _
    unfold decodeMx; rw [slotBits_op _ _ _ rfl (by decide)]
    exact congrArg (fun x => some (Instr.mouter x)) (OpOuter_read _ o)

theorem RoundTrip.mrdacc (o : OpRdAcc) : RoundTrip.Statement (.mrdacc o) :=
  roundTrip_of .mx 0x09 _ _ rfl (by decide) rfl fun _ => by
    change decodeMx _ = _
    unfold decodeMx; rw [slotBits_op _ _ _ rfl (by decide)]
    exact congrArg (fun x => some (Instr.mrdacc x)) (OpRdAcc_read _ o)

theorem RoundTrip.mwracc (o : OpWrAcc) : RoundTrip.Statement (.mwracc o) :=
  roundTrip_of .mx 0x0A _ _ rfl (by decide) rfl fun _ => by
    change decodeMx _ = _
    unfold decodeMx; rw [slotBits_op _ _ _ rfl (by decide)]
    exact congrArg (fun x => some (Instr.mwracc x)) (OpWrAcc_read _ o)

theorem RoundTrip.mscacc (o : OpScAcc) : RoundTrip.Statement (.mscacc o) :=
  roundTrip_of .mx 0x0B _ _ rfl (by decide) rfl fun _ => by
    change decodeMx _ = _
    unfold decodeMx; rw [slotBits_op _ _ _ rfl (by decide)]
    exact congrArg (fun x => some (Instr.mscacc x)) (OpScAcc_read _ o)

theorem RoundTrip.mrenorm (o : OpTile) : RoundTrip.Statement (.mrenorm o) :=
  roundTrip_of .mx 0x0C _ _ rfl (by decide) rfl fun _ => by
    change decodeMx _ = _
    unfold decodeMx; rw [slotBits_op _ _ _ rfl (by decide)]
    exact congrArg (fun x => some (Instr.mrenorm x)) (OpTile_read _ o)

theorem decode_mexp (w : Nat) (h : w / 2 ^ 54 % 64 = 13) (hb : w / 2 ^ 38 % 2 = 0) :
    decodeMx w = some (.mexp (OpExp.ofFields (unpackFields OpExp.widths w))) := by
  unfold decodeMx; rw [h]; exact if_pos hb

theorem RoundTrip.mexp (o : OpExp) : RoundTrip.Statement (.mexp o) :=
  roundTrip_of .mx 0x0D _ _ rfl (by decide) rfl fun hw => by
    have hb : slotBits 0x0D OpExp.widths o.fields / 2 ^ 38 % 2 = 0 := by
      have hl := OpExp_w 0x0D o
      replace hw : (o.w == 0 && o.sa == 0 && o.res == 0 && tsOk o.ts o.tile) = true := hw
      simp at hw
      generalize slotBits _ _ _ = w at hl ⊢
      rw [hw.1.1.1] at hl; simpa using hl
    exact (decode_mexp _ (slotBits_op _ _ _ rfl (by decide)) hb).trans
      (congrArg (fun x => some (Instr.mexp x)) (OpExp_read _ o))

theorem decode_mexpW (w : Nat) (h : w / 2 ^ 54 % 64 = 13) (hb : w / 2 ^ 38 % 2 = 1) :
    decodeMx w = some (.mexpW (OpExp.ofFields (unpackFields OpExp.widths w))) := by
  unfold decodeMx; rw [h]; exact if_neg (by omega)

theorem RoundTrip.mexpW (o : OpExp) : RoundTrip.Statement (.mexpW o) :=
  roundTrip_of .mx 0x0D _ _ rfl (by decide) rfl fun hw => by
    have hb : slotBits 0x0D OpExp.widths o.fields / 2 ^ 38 % 2 = 1 := by
      have hl := OpExp_w 0x0D o
      replace hw : (o.w == 1 && o.sd == 0 && o.res == 0 && tsOk o.ts o.tile) = true := hw
      simp at hw
      generalize slotBits _ _ _ = w at hl ⊢
      rw [hw.1.1.1] at hl; simpa using hl
    exact (decode_mexpW _ (slotBits_op _ _ _ rfl (by decide)) hb).trans
      (congrArg (fun x => some (Instr.mexpW x)) (OpExp_read _ o))

theorem RoundTrip.mfmt (o : OpFmt) : RoundTrip.Statement (.mfmt o) :=
  roundTrip_of .mx 0x0E _ _ rfl (by decide) rfl fun _ => by
    change decodeMx _ = _
    unfold decodeMx; rw [slotBits_op _ _ _ rfl (by decide)]
    exact congrArg (fun x => some (Instr.mfmt x)) (OpFmt_read _ o)

theorem RoundTrip.mprog (o : OpProg) : RoundTrip.Statement (.mprog o) :=
  roundTrip_of .mx 0x0F _ _ rfl (by decide) rfl fun _ => by
    change decodeMx _ = _
    unfold decodeMx; rw [slotBits_op _ _ _ rfl (by decide)]
    exact congrArg (fun x => some (Instr.mprog x)) (OpProg_read _ o)

theorem RoundTrip.ldg (o : OpLd) : RoundTrip.Statement (.ldg o) :=
  roundTrip_of .ld 0x01 _ _ rfl (by decide) rfl fun _ => by
    change decodeLd _ = _
    unfold decodeLd; rw [slotBits_op _ _ _ rfl (by decide)]
    exact congrArg (fun x => some (Instr.ldg x)) (OpLd_read _ o)

theorem RoundTrip.ldgv (o : OpLd) : RoundTrip.Statement (.ldgv o) :=
  roundTrip_of .ld 0x02 _ _ rfl (by decide) rfl fun _ => by
    change decodeLd _ = _
    unfold decodeLd; rw [slotBits_op _ _ _ rfl (by decide)]
    exact congrArg (fun x => some (Instr.ldgv x)) (OpLd_read _ o)

theorem RoundTrip.ldgx (o : OpLdX) : RoundTrip.Statement (.ldgx o) :=
  roundTrip_of .ld 0x03 _ _ rfl (by decide) rfl fun _ => by
    change decodeLd _ = _
    unfold decodeLd; rw [slotBits_op _ _ _ rfl (by decide)]
    exact congrArg (fun x => some (Instr.ldgx x)) (OpLdX_read _ o)

theorem RoundTrip.ldv (o : OpLd) : RoundTrip.Statement (.ldv o) :=
  roundTrip_of .ld 0x04 _ _ rfl (by decide) rfl fun _ => by
    change decodeLd _ = _
    unfold decodeLd; rw [slotBits_op _ _ _ rfl (by decide)]
    exact congrArg (fun x => some (Instr.ldv x)) (OpLd_read _ o)

theorem RoundTrip.ldvv (o : OpLd) : RoundTrip.Statement (.ldvv o) :=
  roundTrip_of .ld 0x05 _ _ rfl (by decide) rfl fun _ => by
    change decodeLd _ = _
    unfold decodeLd; rw [slotBits_op _ _ _ rfl (by decide)]
    exact congrArg (fun x => some (Instr.ldvv x)) (OpLd_read _ o)

theorem RoundTrip.ldvs (o : OpLd) : RoundTrip.Statement (.ldvs o) :=
  roundTrip_of .ld 0x06 _ _ rfl (by decide) rfl fun _ => by
    change decodeLd _ = _
    unfold decodeLd; rw [slotBits_op _ _ _ rfl (by decide)]
    exact congrArg (fun x => some (Instr.ldvs x)) (OpLd_read _ o)

theorem RoundTrip.ldvx (o : OpLdX) : RoundTrip.Statement (.ldvx o) :=
  roundTrip_of .ld 0x07 _ _ rfl (by decide) rfl fun _ => by
    change decodeLd _ = _
    unfold decodeLd; rw [slotBits_op _ _ _ rfl (by decide)]
    exact congrArg (fun x => some (Instr.ldvx x)) (OpLdX_read _ o)

theorem RoundTrip.wld (o : OpLd) : RoundTrip.Statement (.wld o) :=
  roundTrip_of .ld 0x08 _ _ rfl (by decide) rfl fun _ => by
    change decodeLd _ = _
    unfold decodeLd; rw [slotBits_op _ _ _ rfl (by decide)]
    exact congrArg (fun x => some (Instr.wld x)) (OpLd_read _ o)

theorem RoundTrip.wldv (o : OpLd) : RoundTrip.Statement (.wldv o) :=
  roundTrip_of .ld 0x09 _ _ rfl (by decide) rfl fun _ => by
    change decodeLd _ = _
    unfold decodeLd; rw [slotBits_op _ _ _ rfl (by decide)]
    exact congrArg (fun x => some (Instr.wldv x)) (OpLd_read _ o)

theorem RoundTrip.lda (o : OpLd) : RoundTrip.Statement (.lda o) :=
  roundTrip_of .ld 0x0A _ _ rfl (by decide) rfl fun _ => by
    change decodeLd _ = _
    unfold decodeLd; rw [slotBits_op _ _ _ rfl (by decide)]
    exact congrArg (fun x => some (Instr.lda x)) (OpLd_read _ o)

theorem RoundTrip.ldk (o : OpLd) : RoundTrip.Statement (.ldk o) :=
  roundTrip_of .ld 0x0B _ _ rfl (by decide) rfl fun _ => by
    change decodeLd _ = _
    unfold decodeLd; rw [slotBits_op _ _ _ rfl (by decide)]
    exact congrArg (fun x => some (Instr.ldk x)) (OpLd_read _ o)

theorem RoundTrip.dld (o : OpD) : RoundTrip.Statement (.dld o) :=
  roundTrip_of .ld 0x0C _ _ rfl (by decide) rfl fun _ => by
    change decodeLd _ = _
    unfold decodeLd; rw [slotBits_op _ _ _ rfl (by decide)]
    exact congrArg (fun x => some (Instr.dld x)) (OpD_read _ o)

theorem RoundTrip.stg (o : OpSt) : RoundTrip.Statement (.stg o) :=
  roundTrip_of .st 0x01 _ _ rfl (by decide) rfl fun _ => by
    change decodeSt _ = _
    unfold decodeSt; rw [slotBits_op _ _ _ rfl (by decide)]
    exact congrArg (fun x => some (Instr.stg x)) (OpSt_read _ o)

theorem RoundTrip.stgv (o : OpSt) : RoundTrip.Statement (.stgv o) :=
  roundTrip_of .st 0x02 _ _ rfl (by decide) rfl fun _ => by
    change decodeSt _ = _
    unfold decodeSt; rw [slotBits_op _ _ _ rfl (by decide)]
    exact congrArg (fun x => some (Instr.stgv x)) (OpSt_read _ o)

theorem RoundTrip.stgx (o : OpStX) : RoundTrip.Statement (.stgx o) :=
  roundTrip_of .st 0x03 _ _ rfl (by decide) rfl fun _ => by
    change decodeSt _ = _
    unfold decodeSt; rw [slotBits_op _ _ _ rfl (by decide)]
    exact congrArg (fun x => some (Instr.stgx x)) (OpStX_read _ o)

theorem RoundTrip.stv (o : OpSt) : RoundTrip.Statement (.stv o) :=
  roundTrip_of .st 0x04 _ _ rfl (by decide) rfl fun _ => by
    change decodeSt _ = _
    unfold decodeSt; rw [slotBits_op _ _ _ rfl (by decide)]
    exact congrArg (fun x => some (Instr.stv x)) (OpSt_read _ o)

theorem RoundTrip.stvv (o : OpSt) : RoundTrip.Statement (.stvv o) :=
  roundTrip_of .st 0x05 _ _ rfl (by decide) rfl fun _ => by
    change decodeSt _ = _
    unfold decodeSt; rw [slotBits_op _ _ _ rfl (by decide)]
    exact congrArg (fun x => some (Instr.stvv x)) (OpSt_read _ o)

theorem RoundTrip.stvs (o : OpSt) : RoundTrip.Statement (.stvs o) :=
  roundTrip_of .st 0x06 _ _ rfl (by decide) rfl fun _ => by
    change decodeSt _ = _
    unfold decodeSt; rw [slotBits_op _ _ _ rfl (by decide)]
    exact congrArg (fun x => some (Instr.stvs x)) (OpSt_read _ o)

theorem RoundTrip.stvx (o : OpStX) : RoundTrip.Statement (.stvx o) :=
  roundTrip_of .st 0x07 _ _ rfl (by decide) rfl fun _ => by
    change decodeSt _ = _
    unfold decodeSt; rw [slotBits_op _ _ _ rfl (by decide)]
    exact congrArg (fun x => some (Instr.stvx x)) (OpStX_read _ o)

theorem RoundTrip.stl (o : OpSt) : RoundTrip.Statement (.stl o) :=
  roundTrip_of .st 0x08 _ _ rfl (by decide) rfl fun _ => by
    change decodeSt _ = _
    unfold decodeSt; rw [slotBits_op _ _ _ rfl (by decide)]
    exact congrArg (fun x => some (Instr.stl x)) (OpSt_read _ o)

theorem RoundTrip.stk (o : OpSt) : RoundTrip.Statement (.stk o) :=
  roundTrip_of .st 0x09 _ _ rfl (by decide) rfl fun _ => by
    change decodeSt _ = _
    unfold decodeSt; rw [slotBits_op _ _ _ rfl (by decide)]
    exact congrArg (fun x => some (Instr.stk x)) (OpSt_read _ o)

theorem RoundTrip.dst (o : OpD) : RoundTrip.Statement (.dst o) :=
  roundTrip_of .st 0x0A _ _ rfl (by decide) rfl fun _ => by
    change decodeSt _ = _
    unfold decodeSt; rw [slotBits_op _ _ _ rfl (by decide)]
    exact congrArg (fun x => some (Instr.dst x)) (OpD_read _ o)

theorem RoundTrip.cebase (o : OpCeA) : RoundTrip.Statement (.cebase o) :=
  roundTrip_of .ce 0x01 _ _ rfl (by decide) rfl fun _ => by
    change decodeCe _ = _
    unfold decodeCe; rw [slotBits_op _ _ _ rfl (by decide)]
    exact congrArg (fun x => some (Instr.cebase x)) (OpCeA_read _ o)

theorem RoundTrip.celvl (o : OpCeA) : RoundTrip.Statement (.celvl o) :=
  roundTrip_of .ce 0x02 _ _ rfl (by decide) rfl fun _ => by
    change decodeCe _ = _
    unfold decodeCe; rw [slotBits_op _ _ _ rfl (by decide)]
    exact congrArg (fun x => some (Instr.celvl x)) (OpCeA_read _ o)

theorem RoundTrip.celen (o : OpCeA) : RoundTrip.Statement (.celen o) :=
  roundTrip_of .ce 0x03 _ _ rfl (by decide) rfl fun _ => by
    change decodeCe _ = _
    unfold decodeCe; rw [slotBits_op _ _ _ rfl (by decide)]
    exact congrArg (fun x => some (Instr.celen x)) (OpCeA_read _ o)

theorem RoundTrip.cego (o : OpCeA) : RoundTrip.Statement (.cego o) :=
  roundTrip_of .ce 0x04 _ _ rfl (by decide) rfl fun _ => by
    change decodeCe _ = _
    unfold decodeCe; rw [slotBits_op _ _ _ rfl (by decide)]
    exact congrArg (fun x => some (Instr.cego x)) (OpCeA_read _ o)

theorem RoundTrip.ceidx (o : OpCeA) : RoundTrip.Statement (.ceidx o) :=
  roundTrip_of .ce 0x05 _ _ rfl (by decide) rfl fun _ => by
    change decodeCe _ = _
    unfold decodeCe; rw [slotBits_op _ _ _ rfl (by decide)]
    exact congrArg (fun x => some (Instr.ceidx x)) (OpCeA_read _ o)

theorem RoundTrip.ceidxv (o : OpCeV) : RoundTrip.Statement (.ceidxv o) :=
  roundTrip_of .ce 0x06 _ _ rfl (by decide) rfl fun _ => by
    change decodeCe _ = _
    unfold decodeCe; rw [slotBits_op _ _ _ rfl (by decide)]
    exact congrArg (fun x => some (Instr.ceidxv x)) (OpCeV_read _ o)

theorem RoundTrip.ceidxend (o : OpCeA) : RoundTrip.Statement (.ceidxend o) :=
  roundTrip_of .ce 0x07 _ _ rfl (by decide) rfl fun _ => by
    change decodeCe _ = _
    unfold decodeCe; rw [slotBits_op _ _ _ rfl (by decide)]
    exact congrArg (fun x => some (Instr.ceidxend x)) (OpCeA_read _ o)

theorem RoundTrip.cestat (o : OpCeA) : RoundTrip.Statement (.cestat o) :=
  roundTrip_of .ce 0x08 _ _ rfl (by decide) rfl fun _ => by
    change decodeCe _ = _
    unfold decodeCe; rw [slotBits_op _ _ _ rfl (by decide)]
    exact congrArg (fun x => some (Instr.cestat x)) (OpCeA_read _ o)

theorem RoundTrip.cecancel (o : OpCeA) : RoundTrip.Statement (.cecancel o) :=
  roundTrip_of .ce 0x09 _ _ rfl (by decide) rfl fun _ => by
    change decodeCe _ = _
    unfold decodeCe; rw [slotBits_op _ _ _ rfl (by decide)]
    exact congrArg (fun x => some (Instr.cecancel x)) (OpCeA_read _ o)

theorem RoundTrip.ceresume (o : OpCeA) : RoundTrip.Statement (.ceresume o) :=
  roundTrip_of .ce 0x0A _ _ rfl (by decide) rfl fun _ => by
    change decodeCe _ = _
    unfold decodeCe; rw [slotBits_op _ _ _ rfl (by decide)]
    exact congrArg (fun x => some (Instr.ceresume x)) (OpCeA_read _ o)

theorem RoundTrip.cefab (o : OpCeA) : RoundTrip.Statement (.cefab o) :=
  roundTrip_of .ce 0x0B _ _ rfl (by decide) rfl fun _ => by
    change decodeCe _ = _
    unfold decodeCe; rw [slotBits_op _ _ _ rfl (by decide)]
    exact congrArg (fun x => some (Instr.cefab x)) (OpCeA_read _ o)

theorem RoundTrip.fork (o : OpSy) : RoundTrip.Statement (.fork o) :=
  roundTrip_of .sy 0x01 _ _ rfl (by decide) rfl fun _ => by
    change decodeSy _ = _
    unfold decodeSy; rw [slotBits_op _ _ _ rfl (by decide)]
    exact congrArg (fun x => some (Instr.fork x)) (OpSy_read _ o)

theorem decode_join (w : Nat) (h : w / 2 ^ 54 % 64 = 2) (hb : w / 2 ^ 31 % 2 = 0) :
    decodeSy w = some (.join (OpSy.ofFields (unpackFields OpSy.widths w))) := by
  unfold decodeSy; rw [h]; exact if_pos hb

theorem RoundTrip.join (o : OpSy) : RoundTrip.Statement (.join o) :=
  roundTrip_of .sy 0x02 _ _ rfl (by decide) rfl fun hw => by
    have hb : slotBits 0x02 OpSy.widths o.fields / 2 ^ 31 % 2 = 0 := by
      have hl := OpSy_imm 0x02 o
      replace hw : (o.sa == 0 && o.sb == 0 && o.imm == 0) = true := hw
      simp at hw
      generalize slotBits _ _ _ = w at hl ⊢
      rw [hw.2] at hl; simp at hl; omega
    exact (decode_join _ (slotBits_op _ _ _ rfl (by decide)) hb).trans
      (congrArg (fun x => some (Instr.join x)) (OpSy_read _ o))

theorem decode_joinPark (w : Nat) (h : w / 2 ^ 54 % 64 = 2) (hb : w / 2 ^ 31 % 2 = 1) :
    decodeSy w = some (.joinPark (OpSy.ofFields (unpackFields OpSy.widths w))) := by
  unfold decodeSy; rw [h]; exact if_neg (by omega)

theorem RoundTrip.joinPark (o : OpSy) : RoundTrip.Statement (.joinPark o) :=
  roundTrip_of .sy 0x02 _ _ rfl (by decide) rfl fun hw => by
    have hb : slotBits 0x02 OpSy.widths o.fields / 2 ^ 31 % 2 = 1 := by
      have hl := OpSy_imm 0x02 o
      replace hw : (o.sa == 0 && o.sb == 0 && bitsOf o.imm 31 24 == 0x80) = true := hw
      simp [bitsOf, Nat.shiftRight_eq_div_pow] at hw
      generalize slotBits _ _ _ = w at hl ⊢
      have := hw.2; omega
    exact (decode_joinPark _ (slotBits_op _ _ _ rfl (by decide)) hb).trans
      (congrArg (fun x => some (Instr.joinPark x)) (OpSy_read _ o))

theorem RoundTrip.exit (o : OpSy) : RoundTrip.Statement (.exit o) :=
  roundTrip_of .sy 0x03 _ _ rfl (by decide) rfl fun _ => by
    change decodeSy _ = _
    unfold decodeSy; rw [slotBits_op _ _ _ rfl (by decide)]
    exact congrArg (fun x => some (Instr.exit x)) (OpSy_read _ o)

theorem RoundTrip.yield (o : OpSy) : RoundTrip.Statement (.yield o) :=
  roundTrip_of .sy 0x04 _ _ rfl (by decide) rfl fun _ => by
    change decodeSy _ = _
    unfold decodeSy; rw [slotBits_op _ _ _ rfl (by decide)]
    exact congrArg (fun x => some (Instr.yield x)) (OpSy_read _ o)

theorem RoundTrip.ckpt (o : OpSy) : RoundTrip.Statement (.ckpt o) :=
  roundTrip_of .sy 0x05 _ _ rfl (by decide) rfl fun _ => by
    change decodeSy _ = _
    unfold decodeSy; rw [slotBits_op _ _ _ rfl (by decide)]
    exact congrArg (fun x => some (Instr.ckpt x)) (OpSy_read _ o)

theorem RoundTrip.spawn (o : OpSy) : RoundTrip.Statement (.spawn o) :=
  roundTrip_of .sy 0x06 _ _ rfl (by decide) rfl fun _ => by
    change decodeSy _ = _
    unfold decodeSy; rw [slotBits_op _ _ _ rfl (by decide)]
    exact congrArg (fun x => some (Instr.spawn x)) (OpSy_read _ o)

theorem decode_kill (w : Nat) (h : w / 2 ^ 54 % 64 = 7) (hb : w % 2 = 0) :
    decodeSy w = some (.kill (OpSy.ofFields (unpackFields OpSy.widths w))) := by
  unfold decodeSy; rw [h]; exact if_pos hb

theorem RoundTrip.kill (o : OpSy) : RoundTrip.Statement (.kill o) :=
  roundTrip_of .sy 0x07 _ _ rfl (by decide) rfl fun hw => by
    have hb : slotBits 0x07 OpSy.widths o.fields % 2 = 0 := by
      have hl := OpSy_imm 0x07 o
      replace hw : (o.sb == 0 && o.imm == 0) = true := hw
      simp at hw
      generalize slotBits _ _ _ = w at hl ⊢
      rw [hw.2] at hl; simp at hl; omega
    exact (decode_kill _ (slotBits_op _ _ _ rfl (by decide)) hb).trans
      (congrArg (fun x => some (Instr.kill x)) (OpSy_read _ o))

theorem decode_killL (w : Nat) (h : w / 2 ^ 54 % 64 = 7) (hb : w % 2 = 1) :
    decodeSy w = some (.killL (OpSy.ofFields (unpackFields OpSy.widths w))) := by
  unfold decodeSy; rw [h]; exact if_neg (by omega)

theorem RoundTrip.killL (o : OpSy) : RoundTrip.Statement (.killL o) :=
  roundTrip_of .sy 0x07 _ _ rfl (by decide) rfl fun hw => by
    have hb : slotBits 0x07 OpSy.widths o.fields % 2 = 1 := by
      have hl := OpSy_imm 0x07 o
      replace hw : (o.sb == 0 && o.imm == 1) = true := hw
      simp at hw
      generalize slotBits _ _ _ = w at hl ⊢
      rw [hw.2] at hl; simp at hl; omega
    exact (decode_killL _ (slotBits_op _ _ _ rfl (by decide)) hb).trans
      (congrArg (fun x => some (Instr.killL x)) (OpSy_read _ o))

theorem RoundTrip.binit (o : OpSyA) : RoundTrip.Statement (.binit o) :=
  roundTrip_of .sy 0x10 _ _ rfl (by decide) rfl fun _ => by
    change decodeSy _ = _
    unfold decodeSy; rw [slotBits_op _ _ _ rfl (by decide)]
    exact congrArg (fun x => some (Instr.binit x)) (OpSyA_read _ o)

theorem RoundTrip.barr (o : OpSyA) : RoundTrip.Statement (.barr o) :=
  roundTrip_of .sy 0x11 _ _ rfl (by decide) rfl fun _ => by
    change decodeSy _ = _
    unfold decodeSy; rw [slotBits_op _ _ _ rfl (by decide)]
    exact congrArg (fun x => some (Instr.barr x)) (OpSyA_read _ o)

theorem RoundTrip.bwait (o : OpSyA) : RoundTrip.Statement (.bwait o) :=
  roundTrip_of .sy 0x12 _ _ rfl (by decide) rfl fun _ => by
    change decodeSy _ = _
    unfold decodeSy; rw [slotBits_op _ _ _ rfl (by decide)]
    exact congrArg (fun x => some (Instr.bwait x)) (OpSyA_read _ o)

theorem RoundTrip.cewait (o : OpSyC) : RoundTrip.Statement (.cewait o) :=
  roundTrip_of .sy 0x13 _ _ rfl (by decide) rfl fun _ => by
    change decodeSy _ = _
    unfold decodeSy; rw [slotBits_op _ _ _ rfl (by decide)]
    exact congrArg (fun x => some (Instr.cewait x)) (OpSyC_read _ o)

theorem RoundTrip.fence (o : OpSy) : RoundTrip.Statement (.fence o) :=
  roundTrip_of .sy 0x14 _ _ rfl (by decide) rfl fun _ => by
    change decodeSy _ = _
    unfold decodeSy; rw [slotBits_op _ _ _ rfl (by decide)]
    exact congrArg (fun x => some (Instr.fence x)) (OpSy_read _ o)

theorem RoundTrip.gred (o : OpSy) : RoundTrip.Statement (.gred o) :=
  roundTrip_of .sy 0x15 _ _ rfl (by decide) rfl fun _ => by
    change decodeSy _ = _
    unfold decodeSy; rw [slotBits_op _ _ _ rfl (by decide)]
    exact congrArg (fun x => some (Instr.gred x)) (OpSy_read _ o)

theorem RoundTrip.aadd (o : OpSyA) : RoundTrip.Statement (.aadd o) :=
  roundTrip_of .sy 0x18 _ _ rfl (by decide) rfl fun _ => by
    change decodeSy _ = _
    unfold decodeSy; rw [slotBits_op _ _ _ rfl (by decide)]
    exact congrArg (fun x => some (Instr.aadd x)) (OpSyA_read _ o)

theorem RoundTrip.amin (o : OpSyA) : RoundTrip.Statement (.amin o) :=
  roundTrip_of .sy 0x19 _ _ rfl (by decide) rfl fun _ => by
    change decodeSy _ = _
    unfold decodeSy; rw [slotBits_op _ _ _ rfl (by decide)]
    exact congrArg (fun x => some (Instr.amin x)) (OpSyA_read _ o)

theorem RoundTrip.amax (o : OpSyA) : RoundTrip.Statement (.amax o) :=
  roundTrip_of .sy 0x1A _ _ rfl (by decide) rfl fun _ => by
    change decodeSy _ = _
    unfold decodeSy; rw [slotBits_op _ _ _ rfl (by decide)]
    exact congrArg (fun x => some (Instr.amax x)) (OpSyA_read _ o)

theorem RoundTrip.aand (o : OpSyA) : RoundTrip.Statement (.aand o) :=
  roundTrip_of .sy 0x1B _ _ rfl (by decide) rfl fun _ => by
    change decodeSy _ = _
    unfold decodeSy; rw [slotBits_op _ _ _ rfl (by decide)]
    exact congrArg (fun x => some (Instr.aand x)) (OpSyA_read _ o)

theorem RoundTrip.aor (o : OpSyA) : RoundTrip.Statement (.aor o) :=
  roundTrip_of .sy 0x1C _ _ rfl (by decide) rfl fun _ => by
    change decodeSy _ = _
    unfold decodeSy; rw [slotBits_op _ _ _ rfl (by decide)]
    exact congrArg (fun x => some (Instr.aor x)) (OpSyA_read _ o)

theorem RoundTrip.axor (o : OpSyA) : RoundTrip.Statement (.axor o) :=
  roundTrip_of .sy 0x1D _ _ rfl (by decide) rfl fun _ => by
    change decodeSy _ = _
    unfold decodeSy; rw [slotBits_op _ _ _ rfl (by decide)]
    exact congrArg (fun x => some (Instr.axor x)) (OpSyA_read _ o)

theorem RoundTrip.aswp (o : OpSyA) : RoundTrip.Statement (.aswp o) :=
  roundTrip_of .sy 0x1E _ _ rfl (by decide) rfl fun _ => by
    change decodeSy _ = _
    unfold decodeSy; rw [slotBits_op _ _ _ rfl (by decide)]
    exact congrArg (fun x => some (Instr.aswp x)) (OpSyA_read _ o)

theorem RoundTrip.acas (o : OpSyA) : RoundTrip.Statement (.acas o) :=
  roundTrip_of .sy 0x1F _ _ rfl (by decide) rfl fun _ => by
    change decodeSy _ = _
    unfold decodeSy; rw [slotBits_op _ _ _ rfl (by decide)]
    exact congrArg (fun x => some (Instr.acas x)) (OpSyA_read _ o)

theorem RoundTrip.vaadd (o : OpSyV) : RoundTrip.Statement (.vaadd o) :=
  roundTrip_of .sy 0x20 _ _ rfl (by decide) rfl fun _ => by
    change decodeSy _ = _
    unfold decodeSy; rw [slotBits_op _ _ _ rfl (by decide)]
    exact congrArg (fun x => some (Instr.vaadd x)) (OpSyV_read _ o)

theorem RoundTrip.vaor (o : OpSyV) : RoundTrip.Statement (.vaor o) :=
  roundTrip_of .sy 0x21 _ _ rfl (by decide) rfl fun _ => by
    change decodeSy _ = _
    unfold decodeSy; rw [slotBits_op _ _ _ rfl (by decide)]
    exact congrArg (fun x => some (Instr.vaor x)) (OpSyV_read _ o)

theorem RoundTrip.dmode (o : OpSy) : RoundTrip.Statement (.dmode o) :=
  roundTrip_of .sy 0x24 _ _ rfl (by decide) rfl fun _ => by
    change decodeSy _ = _
    unfold decodeSy; rw [slotBits_op _ _ _ rfl (by decide)]
    exact congrArg (fun x => some (Instr.dmode x)) (OpSy_read _ o)

theorem RoundTrip.dreg (o : OpSy) : RoundTrip.Statement (.dreg o) :=
  roundTrip_of .sy 0x25 _ _ rfl (by decide) rfl fun _ => by
    change decodeSy _ = _
    unfold decodeSy; rw [slotBits_op _ _ _ rfl (by decide)]
    exact congrArg (fun x => some (Instr.dreg x)) (OpSy_read _ o)

theorem RoundTrip.tapemk (o : OpSy) : RoundTrip.Statement (.tapemk o) :=
  roundTrip_of .sy 0x26 _ _ rfl (by decide) rfl fun _ => by
    change decodeSy _ = _
    unfold decodeSy; rw [slotBits_op _ _ _ rfl (by decide)]
    exact congrArg (fun x => some (Instr.tapemk x)) (OpSy_read _ o)

theorem RoundTrip.tune (o : OpSy) : RoundTrip.Statement (.tune o) :=
  roundTrip_of .sy 0x28 _ _ rfl (by decide) rfl fun _ => by
    change decodeSy _ = _
    unfold decodeSy; rw [slotBits_op _ _ _ rfl (by decide)]
    exact congrArg (fun x => some (Instr.tune x)) (OpSy_read _ o)

theorem RoundTrip.clkdiv (o : OpSy) : RoundTrip.Statement (.clkdiv o) :=
  roundTrip_of .sy 0x29 _ _ rfl (by decide) rfl fun _ => by
    change decodeSy _ = _
    unfold decodeSy; rw [slotBits_op _ _ _ rfl (by decide)]
    exact congrArg (fun x => some (Instr.clkdiv x)) (OpSy_read _ o)

theorem decode_ballastOff (w : Nat) (h : w / 2 ^ 54 % 64 = 42) (hb : w % 4 = 0) :
    decodeSy w = some (.ballastOff (OpSy.ofFields (unpackFields OpSy.widths w))) := by
  unfold decodeSy; rw [h]; simp only [hb]

theorem RoundTrip.ballastOff (o : OpSy) : RoundTrip.Statement (.ballastOff o) :=
  roundTrip_of .sy 0x2A _ _ rfl (by decide) rfl fun hw => by
    have hb : slotBits 0x2A OpSy.widths o.fields % 4 = 0 := by
      have hl := OpSy_imm 0x2A o
      replace hw : (o.sb == 0 && o.sa == 0 && o.imm == 0) = true := hw
      simp at hw
      generalize slotBits _ _ _ = w at hl ⊢
      rw [hw.2] at hl; simp at hl; omega
    exact (decode_ballastOff _ (slotBits_op _ _ _ rfl (by decide)) hb).trans
      (congrArg (fun x => some (Instr.ballastOff x)) (OpSy_read _ o))

theorem decode_ballastLevel (w : Nat) (h : w / 2 ^ 54 % 64 = 42) (hb : w % 4 = 1) :
    decodeSy w = some (.ballastLevel (OpSy.ofFields (unpackFields OpSy.widths w))) := by
  unfold decodeSy; rw [h]; simp only [hb]

theorem RoundTrip.ballastLevel (o : OpSy) : RoundTrip.Statement (.ballastLevel o) :=
  roundTrip_of .sy 0x2A _ _ rfl (by decide) rfl fun hw => by
    have hb : slotBits 0x2A OpSy.widths o.fields % 4 = 1 := by
      have hl := OpSy_imm 0x2A o
      replace hw : (o.sb == 0 && o.imm == 1) = true := hw
      simp at hw
      generalize slotBits _ _ _ = w at hl ⊢
      rw [hw.2] at hl; simp at hl; omega
    exact (decode_ballastLevel _ (slotBits_op _ _ _ rfl (by decide)) hb).trans
      (congrArg (fun x => some (Instr.ballastLevel x)) (OpSy_read _ o))

theorem decode_ballastAuto (w : Nat) (h : w / 2 ^ 54 % 64 = 42) (hb : w % 4 = 2) :
    decodeSy w = some (.ballastAuto (OpSy.ofFields (unpackFields OpSy.widths w))) := by
  unfold decodeSy; rw [h]; simp only [hb]

theorem RoundTrip.ballastAuto (o : OpSy) : RoundTrip.Statement (.ballastAuto o) :=
  roundTrip_of .sy 0x2A _ _ rfl (by decide) rfl fun hw => by
    have hb : slotBits 0x2A OpSy.widths o.fields % 4 = 2 := by
      have hl := OpSy_imm 0x2A o
      replace hw : (o.sb == 0 && o.sa == 0 && o.imm == 2) = true := hw
      simp at hw
      generalize slotBits _ _ _ = w at hl ⊢
      rw [hw.2] at hl; simp at hl; omega
    exact (decode_ballastAuto _ (slotBits_op _ _ _ rfl (by decide)) hb).trans
      (congrArg (fun x => some (Instr.ballastAuto x)) (OpSy_read _ o))

theorem RoundTrip.trap (o : OpSy) : RoundTrip.Statement (.trap o) :=
  roundTrip_of .sy 0x30 _ _ rfl (by decide) rfl fun _ => by
    change decodeSy _ = _
    unfold decodeSy; rw [slotBits_op _ _ _ rfl (by decide)]
    exact congrArg (fun x => some (Instr.trap x)) (OpSy_read _ o)

theorem RoundTrip.eret (o : OpSy) : RoundTrip.Statement (.eret o) :=
  roundTrip_of .sy 0x31 _ _ rfl (by decide) rfl fun _ => by
    change decodeSy _ = _
    unfold decodeSy; rw [slotBits_op _ _ _ rfl (by decide)]
    exact congrArg (fun x => some (Instr.eret x)) (OpSy_read _ o)

theorem RoundTrip.statq (o : OpSy) : RoundTrip.Statement (.statq o) :=
  roundTrip_of .sy 0x32 _ _ rfl (by decide) rfl fun _ => by
    change decodeSy _ = _
    unfold decodeSy; rw [slotBits_op _ _ _ rfl (by decide)]
    exact congrArg (fun x => some (Instr.statq x)) (OpSy_read _ o)

theorem RoundTrip.waitt (o : OpSy) : RoundTrip.Statement (.waitt o) :=
  roundTrip_of .sy 0x33 _ _ rfl (by decide) rfl fun _ => by
    change decodeSy _ = _
    unfold decodeSy; rw [slotBits_op _ _ _ rfl (by decide)]
    exact congrArg (fun x => some (Instr.waitt x)) (OpSy_read _ o)

theorem RoundTrip.event (o : OpSy) : RoundTrip.Statement (.event o) :=
  roundTrip_of .sy 0x34 _ _ rfl (by decide) rfl fun _ => by
    change decodeSy _ = _
    unfold decodeSy; rw [slotBits_op _ _ _ rfl (by decide)]
    exact congrArg (fun x => some (Instr.event x)) (OpSy_read _ o)

theorem decode_steptag (w : Nat) (h : w / 2 ^ 54 % 64 = 53) (hb : w / 2 ^ 8 % 2 = 0) :
    decodeSy w = some (.steptag (OpSy.ofFields (unpackFields OpSy.widths w))) := by
  unfold decodeSy; rw [h]; exact if_pos hb

theorem RoundTrip.steptag (o : OpSy) : RoundTrip.Statement (.steptag o) :=
  roundTrip_of .sy 0x35 _ _ rfl (by decide) rfl fun hw => by
    have hb : slotBits 0x35 OpSy.widths o.fields / 2 ^ 8 % 2 = 0 := by
      have hl := OpSy_imm 0x35 o
      replace hw : (o.sb == 0 && o.sa == 0 && bitsOf o.imm 31 6 == 0) = true := hw
      simp [bitsOf, Nat.shiftRight_eq_div_pow] at hw
      generalize slotBits _ _ _ = w at hl ⊢
      have := hw.2; omega
    exact (decode_steptag _ (slotBits_op _ _ _ rfl (by decide)) hb).trans
      (congrArg (fun x => some (Instr.steptag x)) (OpSy_read _ o))

theorem decode_steptagW (w : Nat) (h : w / 2 ^ 54 % 64 = 53) (hb : w / 2 ^ 8 % 2 = 1) :
    decodeSy w = some (.steptagW (OpSy.ofFields (unpackFields OpSy.widths w))) := by
  unfold decodeSy; rw [h]; exact if_neg (by omega)

theorem RoundTrip.steptagW (o : OpSy) : RoundTrip.Statement (.steptagW o) :=
  roundTrip_of .sy 0x35 _ _ rfl (by decide) rfl fun hw => by
    have hb : slotBits 0x35 OpSy.widths o.fields / 2 ^ 8 % 2 = 1 := by
      have hl := OpSy_imm 0x35 o
      replace hw : (o.sb == 0 && bitsOf o.imm 31 6 == 4) = true := hw
      simp [bitsOf, Nat.shiftRight_eq_div_pow] at hw
      generalize slotBits _ _ _ = w at hl ⊢
      have := hw.2; omega
    exact (decode_steptagW _ (slotBits_op _ _ _ rfl (by decide)) hb).trans
      (congrArg (fun x => some (Instr.steptagW x)) (OpSy_read _ o))

theorem RoundTrip.bundleIssue (c : Nat) (x : Nat) : RoundTrip.Statement (.bundleIssue c x) := roundTrip_none rfl

theorem RoundTrip.landingArrival (m : Nat) : RoundTrip.Statement (.landingArrival m) := roundTrip_none rfl

theorem RoundTrip.nop (sl : Slot) : RoundTrip.Statement (.nop sl) := by
  intro sl' w _ h
  cases h
  exact ⟨by cases sl <;> rfl, by decide⟩

theorem RoundTrip.plog (op : BitVec 3) (kd : BitVec 4) (ka : BitVec 4) (kb : BitVec 4) : RoundTrip.Statement (.plog op kd ka kb) := roundTrip_none rfl

theorem RoundTrip.ckptTimerExpire (c : Nat) (x : Nat) : RoundTrip.Statement (.ckptTimerExpire c x) := roundTrip_none rfl

theorem RoundTrip.strandSaveDone (c : Nat) (x : Nat) : RoundTrip.Statement (.strandSaveDone c x) := roundTrip_none rfl

theorem RoundTrip.strandRestore (c : Nat) (x : Nat) : RoundTrip.Statement (.strandRestore c x) := roundTrip_none rfl

theorem RoundTrip.contextTakeWork (c : Nat) (x : Nat) : RoundTrip.Statement (.contextTakeWork c x) := roundTrip_none rfl

theorem RoundTrip.gangAdmit (l : Nat) : RoundTrip.Statement (.gangAdmit l) := roundTrip_none rfl

theorem RoundTrip.dispatchRange (l : Nat) : RoundTrip.Statement (.dispatchRange l) := roundTrip_none rfl

theorem RoundTrip.preemptRequest (l : Nat) : RoundTrip.Statement (.preemptRequest l) := roundTrip_none rfl

theorem RoundTrip.joinWordUpdate (m : Nat) : RoundTrip.Statement (.joinWordUpdate m) := roundTrip_none rfl

theorem RoundTrip.cubeSeqBeat (c : Nat) : RoundTrip.Statement (.cubeSeqBeat c) := roundTrip_none rfl

theorem RoundTrip.matrixBeat (c : Nat) : RoundTrip.Statement (.matrixBeat c) := roundTrip_none rfl

theorem RoundTrip.heatRefill (c : Nat) : RoundTrip.Statement (.heatRefill c) := roundTrip_none rfl

theorem RoundTrip.copyIteration (c : Nat) (ch : Nat) : RoundTrip.Statement (.copyIteration c ch) := roundTrip_none rfl

theorem RoundTrip.vaultNetRequest (m : Nat) : RoundTrip.Statement (.vaultNetRequest m) := roundTrip_none rfl

theorem RoundTrip.hbmRequest (m : Nat) : RoundTrip.Statement (.hbmRequest m) := roundTrip_none rfl

theorem RoundTrip.atomicRequest (m : Nat) : RoundTrip.Statement (.atomicRequest m) := roundTrip_none rfl

theorem RoundTrip.atomicRetry (m : Nat) : RoundTrip.Statement (.atomicRetry m) := roundTrip_none rfl

theorem RoundTrip.atomicReservationExpire (u : Nat) (r : Nat) : RoundTrip.Statement (.atomicReservationExpire u r) := roundTrip_none rfl

theorem RoundTrip.vectorAtomicElement (m : Nat) : RoundTrip.Statement (.vectorAtomicElement m) := roundTrip_none rfl

theorem RoundTrip.adjointAccumulate (m : Nat) : RoundTrip.Statement (.adjointAccumulate m) := roundTrip_none rfl

theorem RoundTrip.adjointExchange (m : Nat) : RoundTrip.Statement (.adjointExchange m) := roundTrip_none rfl

theorem RoundTrip.barrierRequest (m : Nat) : RoundTrip.Statement (.barrierRequest m) := roundTrip_none rfl

theorem RoundTrip.barrierPhaseReport (m : Nat) : RoundTrip.Statement (.barrierPhaseReport m) := roundTrip_none rfl

theorem RoundTrip.gredContribution (m : Nat) : RoundTrip.Statement (.gredContribution m) := roundTrip_none rfl

theorem RoundTrip.raceReport (m : Nat) : RoundTrip.Statement (.raceReport m) := roundTrip_none rfl

theorem RoundTrip.tlbFill (q : Nat) : RoundTrip.Statement (.tlbFill q) := roundTrip_none rfl

theorem RoundTrip.pageWalkDone (q : Nat) : RoundTrip.Statement (.pageWalkDone q) := roundTrip_none rfl

theorem RoundTrip.stampScrubPass (st : Nat) : RoundTrip.Statement (.stampScrubPass st) := roundTrip_none rfl

theorem RoundTrip.patrolScrub (v : Nat) (w : Nat) : RoundTrip.Statement (.patrolScrub v w) := roundTrip_none rfl

theorem RoundTrip.crossingRatioSwitch (c : Nat) : RoundTrip.Statement (.crossingRatioSwitch c) := roundTrip_none rfl

theorem RoundTrip.railCodeStep (q : Nat) : RoundTrip.Statement (.railCodeStep q) := roundTrip_none rfl

theorem RoundTrip.railDivisorDone (q : Nat) : RoundTrip.Statement (.railDivisorDone q) := roundTrip_none rfl

theorem RoundTrip.sampleBoundary (st : Nat) : RoundTrip.Statement (.sampleBoundary st) := roundTrip_none rfl

theorem RoundTrip.sensorSample (st : Nat) (temps : List Nat) : RoundTrip.Statement (.sensorSample st temps) := roundTrip_none rfl

theorem RoundTrip.ballastFloorUpdate (c : Nat) : RoundTrip.Statement (.ballastFloorUpdate c) := roundTrip_none rfl

theorem RoundTrip.ilimUpdate (c : Nat) : RoundTrip.Statement (.ilimUpdate c) := roundTrip_none rfl

theorem RoundTrip.eventPost (m : Nat) : RoundTrip.Statement (.eventPost m) := roundTrip_none rfl

theorem RoundTrip.lqEntryRead (q : Nat) : RoundTrip.Statement (.lqEntryRead q) := roundTrip_none rfl

theorem RoundTrip.rstStack (st : Nat) : RoundTrip.Statement (.rstStack st) := roundTrip_none rfl

theorem RoundTrip.stackBringup (st : Nat) : RoundTrip.Statement (.stackBringup st) := roundTrip_none rfl

theorem RoundTrip.stackRelease (st : Nat) : RoundTrip.Statement (.stackRelease st) := roundTrip_none rfl

theorem RoundTrip.attest (pa : Nat) : RoundTrip.Statement (.attest pa) := roundTrip_none rfl

theorem RoundTrip.ident (pa : Nat) : RoundTrip.Statement (.ident pa) := roundTrip_none rfl

theorem RoundTrip.mclog (pa : Nat) : RoundTrip.Statement (.mclog pa) := roundTrip_none rfl

theorem RoundTrip.fwload (pa : Nat) : RoundTrip.Statement (.fwload pa) := roundTrip_none rfl

theorem RoundTrip.groupDrainEnd (g : Nat) : RoundTrip.Statement (.groupDrainEnd g) := roundTrip_none rfl

theorem RoundTrip.rereqSend (r : Nat) : RoundTrip.Statement (.rereqSend r) := roundTrip_none rfl

theorem RoundTrip.rtoExpire (m : Nat) : RoundTrip.Statement (.rtoExpire m) := roundTrip_none rfl

theorem RoundTrip.ranklost (r : Nat) (why : Nat) : RoundTrip.Statement (.ranklost r why) := roundTrip_none rfl

theorem RoundTrip.coreCycle (c : Nat) : RoundTrip.Statement (.coreCycle c) := roundTrip_none rfl

theorem RoundTrip.registerWindowAccess (m : Nat) : RoundTrip.Statement (.registerWindowAccess m) := roundTrip_none rfl

theorem RoundTrip.resultLand (c : Nat) (x : Nat) : RoundTrip.Statement (.resultLand c x) := roundTrip_none rfl

theorem RoundTrip.telemetryRecord : RoundTrip.Statement (.telemetryRecord) := roundTrip_none rfl

theorem RoundTrip.slackDwell : RoundTrip.Statement (.slackDwell) := roundTrip_none rfl

theorem RoundTrip.vbusFlitRetry (st : Nat) (lane : Nat) : RoundTrip.Statement (.vbusFlitRetry st lane) := roundTrip_none rfl

theorem RoundTrip.layerRuntimeFail (c : Nat) (layer : Nat) : RoundTrip.Statement (.layerRuntimeFail c layer) := roundTrip_none rfl

theorem RoundTrip.clusterFail (q : Nat) (cause : Nat) : RoundTrip.Statement (.clusterFail q cause) := roundTrip_none rfl

theorem RoundTrip.stackFail (st : Nat) (cause : Nat) : RoundTrip.Statement (.stackFail st cause) := roundTrip_none rfl

theorem RoundTrip.eventBufferDrain : RoundTrip.Statement (.eventBufferDrain) := roundTrip_none rfl

theorem RoundTrip.lqProdWrite (q : Nat) (v : BitVec 64) : RoundTrip.Statement (.lqProdWrite q v) := roundTrip_none rfl

theorem RoundTrip.pkgKill (v : BitVec 64) : RoundTrip.Statement (.pkgKill v) := roundTrip_none rfl

theorem RoundTrip.pkgResume (v : BitVec 64) : RoundTrip.Statement (.pkgResume v) := roundTrip_none rfl

theorem RoundTrip.tlbInvAll (q : Nat) : RoundTrip.Statement (.tlbInvAll q) := roundTrip_none rfl

theorem RoundTrip.tlbInvAsid (q : Nat) (asid : Nat) : RoundTrip.Statement (.tlbInvAsid q asid) := roundTrip_none rfl

theorem RoundTrip.tlbInvPage (q : Nat) (asid : Nat) (vpn : Nat) : RoundTrip.Statement (.tlbInvPage q asid vpn) := roundTrip_none rfl

theorem RoundTrip.pkgTlbinvAll : RoundTrip.Statement (.pkgTlbinvAll) := roundTrip_none rfl

theorem RoundTrip.pkgTlbinvAsid (asid : Nat) : RoundTrip.Statement (.pkgTlbinvAsid asid) := roundTrip_none rfl

theorem RoundTrip.pkgTlbinvPage (asid : Nat) (vpn : Nat) : RoundTrip.Statement (.pkgTlbinvPage asid vpn) := roundTrip_none rfl

theorem RoundTrip.swapreqWrite (c : Nat) : RoundTrip.Statement (.swapreqWrite c) := roundTrip_none rfl

theorem RoundTrip.govMinWrite (st : Nat) (v : BitVec 64) : RoundTrip.Statement (.govMinWrite st v) := roundTrip_none rfl

theorem RoundTrip.featEnWrite (n : Nat) (v : BitVec 64) : RoundTrip.Statement (.featEnWrite n v) := roundTrip_none rfl

theorem RoundTrip.ptimeOfsWrite (v : BitVec 64) : RoundTrip.Statement (.ptimeOfsWrite v) := roundTrip_none rfl

theorem RoundTrip.rstWarm : RoundTrip.Statement (.rstWarm) := roundTrip_none rfl

theorem RoundTrip.rstCold : RoundTrip.Statement (.rstCold) := roundTrip_none rfl

theorem RoundTrip.powerOn : RoundTrip.Statement (.powerOn) := roundTrip_none rfl

theorem RoundTrip.perst : RoundTrip.Statement (.perst) := roundTrip_none rfl

theorem RoundTrip.pcieHotReset : RoundTrip.Statement (.pcieHotReset) := roundTrip_none rfl

theorem RoundTrip.bxcFirmwareBoot : RoundTrip.Statement (.bxcFirmwareBoot) := roundTrip_none rfl

theorem RoundTrip.hbmBridgeTraining : RoundTrip.Statement (.hbmBridgeTraining) := roundTrip_none rfl

theorem RoundTrip.hostLinkTraining : RoundTrip.Statement (.hostLinkTraining) := roundTrip_none rfl

theorem RoundTrip.hostWindowRead (pa : Nat) (n : Nat) : RoundTrip.Statement (.hostWindowRead pa n) := roundTrip_none rfl

theorem RoundTrip.hostWindowWrite (pa : Nat) (n : Nat) (v : BitVec 64) : RoundTrip.Statement (.hostWindowWrite pa n v) := roundTrip_none rfl

theorem RoundTrip.bridgeTrimmedHeader (m : Nat) : RoundTrip.Statement (.bridgeTrimmedHeader m) := roundTrip_none rfl

theorem RoundTrip.grpGo (g : Nat) : RoundTrip.Statement (.grpGo g) := roundTrip_none rfl

theorem RoundTrip.groupRetrainDone (g : Nat) (ok : Bool) (trimx : Bool) : RoundTrip.Statement (.groupRetrainDone g ok trimx) := roundTrip_none rfl

theorem RoundTrip.rankUpdAll : RoundTrip.Statement (.rankUpdAll) := roundTrip_none rfl

theorem RoundTrip.rankUpdOne (r : Nat) : RoundTrip.Statement (.rankUpdOne r) := roundTrip_none rfl

theorem RoundTrip.rwBind (w : Nat) : RoundTrip.Statement (.rwBind w) := roundTrip_none rfl

theorem RoundTrip.rwUnbind (w : Nat) : RoundTrip.Statement (.rwUnbind w) := roundTrip_none rfl

theorem RoundTrip.rwSnapshot (w : Nat) : RoundTrip.Statement (.rwSnapshot w) := roundTrip_none rfl

theorem RoundTrip.write (p : Packet) : RoundTrip.Statement (.write p) := roundTrip_none rfl

theorem RoundTrip.reduce (p : Packet) : RoundTrip.Statement (.reduce p) := roundTrip_none rfl

theorem RoundTrip.read (p : Packet) : RoundTrip.Statement (.read p) := roundTrip_none rfl

theorem RoundTrip.readresp (p : Packet) : RoundTrip.Statement (.readresp p) := roundTrip_none rfl

theorem RoundTrip.ack (p : Packet) : RoundTrip.Statement (.ack p) := roundTrip_none rfl

theorem RoundTrip.rereq (p : Packet) : RoundTrip.Statement (.rereq p) := roundTrip_none rfl

theorem RoundTrip.result (p : Packet) : RoundTrip.Statement (.result p) := roundTrip_none rfl

theorem RoundTrip.resultIncomplete (p : Packet) : RoundTrip.Statement (.resultIncomplete p) := roundTrip_none rfl

theorem RoundTrip.trimmedHeader (p : Packet) : RoundTrip.Statement (.trimmedHeader p) := roundTrip_none rfl

theorem RoundTrip.cxlWriteFail (g : Nat) (off : Nat) : RoundTrip.Statement (.cxlWriteFail g off) := roundTrip_none rfl

theorem RoundTrip.registerWrite (c : Nat) (x : Nat) (idx : Nat) (v : BitVec 64) : RoundTrip.Statement (.registerWrite c x idx v) := roundTrip_none rfl

theorem RoundTrip.softError (place : Place) (ue : Bool) : RoundTrip.Statement (.softError place ue) := roundTrip_none rfl

theorem RoundTrip.bridgeRetransmission (m : Nat) : RoundTrip.Statement (.bridgeRetransmission m) := roundTrip_none rfl

theorem RoundTrip.pkgRootWrite (n : Nat) (v : BitVec 64) : RoundTrip.Statement (.pkgRootWrite n v) := roundTrip_none rfl

theorem RoundTrip.ptimeCfgWrite (v : BitVec 64) : RoundTrip.Statement (.ptimeCfgWrite v) := roundTrip_none rfl

theorem RoundTrip.ieee1588EventMessage (g : Nat) (t : Nat) : RoundTrip.Statement (.ieee1588EventMessage g t) := roundTrip_none rfl

end Sys2Proof.Laws
end

