-- ==== Sys2Proof/Laws/Vector.lean ====
section
/-! SUPPORT. The elements of a vector register: the bits of a register with one element replaced and of one made of its
elements, and what an element-wise instruction does. -/

namespace Sys2Proof.Machine

/-- Bit n of a register whose element i is replaced. -/
theorem getLsbD_setElem (w i e : Nat) (v : BitVec 2048) (n : Nat) (hw : 0 < w) (hi : w * i + w ≤ 2048) (hn : n < 2048) :
    (setElem w i e v).getLsbD n = if n / w = i then (e % 2 ^ w).testBit (n % w) else v.getLsbD n := by
  have hv := v.isLt
  set V := v.toNat with hV
  have hL : V % 2 ^ (w * i) < 2 ^ (w * i) := Nat.mod_lt _ (by positivity)
  have hE : V / 2 ^ (w * i) % 2 ^ w < 2 ^ w := Nat.mod_lt _ (by positivity)
  have he : e % 2 ^ w < 2 ^ w := Nat.mod_lt _ (by positivity)
  have hd : V = 2 ^ (w * i) * (2 ^ w * (V / 2 ^ (w * i) / 2 ^ w) + V / 2 ^ (w * i) % 2 ^ w) + V % 2 ^ (w * i) := by
    rw [Nat.div_add_mod, Nat.div_add_mod]
  have hN : V - elem w i v * 2 ^ (w * i) + e % 2 ^ w * 2 ^ (w * i)
      = 2 ^ (w * i) * (2 ^ w * (V / 2 ^ (w * i) / 2 ^ w) + e % 2 ^ w) + V % 2 ^ (w * i) := by
    have h1 : elem w i v = V / 2 ^ (w * i) % 2 ^ w := rfl
    rw [h1]
    generalize V / 2 ^ (w * i) % 2 ^ w = E at *
    generalize V / 2 ^ (w * i) / 2 ^ w = H at *
    generalize V % 2 ^ (w * i) = L at *
    rw [hd]
    generalize 2 ^ (w * i) = P
    have h2 : P * (2 ^ w * H + E) + L = P * (2 ^ w * H) + L + E * P := by ring
    rw [h2, Nat.add_sub_cancel]
    ring
  have hbit : (setElem w i e v).getLsbD n
      = (2 ^ (w * i) * (2 ^ w * (V / 2 ^ (w * i) / 2 ^ w) + e % 2 ^ w) + V % 2 ^ (w * i)).testBit n := by
    rw [setElem, ← hV, hN, BitVec.getLsbD_ofNat]
    simp [hn]
  have hold : v.getLsbD n = V.testBit n := rfl
  rw [hbit, hold, Nat.testBit_two_pow_mul_add _ hL]
  conv_rhs => rw [hd]
  rw [Nat.testBit_two_pow_mul_add _ hL]
  by_cases h : n < w * i
  · have : n / w ≠ i := by
      intro h'; have := Nat.div_add_mod n w; rw [h'] at this; omega
    simp [h, this]
  · simp only [h, if_false]
    rw [Nat.testBit_two_pow_mul_add _ he, Nat.testBit_two_pow_mul_add _ hE]
    by_cases h2 : n - w * i < w
    · have h3 : n / w = i := by
        have : n = w * i + (n - w * i) := by omega
        rw [this, Nat.mul_add_div hw, Nat.div_eq_of_lt h2, Nat.add_zero]
      have h4 : n % w = n - w * i := by have := Nat.div_add_mod n w; rw [h3] at this; omega
      simp [h2, h3, h4]
    · have h3 : n / w ≠ i := by
        intro h'; have := Nat.div_add_mod n w; rw [h'] at this; have := Nat.mod_lt n hw; omega
      simp [h2, h3]

/-- Bit n of a number made of elements. -/
theorem testBit_join (w : Nat) (l : List Nat) (n : Nat) (hw : 0 < w) :
    (l.foldr (fun e a => e % 2 ^ w + 2 ^ w * a) 0).testBit n = (l.getD (n / w) 0 % 2 ^ w).testBit (n % w) := by
  induction l generalizing n with
  | nil => simp
  | cons e t ih =>
    have he : e % 2 ^ w < 2 ^ w := Nat.mod_lt _ (by positivity)
    rw [List.foldr_cons, Nat.add_comm, Nat.testBit_two_pow_mul_add _ he]
    by_cases h : n < w
    · simp [h, Nat.div_eq_of_lt h, Nat.mod_eq_of_lt h]
    · have h1 : n / w = (n - w) / w + 1 := by
        conv_lhs => rw [show n = n - w + w by omega, Nat.add_div_right _ hw]
      have h2 : (n - w) % w = n % w := by
        conv_rhs => rw [show n = n - w + w by omega, Nat.add_mod_right]
      simp only [h, if_false, h1, List.getD_cons_succ]
      rw [ih, h2]

theorem getLsbD_joinElems (w : Nat) (l : List Nat) (n : Nat) (hw : 0 < w) (hn : n < 2048) :
    (joinElems w l).getLsbD n = (l.getD (n / w) 0 % 2 ^ w).testBit (n % w) := by
  rw [joinElems, BitVec.getLsbD_ofNat, testBit_join w l n hw]
  simp [hn]

/-- Bit n after elements have been replaced, each by the value of its number. -/
theorem getLsbD_foldl_setElem (w : Nat) (f : Nat → FRes) (is : List Nat) (v : BitVec 2048) (n : Nat) (hw : 0 < w)
    (hi : ∀ i ∈ is, w * i + w ≤ 2048) (hn : n < 2048) :
    ((is.map fun i => (i, f i)).foldl (fun v p => setElem w p.1 p.2.bits v) v).getLsbD n
      = if n / w ∈ is then ((f (n / w)).bits % 2 ^ w).testBit (n % w) else v.getLsbD n := by
  induction is generalizing v with
  | nil => simp
  | cons i t ih =>
    rw [List.map_cons, List.foldl_cons, ih _ fun j hj => hi j (List.mem_cons_of_mem _ hj),
      getLsbD_setElem _ _ _ _ _ hw (hi i (List.mem_cons_self ..)) hn]
    by_cases h1 : n / w ∈ t
    · simp [h1]
    · by_cases h2 : n / w = i
      · subst h2; simp [h1]
      · simp [h1, h2]

/-- The elements of a register as its bits. -/
theorem testBit_elem (w i : Nat) (v : BitVec 2048) (b : Nat) (hb : b < w) : (elem w i v).testBit b = v.getLsbD (w * i + b) := by
  rw [elem, Nat.testBit_mod_two_pow, Nat.testBit_div_two_pow, BitVec.getLsbD]
  simp [hb, Nat.add_comm]

/-- An element type that fills a register. -/
def ETy.fills (t : ETy) : Prop := 0 < t.w ∧ t.w * t.count = 2048

theorem eTy_fills (n : Nat) (nf : Fmt) : (eTy n nf).fills := by
  unfold eTy ETy.fills ETy.count
  split <;> (try split) <;> exact ⟨by norm_num, by norm_num⟩

/-- The register after an element-wise write, element by element (R172). -/
theorem merged_eq (g : BitVec 64) (t : ETy) (old : BitVec 2048) (f : Nat → FRes) (ht : t.fills) :
    (((admitted g t.w t.count).map fun i => (i, f i)).foldl (fun v p => setElem t.w p.1 p.2.bits v) old)
      = merged g t old fun i => some (f i) := by
  obtain ⟨hw, hc⟩ := ht
  apply BitVec.eq_of_getLsbD_eq
  intro n hn
  have hlt : n / t.w < t.count := by
    rw [Nat.div_lt_iff_lt_mul hw, Nat.mul_comm]; omega
  rw [getLsbD_foldl_setElem _ _ _ _ _ hw ?_ hn, merged, getLsbD_joinElems _ _ _ hw hn]
  · have hm : n / t.w ∈ admitted g t.w t.count ↔ admits g t.w (n / t.w) = true := by simp [admitted, hlt]
    have hg : ((List.range t.count).map fun i => if admits g t.w i then (f i).bits else elem t.w i old).getD (n / t.w) 0
        = if admits g t.w (n / t.w) then (f (n / t.w)).bits else elem t.w (n / t.w) old := by
      simp [List.getD_eq_getElem?_getD, hlt]
    rw [hg]
    by_cases h : admits g t.w (n / t.w) = true
    · simp [hm, h]
    · simp only [hm, h, if_false, Bool.false_eq_true]
      have he : elem t.w (n / t.w) old % 2 ^ t.w = elem t.w (n / t.w) old := Nat.mod_mod ..
      rw [he, testBit_elem _ _ _ _ (Nat.mod_lt n hw), Nat.div_add_mod]
  · intro i hi
    have : i < t.count := by simp [admitted] at hi; exact hi.1
    calc t.w * i + t.w = t.w * (i + 1) := by ring
      _ ≤ t.w * t.count := Nat.mul_le_mul_left _ this
      _ = 2048 := hc

theorem written_eq (g : BitVec 64) (t : ETy) (f : Nat → FRes) :
    written g t (fun i => some (f i)) = (admitted g t.w t.count).map f := by
  simp only [written, admitted]
  induction (List.range t.count).filter (admits g t.w) with
  | nil => rfl
  | cons a l ih => simp [ih]

/-- A statistics record changes one core's queue only. -/
theorem stat_ctx (s : State) (c x src obj ev n : Nat) (pc : BitVec 64) (d y : Nat) :
    (s.stat c x src obj ev n pc).ctx d y = s.ctx d y := rfl

theorem stat_fifo (s : State) (c x src obj ev n : Nat) (pc : BitVec 64) (d : Nat) :
    ((s.stat c x src obj ev n pc).core d).fifo = (s.core d).fifo := by
  unfold State.stat
  by_cases h : d = c
  · subst h
    rw [State.core_modCore_same]
    split <;> (try split) <;> (try split) <;> rfl
  · rw [State.core_modCore_ne _ _ _ _ h]

theorem noteVec_ctx (s : State) (c x obj d y : Nat) : (s.noteVec c x obj).ctx d y = (s.setNfs c x 2).ctx d y := rfl

theorem noteVec_cur (s : State) (c x obj : Nat) : (s.noteVec c x obj).cur = s.cur := rfl

theorem noteVec_fifo (s : State) (c x obj d : Nat) : ((s.noteVec c x obj).core d).fifo = (s.core d).fifo := by
  unfold State.noteVec
  rw [stat_fifo]
  rfl

theorem machine_refl (s : State) : machineSame s s := rfl

theorem machineSame.setCtx {s u : State} (h : machineSame s u) (c x : Nat) (k : Ctx) : machineSame s (u.setCtx c x k) := by
  unfold machineSame at h ⊢
  exact h

theorem machineSame.modCtx {s u : State} (h : machineSame s u) (c x : Nat) (f : Ctx → Ctx) : machineSame s (u.modCtx c x f) :=
  h.setCtx ..

/-- A statistics record rests on no context. -/
theorem stat_machine (s u : State) (h : machineSame s u) (c x src obj ev n : Nat) (pc : BitVec 64) :
    machineSame (s.stat c x src obj ev n pc) (u.stat c x src obj ev n pc) := by
  unfold machineSame at h
  rw [← h]
  rfl

theorem freed_hold (k : Ctx) (ls : List Nat) (e : Dst) : (k.freed ls).hold e = k.hold e := by
  unfold Ctx.hold; cases e <;> rfl

/-- A context after a result with flags and NFS.VEC. -/
def Ctx.outcome (k : Ctx) (d : Dst) (v : BitVec 2048) (lat cy ti : Nat) (f : BitVec 5) : Ctx :=
  ((if lat ≤ 1 then k.put d v none else k.pending d v (.cycle cy ti) none).flagged f).noted true

theorem outcome_hold (k : Ctx) (d : Dst) (v : BitVec 2048) (lat cy ti : Nat) (f : BitVec 5) (hp : k.pend = []) (hd : d.ok)
    (hv : d.fits v) (e : Dst) : (k.outcome d v lat cy ti f).hold e = if e = d ∧ d.fixed = false then v else k.hold e := by
  rw [← hold_result k d v lat cy ti hp hd hv e]
  unfold Ctx.outcome Ctx.hold
  cases e <;> rfl

theorem outcome_reg (k : Ctx) (d : Dst) (v : BitVec 2048) (lat cy ti : Nat) (f : BitVec 5) (e : Dst) :
    (k.outcome d v lat cy ti f).reg e = (if lat ≤ 1 then k.put d v none else k.pending d v (.cycle cy ti) none).reg e := by
  unfold Ctx.outcome
  cases e <;> rfl

theorem outcome_way (k : Ctx) (d : Dst) (v : BitVec 2048) (lat cy ti : Nat) (f : BitVec 5) :
    k.sameWay (k.outcome d v lat cy ti f) := sameWay_result k d v lat cy ti

theorem outcome_rest (k : Ctx) (d : Dst) (v : BitVec 2048) (lat cy ti : Nat) (f : BitVec 5) (hm : k.marks = []) :
    ((k.flagged f).noted true).restSame (k.outcome d v lat cy ti f) := by
  have h := restSame_result k d v lat cy ti hm
  unfold Ctx.outcome
  generalize (if lat ≤ 1 then k.put d v none else k.pending d v (.cycle cy ti) none) = k1 at *
  unfold Ctx.restSame at h ⊢
  conv_rhs => rw [← h]
  simp [Ctx.flagged, Ctx.noted]

theorem outcome_lands (k0 k : Ctx) (d : Dst) (v : BitVec 2048) (lat ti : Nat) (f : BitVec 5) (hd : d.ok) (hv : d.fits v) :
    k0.lands (k.outcome d v lat (k0.cyc + lat) ti f) d v lat := by
  rw [Ctx.lands, or_iff_not_imp_left]
  intro hfx
  have hfx' : d.fixed = false := by simpa using hfx
  split
  · next h1 =>
    have := reg_put k d v none hd hv d
    simp only [hfx', and_self, if_true] at this
    rw [outcome_reg]; simpa [h1] using this
  · next h1 =>
    refine ⟨⟨d, v, .cycle (k0.cyc + lat) ti, none⟩, ?_, rfl, rfl, rfl, _, rfl⟩
    simp [Ctx.outcome, Ctx.noted, Ctx.flagged, Ctx.pending, h1]

/-- A vector result with its flags and the record of a non-finite element. -/
theorem does_bad (sl : Slot) (i : Instr) (g : BitVec 4) (sem : State → Nat → Nat → Sem) (s : State) (m : Sem)
    (d : Dst) (v : BitVec 2048) (lat : Nat) (f : BitVec 5) (obj : Nat)
    (hm : sem (s.setCtx s.cur.1 s.cur.2 s.here) s.cur.1 s.cur.2 = m)
    (h : s.runs i sl g) (hg : Goes m s.here sl.idx) (hn : m.near = false)
    (he : m.eff (s.entered m) =
      (((s.entered m).result s.cur.1 s.cur.2 d v lat).setFlags s.cur.1 s.cur.2 f).noteVec s.cur.1 s.cur.2 obj)
    (hd : d.ok) (hv : d.fits v) :
    Does s (issueOne sl i g sem s)
      { regs := [(d, v)], lat := lat, rest := fun k => ((k.freed m.frees).flagged f).noted true
        mach := fun s => s.noted true obj } := by
  have hc := h.1
  simp only [State.calm, Bool.and_eq_true, Option.isNone_iff_eq_none, List.isEmpty_iff, decide_eq_true_eq] at hc
  obtain ⟨⟨⟨⟨⟨hk, -⟩, -⟩, -⟩, hff⟩, -⟩ := hc
  obtain ⟨hp, hmk, -⟩ := (Ctx.calm_iff _).1 hk
  have hctx : (m.eff (s.entered m)).ctx s.cur.1 s.cur.2
      = (s.here.freed m.frees).outcome d v lat (s.here.cyc + lat) (((s.entered m).core s.cur.1).tick + lat) f := by
    rw [he, noteVec_ctx, State.setNfs, State.ctx_modCtx_same, State.setFlags, State.ctx_modCtx_same, State.result,
      State.ctx_modCtx_same, State.entered_here]
    rfl
  have hf : (m.eff (s.entered m)).cur = s.cur ∧ ((m.eff (s.entered m)).core s.cur.1).fifo = (s.core s.cur.1).fifo := by
    rw [he, noteVec_cur, noteVec_fifo]
    exact ⟨rfl, rfl⟩
  have ho : ∀ c x, x < 2 → (c, x) ≠ s.cur → (m.eff (s.entered m)).ctx c x = s.ctx c x := by
    intro c x hx' hne
    have hk' : 2 * c + x ≠ 2 * s.cur.1 + s.cur.2 := by
      have hx := h.1
      simp only [State.calm, Bool.and_eq_true, decide_eq_true_eq] at hx
      have := hx.1.1.2
      intro e'
      apply hne
      have h1 : c = s.cur.1 := by omega
      have h2 : x = s.cur.2 := by omega
      rw [h1, h2]
    rw [he, noteVec_ctx, State.setNfs, State.ctx_modCtx_ne _ _ _ _ _ _ hk', State.setFlags,
      State.ctx_modCtx_ne _ _ _ _ _ _ hk', State.result, State.ctx_modCtx_ne _ _ _ _ _ _ hk', State.entered,
      State.ctx_modCtx_ne _ _ _ _ _ _ hk', State.ctx_setCtx_ne _ _ _ _ _ _ hk']
  have hmach : machineSame (s.noted true obj) (m.eff (s.entered m)) := by
    have hpc2 : ((((s.entered m).result s.cur.1 s.cur.2 d v lat).setFlags s.cur.1 s.cur.2 f).ctx s.cur.1 s.cur.2).pc
        = s.here.pc := by
      rw [State.setFlags, State.ctx_modCtx_same, State.result, State.ctx_modCtx_same, State.entered_here]
      exact (sameWay_result (s.here.freed m.frees) d v lat _ _).1
    rw [he, State.noteVec, hpc2]
    exact stat_machine s _ ((((machine_refl s).setCtx ..).modCtx ..).modCtx .. |>.modCtx .. |>.modCtx ..) ..
  clear he
  generalize hu : ((s.entered m).core s.cur.1).tick + lat = ti at hctx
  clear hu
  generalize hq : m.eff (s.entered m) = t at hctx hf ho hmach
  refine does_of_shows sl i g sem s _ ((s.here.freed m.frees).outcome d v lat (s.here.cyc + lat) ti f) m hm h hg (.inl ?_)
    ⟨by rw [State.acted_far s m hn, hq]; exact hctx, by rw [State.acted_far s m hn, hq]; exact hf.1, outcome_way (s.here.freed m.frees) .., ?_, by simp, ?_,
      outcome_rest (s.here.freed m.frees) _ _ _ _ _ _ hmk, by rw [State.acted_far s m hn, hq]; exact ho, by rw [State.acted_far s m hn, hq]; exact hmach, rfl⟩
  · rw [State.acted_far s m hn, hq, hf.2, hff]
  · intro p hp'
    simp only [List.mem_singleton] at hp'
    subst hp'
    refine ⟨?_, outcome_lands s.here (s.here.freed m.frees) d v lat ti f hd hv⟩
    rw [outcome_hold (s.here.freed m.frees) _ _ _ _ _ _ hp hd hv]
    cases hfx : d.fixed <;> simp [freed_hold]
  · intro e he' _
    have : e ≠ d := by simpa using he'
    rw [outcome_hold (s.here.freed m.frees) _ _ _ _ _ _ hp hd hv]
    simp [this, freed_hold]

/-- A vector result with its flags and, where `bad`, the record of a non-finite element. -/
theorem does_noted (sl : Slot) (i : Instr) (g : BitVec 4) (sem : State → Nat → Nat → Sem) (s : State) (m : Sem)
    (d : Dst) (v : BitVec 2048) (lat : Nat) (f : BitVec 5) (bad : Bool) (obj : Nat)
    (hm : sem (s.setCtx s.cur.1 s.cur.2 s.here) s.cur.1 s.cur.2 = m)
    (h : s.runs i sl g) (hg : Goes m s.here sl.idx) (hn : m.near = false)
    (he : m.eff (s.entered m) =
      if bad then (((s.entered m).result s.cur.1 s.cur.2 d v lat).setFlags s.cur.1 s.cur.2 f).noteVec s.cur.1 s.cur.2 obj
      else ((s.entered m).result s.cur.1 s.cur.2 d v lat).setFlags s.cur.1 s.cur.2 f)
    (hd : d.ok) (hv : d.fits v) :
    Does s (issueOne sl i g sem s)
      { regs := [(d, v)], lat := lat, rest := fun k => ((k.freed m.frees).flagged f).noted bad
        mach := fun s => s.noted bad obj } := by
  cases bad with
  | false =>
    refine (does_result sl i g sem s m d v lat f hm h hg hn (by simpa using he) hd hv).congr rfl rfl ?_ rfl rfl rfl
    simp [Ctx.noted]
  | true => exact does_bad sl i g sem s m d v lat f obj hm h hg hn (by simpa using he) hd hv

/-- An element-wise instruction does what its elements say (R172). -/
theorem does_emit (sl : Slot) (i : Instr) (g : BitVec 4) (sem : State → Nat → Nat → Sem) (s : State) (m : Sem) (o : OpV)
    (t : ETy) (n : Nat) (f : Nat → FRes)
    (hm : sem (s.setCtx s.cur.1 s.cur.2 s.here) s.cur.1 s.cur.2 = m)
    (h : s.runs i sl g) (hg : Goes m s.here sl.idx) (hn : m.near = false) (hfr : m.frees = vaFrees o) (ht : t.fills)
    (he : m.eff (s.entered m) = (s.entered m).emit s.cur.1 s.cur.2 t o.vd.toNat (s.here.rv o.vd)
      ((admitted (s.here.rk o.g) t.w t.count).map fun i => (i, f i)) n) :
    Does s (issueOne sl i g sem s) (vecEffect s o t n fun i => some (f i)) := by
  have hany : ∀ l : List Nat, ((l.map fun i => (i, f i)).any fun p => t.nonFinite p.2.bits) = anyNonFinite t (l.map f) := by
    intro l; simp [anyNonFinite, List.any_map, Function.comp_def]
  have hfl : ∀ (l : List Nat) (a : BitVec 5), (l.map fun i => (i, f i)).foldl (fun fl p => fl ||| p.2.fl) a
      = (l.map f).foldl (fun a r => a ||| r.fl) a := by
    intro l
    induction l with
    | nil => intro a; rfl
    | cons b l ih => intro a; simp only [List.map_cons, List.foldl_cons]; exact ih _
  refine (does_noted sl i g sem s m (.v o.vd.toNat) (merged (s.here.rk o.g) t (s.here.rv o.vd) fun i => some (f i))
    ((s.core s.cur.1).vecCycles n) (flagsOf (written (s.here.rk o.g) t fun i => some (f i)))
    (anyNonFinite t (written (s.here.rk o.g) t fun i => some (f i))) o.vd.toNat hm h hg hn ?_ (Dst.ok_v _) trivial).congr
    rfl rfl ?_ rfl rfl rfl
  · rw [he, State.emit, State.emitNote, hany, State.emitRaw, merged_eq _ _ _ _ ht, hfl, written_eq]
    rfl
  · rw [hfr]; rfl

end Sys2Proof.Machine
end

