-- ==== Sys2Proof/Tests/Slice0.lean ====
section
/-! SUPPORT. Tests: words of the spec's encodings, encodings that are no instruction, single steps on small states with results
from the spec, and for every statement with hypotheses a state that meets them. -/

namespace Sys2Proof.Tests

open Sys2Proof Sys2Proof.Machine Sys2Proof.Claims

set_option Elab.async false

/-! States. -/

/-- A launch of address space 0 whose strands may use the cube: header at the start of HBM's second megabyte, eight spill slots of
one page from its fifth. -/
def launch0 : Launch :=
  { state := 1, hdrPa := 0x8000100000, nhand := 1
    hdr := { entry := 0x1000, traph := 0x2000, lcfg := BitVec.ofNat 64 (8 * 2 ^ 48 + 2 ^ 45 + 4 * 2 ^ 6 + 4), extm1 := 0x33, ckpti := 2, spillsz := 1 }
    poolPa := 0x8000500000, used := [(0, true)], hdrVa := 0x100000 }

/-- Its root strand. -/
def strand0 : Strand :=
  { slot := 0x8000500000, wid := 0, launch := 0, hdr := 0x100000, pjoin := 0, out := 0, fault := 0, kill := 0 }

/-- Context 0 of core 0 at a bundle, with scalars, masks, vectors and a full landing slot. -/
def ctx0 : Ctx :=
  { strand := some strand0, pc := 0x1000, cyc := 100
    s := [(2, 0x10040), (3, 5), (4, 7), (5, 0xFFFFFFFFFFFFFFFE), (6, 0x1FC000000), (7, 0x3F8000003F800000), (8, 64)]
    v := [(8, 0x3F800000400000004040000040800000), (16, 0x40A0000040C000003F80000000000001)]
    k := [(1, 0), (2, 5)]
    la := [(0, { st := .full, arr := 90, data := 0x3F800000, rid := 7 })] }

/-- A part in which that context is next, with every feature enabled, its stack in service, one large page of HBM, one of its own
vault and one of the host in the µTLB, and 64 KiB of translated code. -/
def base : State :=
  { ctxs := [(0, ctx0)]
    cores := [(0, { utlb := [⟨0, 0x10000, 0x10000, 0x8000100000, true, true, true⟩, ⟨0, 0x40000, 0x10000, 0x10000000000, true, true, false⟩,
                            ⟨0, 0x1000, 0x1000, 0x8000200000, false, true, true⟩] })]
    stks := [(0, { repaired := true, selftest := true, released := true })]
    pkg := { featEn := [(0, BitVec.allOnes 64)], launches := [(0, launch0)] }
    nextId := 10 }

/-- The same with a supervisor's strand, in trap mode, in reverse mode, in the drone, or with nothing held by the launch. -/
def baseSupv : State := { base with pkg := { base.pkg with launches := [(0, { launch0 with supv := true })] } }
def baseTrap : State := { base with ctxs := [(0, { ctx0 with trapm := true, trapPc := 0x3000, trapInfo := 0x600000 })] }
def baseRev : State := { base with ctxs := [(0, { ctx0 with rev := true })] }
def baseDrone : State := { base with ctxs := [(1, ctx0)], cur := (0, 1) }
def baseWith (f : Ctx → Ctx) : State := { base with ctxs := [(0, f ctx0)] }

/-! Checks of premises that evaluate, and that they are right. -/

def runsB (s : State) (i : Instr) (sl : Slot) (g : BitVec 4) : Bool := s.calm && s.enabled i && guardOn sl (s.here.rk g)
theorem runs_of {s : State} {i : Instr} {sl : Slot} {g : BitVec 4} (h : runsB s i sl g = true) : s.runs i sl g := by
  simpa [State.runs, runsB, and_assoc] using h

def translatedB (s : State) (a : Acc) (p : Piece) : Bool :=
  match s.xslot a.c a.x p.ea a.write with
  | .ok pa => !a.write || !s.cxlFull pa p.n
  | _ => false
theorem translated_of {s : State} {a : Acc} {p : Piece} (h : translatedB s a p = true) : translated s a p := by
  unfold translatedB at h
  split at h
  · rename_i pa e
    refine ⟨pa, e, fun w => ?_⟩
    simpa [w] using h
  · cases h

def freeB (s : State) (a : Acc) : Bool :=
  !s.acquiring a.c a.x && !a.behind s && (a.isLocal || !(s.core a.c).outFull) && a.ps.all fun p =>
    (!a.plain || s.primalHit a.c a.x a.vault p == none)
      && if a.vault then !s.scoreVault a.c p else !s.scoreGlobal a.c (s.asid a.c a.x) p && translatedB s a p
theorem free_of {s : State} {a : Acc} (h : freeB s a = true) : freeOf s a := by
  simp only [freeB, Bool.and_eq_true, List.all_eq_true, Bool.not_eq_true', Bool.or_eq_true] at h
  refine ⟨h.1.1.1, h.1.1.2, h.1.2, fun p hp => ?_⟩
  obtain ⟨h1, h2⟩ := h.2 p hp
  refine ⟨fun e => by simpa [e] using h1, ?_⟩
  by_cases v : a.vault = true
  · simpa [v] using h2
  · simp only [v, Bool.false_eq_true, if_false, Bool.and_eq_true, Bool.not_eq_true'] at h2 ⊢
    exact ⟨h2.1, translated_of h2.2⟩

def quietB (s : State) : Bool :=
  (s.net.all fun m => !(m.core == s.cur.1 && m.x == s.cur.2))
    && (s.cluster (clusterOf s.cur.1)).misses.all fun m => !(m.core == s.cur.1 && m.unit == 0 && m.x == s.cur.2)
theorem quiet_of {s : State} (h : quietB s = true) : s.quiet := by
  simpa [quietB, State.quiet, List.all_eq_true, -not_and, not_and_or, or_assoc] using h

theorem clear_of {s : State} {a : Acc} (h : (quietB s && freeB s a) = true) : clear s a :=
  have h := Bool.and_eq_true .. ▸ h
  ⟨quiet_of h.1, free_of h.2⟩
/-! States that meet the premises of the statements, at the ends of the operands' ranges where clauses meet there. -/

theorem each {α : Type} {l : List α} {p : α → Bool} (h : l.all p = true) : ∀ a ∈ l, p a = true := List.all_eq_true.mp h
theorem all_run {α : Type} {l : List (α → Instr)} {s : State} {o : α} {sl : Slot} {g : BitVec 4}
    (h : ∀ mk ∈ l, runsB s (mk o) sl g = true) : ∀ mk ∈ l, s.runs (mk o) sl g := fun mk hm => runs_of (h mk hm)

def intOps : List (OpR → Instr) :=
  [.add, .sub, .and, .or, .xor, .shl, .shr, .sha, .min, .max, .minn, .maxn, .clz, .popc, .sel, .mul, .mulh, .mulhn, .div, .divn,
    .rem, .remn]

/-- s63 and s0 written, the latter where the divisor is zero. -/
theorem wit_IntegerOperationsWriteTheirResult :
    (∀ mk ∈ intOps, base.runs (mk ⟨0, 63, 4, 0, 0⟩) .s 0) ∧ ∀ mk ∈ intOps, base.runs (mk ⟨0, 0, 4, 0, 0⟩) .s 0 :=
  ⟨all_run (by decide +kernel), all_run (by decide +kernel)⟩

def immOps : List (OpI → Instr) :=
  [.addi, .andi, .ori, .xori, .shli, .shri, .shai, .roti, .movi, .movhi, .bfx, .bfi]

/-- Shifts by 63 and fields of one bit at 63; fields of 64 bits at 0. -/
theorem wit_ImmediateOperationsWriteTheirResult :
    (∀ mk ∈ immOps, base.runs (mk ⟨0, 63, 0, 0, 63⟩) .s 0) ∧ (∀ mk ∈ immOps, base.runs (mk ⟨0, 0, 0, 0, 0⟩) .s 0)
      ∧ base.runs (.bfx ⟨0, 1, 5, 0, 0x13F00⟩) .s 0 ∧ base.runs (.bfi ⟨0, 1, 5, 0, 0x3F00⟩) .s 0 :=
  ⟨all_run (by decide +kernel), all_run (by decide +kernel), runs_of (by decide +kernel), runs_of (by decide +kernel)⟩

/-- The first and last conditions. -/
theorem wit_ComparesWriteWholeMasks :
    ∀ c ∈ [(0 : BitVec 4), 7], ∀ mk ∈ [Instr.cmp, .cmpi, .fcmp], base.runs (mk ⟨0, 15, c, 7, 0⟩) .s 0 :=
  have h (c : BitVec 4) (hc : c ∈ [(0 : BitVec 4), 7]) : ∀ mk ∈ [Instr.cmp, .cmpi, .fcmp], runsB base (mk ⟨0, 15, c, 7, 0⟩) .s 0 = true :=
    each (each (p := fun c => [Instr.cmp, .cmpi, .fcmp].all fun mk => runsB base (mk ⟨0, 15, c, 7, 0⟩) .s 0) (by decide +kernel) c hc)
  fun c hc mk hm => runs_of (h c hc mk hm)

/-- F32 and BF16. -/
theorem wit_ScalarFloatsRoundOnce :
    (∀ mk ∈ [Instr.fadd, .fmul, .ffma], base.runs (mk ⟨0, 3, 7, 7, 0⟩) .s 0)
      ∧ (∀ mk ∈ [Instr.fadd, .fmul, .ffma], base.runs (mk ⟨0, 3, 7, 7, 2⟩) .s 0)
      ∧ base.runs (.fcvt ⟨0, 3, 7, 0, 0x100⟩) .s 0 ∧ base.runs (.fcvt ⟨0, 3, 7, 0, 0x0A⟩) .s 0 :=
  ⟨all_run (by decide +kernel), all_run (by decide +kernel), runs_of (by decide +kernel), runs_of (by decide +kernel)⟩

/-- Each selector of TIMER, and WIDF's at the ends of its ranges. -/
theorem wit_MaskShapeAndTimeInstructions :
    base.runs (.kmov ⟨0, 15, 4, 0, 0⟩) .s 0 ∧ base.runs (.kget ⟨0, 3, 15, 0, 0⟩) .s 0 ∧ base.runs (.kpopc ⟨0, 3, 2, 0, 0⟩) .s 0
      ∧ (∀ n ∈ [(0 : BitVec 32), 1, 2], base.runs (.timer ⟨0, 3, 0, 0, n⟩) .s 0) ∧ base.runs (.setshape ⟨0, 0, 0, 0, 6⟩) .s 0
      ∧ (∀ a ∈ [(0 : BitVec 6), 5, 8, 13, 16, 17, 18, 19], base.runs (.widf ⟨0, 3, 0, a, 0⟩) .s 0)
      ∧ base.here.strand = some strand0 :=
  have h1 := each (l := [(0 : BitVec 32), 1, 2]) (p := fun n => runsB base (.timer ⟨0, 3, 0, 0, n⟩) .s 0) (by decide +kernel)
  have h2 := each (l := [(0 : BitVec 6), 5, 8, 13, 16, 17, 18, 19]) (p := fun a => runsB base (.widf ⟨0, 3, 0, a, 0⟩) .s 0)
    (by decide +kernel)
  ⟨runs_of (by decide +kernel), runs_of (by decide +kernel), runs_of (by decide +kernel), fun n hn => runs_of (h1 n hn),
    runs_of (by decide +kernel), fun a ha => runs_of (h2 a ha), rfl⟩

/-- A loop of a body's least and greatest length. -/
theorem wit_BranchesAndLoopsGoToTheirTarget :
    base.runs (.br ⟨0, 0, 4, 0, 0⟩) .s 0 ∧ base.runs (.ret ⟨0, 0, 4, 0, 0⟩) .s 0
      ∧ base.runs (.bri ⟨0, 0, 0, 0, 0x80000000⟩) .s 0 ∧ base.runs (.call ⟨0, 63, 0, 0, 0x7FFFFFFF⟩) .s 0
      ∧ base.runs (.loop ⟨0, 0, 3, 0, 1⟩) .s 0 ∧ base.runs (.loop ⟨0, 0, 1, 0, 0xFFFFFF⟩) .s 0 :=
  ⟨runs_of (by decide +kernel), runs_of (by decide +kernel), runs_of (by decide +kernel), runs_of (by decide +kernel),
    runs_of (by decide +kernel), runs_of (by decide +kernel)⟩

/-! Vector instructions: one source from landing slot 0, which is full. -/

def vecB (s : State) (i : Instr) (o : OpV) : Bool :=
  runsB s i (vslot o) o.g && (vaLas o).all fun n =>
    (s.here.slot n).st == .full && decide ((s.here.slot n).arr ≤ s.here.cyc) && (s.here.slot n).mark == none
def vecOn (s : State) (i : Instr) (o : OpV) : Prop := s.runs i (vslot o) o.g ∧ s.here.laReady (vaLas o)
theorem vec_of {s : State} {i : Instr} {o : OpV} (h : vecB s i o = true) : vecOn s i o := by
  simp only [vecB, Bool.and_eq_true, List.all_eq_true, beq_iff_eq, decide_eq_true_eq] at h
  exact ⟨runs_of h.1, fun n hn => ⟨(h.2 n hn).1.1, (h.2 n hn).1.2, (h.2 n hn).2⟩⟩
theorem all_vec {l : List (OpV → Instr)} {s : State} {o : OpV} (h : ∀ mk ∈ l, vecB s (mk o) o = true) :
    ∀ mk ∈ l, vecOn s (mk o) o := fun mk hm => vec_of (h mk hm)

/-- An operand of VB, of VA, and of one source alone; va is landing slot 0. -/
def ovB (ty : BitVec 4) : OpV := ⟨true, 0, 2047, 0, 8, 0, ty, 2⟩
def ovA (ty : BitVec 4) : OpV := ⟨false, 0, 9, 0, 8, 0, ty, 2⟩
def ov1 (ty : BitVec 4) : OpV := ⟨false, 0, 9, 0, 0, 0, ty, 2⟩

/-- F32, and N64, the last type. -/
theorem wit_VectorArithmeticIsElementwise :
    (∀ mk ∈ [Instr.vadd, .vsub, .vmul, .vfma, .vfms, .vfnma, .vmin, .vmax, .vscale], vecOn base (mk (ovB 0)) (ovB 0))
      ∧ (∀ mk ∈ [Instr.vadd, .vsub, .vmul, .vfma, .vfms, .vfnma, .vmin, .vmax, .vmulhi], vecOn base (mk (ovA 10)) (ovA 10))
      ∧ (∀ mk ∈ [Instr.vabs, .vneg], vecOn base (mk (ov1 0)) (ov1 0)) ∧ ∀ mk ∈ [Instr.vabs, .vneg], vecOn base (mk (ov1 10)) (ov1 10) :=
  ⟨all_vec (by decide +kernel), all_vec (by decide +kernel), all_vec (by decide +kernel), all_vec (by decide +kernel)⟩

/-- VBCAST of the only row of SHAPE 0. -/
theorem wit_VectorLogicAndMovesActOnBitPatterns :
    (∀ mk ∈ [Instr.vand, .vor, .vxor, .vshl, .vshr, .vsha, .vhash, .vsel], vecOn base (mk (ovB 10)) (ovB 10))
      ∧ (∀ mk ∈ [Instr.vnot, .vmov, .viota], vecOn base (mk (ov1 3)) (ov1 3))
      ∧ vecOn base (.vbcast (ov1 10)) (ov1 10) ∧ fits base.here (ov1 10) ∧ (ov1 10).vb.toNat < base.here.rows :=
  ⟨all_vec (by decide +kernel), all_vec (by decide +kernel), vec_of (by decide +kernel), by unfold fits; decide +kernel,
    by decide +kernel⟩

/-- The mask k15, of 32- and 64-bit types. -/
theorem wit_VectorComparesWriteGuardedMaskBits :
    (∀ t ∈ [(0 : BitVec 4), 10], vecOn base (.vcmp { ovB t with vd := 15, vc := 13 }) { ovB t with vd := 15, vc := 13 })
      ∧ vecOn base (.vfinite { ov1 0 with vd := 15 }) { ov1 0 with vd := 15 }
      ∧ vecOn base (.vkmov { ov1 10 with vd := 15 }) { ov1 10 with vd := 15 } :=
  have h := each (l := [(0 : BitVec 4), 10])
    (p := fun t => vecB base (.vcmp { ovB t with vd := 15, vc := 13 }) { ovB t with vd := 15, vc := 13 }) (by decide +kernel)
  ⟨fun t ht => vec_of (h t ht), vec_of (by decide +kernel), vec_of (by decide +kernel)⟩

/-- VCVT of the manual's example, F32 to E4M3 with part 1, and of parts 0 and 3 of a conversion from F32 to 8-bit integers;
VPACK of F32 to F16, VUNPACK of F16 to F32. -/
theorem wit_VectorConversionsConvertEachElement :
    (∀ p ∈ [(0 : BitVec 11), 1, 3],
        let o : OpV := ⟨false, 0, 10, 8, p, 0x208, 11, 0⟩
        vecOn base (.vcvt o) o ∧ bitsOf o.vb 3 0 < max (base.here.cvtTypes o).1.w (base.here.cvtTypes o).2.w
          / min (base.here.cvtTypes o).1.w (base.here.cvtTypes o).2.w)
      ∧ (let o : OpV := ⟨false, 0, 10, 8, 16, 0, 1, 0⟩
         vecOn base (.vpack o) o ∧ (base.here.cvtTypes o).2.w * 2 = (base.here.cvtTypes o).1.w)
      ∧ (let o : OpV := ⟨false, 0, 10, 8, 0, 0x10, 0, 0⟩
         vecOn base (.vunpack o) o ∧ (base.here.cvtTypes o).1.w * 2 = (base.here.cvtTypes o).2.w)
      ∧ vecOn base (.vsat ⟨false, 0, 10, 8, 0, 0x10, 0, 0⟩) ⟨false, 0, 10, 8, 0, 0x10, 0, 0⟩
      ∧ vecOn base (.vclass ⟨false, 0, 10, 8, 0, 0, 0, 0⟩) ⟨false, 0, 10, 8, 0, 0, 0, 0⟩ :=
  have h := each (l := [(0 : BitVec 11), 1, 3])
    (p := fun p => vecB base (.vcvt ⟨false, 0, 10, 8, p, 0x208, 11, 0⟩) ⟨false, 0, 10, 8, p, 0x208, 11, 0⟩ && decide (bitsOf p 3 0 < 4))
    (by decide +kernel)
  have q : 4 = max (base.here.cvtTypes ⟨false, 0, 10, 8, 0, 0x208, 11, 0⟩).1.w (base.here.cvtTypes ⟨false, 0, 10, 8, 0, 0x208, 11, 0⟩).2.w
      / min (base.here.cvtTypes ⟨false, 0, 10, 8, 0, 0x208, 11, 0⟩).1.w (base.here.cvtTypes ⟨false, 0, 10, 8, 0, 0x208, 11, 0⟩).2.w := by
    decide +kernel
  ⟨fun p hp => have h := Bool.and_eq_true .. ▸ h p hp; ⟨vec_of h.1, q ▸ of_decide_eq_true h.2⟩, ⟨vec_of (by decide +kernel), by decide +kernel⟩,
    ⟨vec_of (by decide +kernel), by decide +kernel⟩, vec_of (by decide +kernel), vec_of (by decide +kernel)⟩

theorem wit_SpecialFunctionsRoundEachElement :
    vecOn base (.vdiv (ovA 0)) (ovA 0) ∧ vecOn base (.vdiv (ovA 10)) (ovA 10)
      ∧ ∀ mk ∈ [Instr.vsqrt, .vrsqrt, .vrcp, .vexp2, .vlog2, .vtanh], vecOn base (mk (ov1 0)) (ov1 0) :=
  ⟨vec_of (by decide +kernel), vec_of (by decide +kernel), all_vec (by decide +kernel)⟩

/-- The last element of a type, and each reduction with the first and last operation. -/
theorem wit_PermutesMoveElementsAndReductionsCombineSets :
    vecOn base (.vperm (ovA 0)) (ovA 0) ∧ vecOn base (.vrot { ov1 0 with vb := 63 }) { ov1 0 with vb := 63 }
      ∧ (vecOn base (.vtrans (ov1 0)) (ov1 0) ∧ fits base.here (ov1 0))
      ∧ vecOn base (.vlaneget { ov1 3 with vd := 63, vb := 63 }) { ov1 3 with vd := 63, vb := 63 }
      ∧ (∀ mk ∈ [Instr.vrowred, .vcolred, .vallred], vecOn base (mk (ov1 0)) (ov1 0))
      ∧ (∀ mk ∈ [Instr.vrowred, .vcolred, .vallred], vecOn base (mk { ov1 3 with vb := 4 }) { ov1 3 with vb := 4 })
      ∧ fits base.here { ov1 3 with vb := 4 } :=
  ⟨vec_of (by decide +kernel), vec_of (by decide +kernel), ⟨vec_of (by decide +kernel), by unfold fits; decide +kernel⟩,
    vec_of (by decide +kernel), all_vec (by decide +kernel), all_vec (by decide +kernel), by unfold fits; decide +kernel⟩
/-! Accesses. -/

/-- An access through a pointer with no element out of place, whose local units are in different banks. -/
def pointedB (s : State) (a : Acc) (base : BitVec 64) (n : Nat) : Bool :=
  (!a.vault || (!s.badVp a.c base && (a.ps.all fun p => p.off % n != 0 || p.ea.toNat % n == 0)
      && (s.supv a.c a.x || a.ps.all fun p => decide (vpLin p.ea < 8191 * 8192))))
    && decide ((a.units.map fun u => u.1 % 128).Nodup)
theorem pointed_of {s : State} {a : Acc} {base : BitVec 64} {n : Nat} (h : pointedB s a base n = true) : pointed s a base n := by
  simp only [pointedB, Bool.and_eq_true, Bool.or_eq_true, Bool.not_eq_true', List.all_eq_true, decide_eq_true_eq, bne_iff_ne,
    beq_iff_eq] at h
  refine ⟨fun v => ?_, h.2⟩
  obtain ⟨⟨h1, h2⟩, h3⟩ := h.1.resolve_left (by simp [v])
  exact ⟨h1, fun p hp e => (h2 p hp).resolve_left (fun n => n e), h3⟩

/-- An access that an instruction may make: its premises in the statements about loads and stores. -/
def accessB (s : State) (i : Instr) (sl : Slot) (a : Acc) (base : BitVec 64) (n : Nat) : Bool :=
  runsB s i sl 0 && (quietB s && freeB s a) && pointedB s a base n
def access (s : State) (i : Instr) (sl : Slot) (a : Acc) (base : BitVec 64) (n : Nat) : Prop :=
  s.runs i sl 0 ∧ clear s a ∧ pointed s a base n
theorem access_of {s : State} {i : Instr} {sl : Slot} {a : Acc} {base : BitVec 64} {n : Nat} (h : accessB s i sl a base n = true) :
    access s i sl a base n := by
  simp only [accessB, Bool.and_eq_true] at h
  exact ⟨runs_of h.1.1, clear_of (by simpa using h.1.2), pointed_of h.2⟩

/-- Bytes into the last landing slot from global memory and from the own vault; eight-byte elements with a stride, and at the
offsets of an index register. -/
def ldG (z : BitVec 3) : OpLd := ⟨0, 31, 2, 0, 9, z, 0⟩
def ldV (z : BitVec 3) : OpLd := ⟨0, 31, 6, 0, 9, z, 0⟩
def ldS : OpLd := ⟨0, 31, 6, 8, 9, 3, 0⟩
def ldGX : OpLdX := ⟨0, 31, 2, 9, 3, 0, 0, 3, 9, 0⟩
def ldVX : OpLdX := ⟨0, 31, 6, 9, 3, 0, 0, 3, 9, 0⟩
/-- Index registers: multiples of eight. -/
def baseX : State :=
  baseWith fun k => { k with v := [(9, joinElems 64 ((List.range 32).map (8 * ·))), (10, joinElems 64 ((List.range 32).map (64 * ·)))] }

theorem wit_LoadsFillTheirLandingSlot :
    (∀ p ∈ [(Instr.ldg, (0 : BitVec 3)), (.ldg, 3), (.ldgv, 4), (.ldgv, 6), (.lda, 2), (.lda, 3)],
        access base (p.1 (ldG p.2)) .ld (accG base (ldG p.2)) (base.here.rs 2) 1)
      ∧ (eaG base.here (ldG 3)).toNat % size (ldG 3) = 0
      ∧ (∀ p ∈ [(Instr.ldv, (0 : BitVec 3)), (.ldv, 3), (.ldvv, 4), (.ldvv, 6)],
        access base (p.1 (ldV p.2)) .ld (accV base (ldV p.2)) (base.here.rs 6) (size (ldV p.2)))
      ∧ access base (.ldvs ldS) .ld (accS base ldS) (base.here.rs 6) (size ldS)
      ∧ access baseX (.ldgx ldGX) .ld (accX false baseX ldGX) (baseX.here.rs 2) 8
      ∧ access baseX (.ldvx ldVX) .ld (accX true baseX ldVX) (baseX.here.rs 6) 8 :=
  have h1 := each (l := [(Instr.ldg, (0 : BitVec 3)), (.ldg, 3), (.ldgv, 4), (.ldgv, 6), (.lda, 2), (.lda, 3)])
    (p := fun p => accessB base (p.1 (ldG p.2)) .ld (accG base (ldG p.2)) (base.here.rs 2) 1) (by decide +kernel)
  have h2 := each (l := [(Instr.ldv, (0 : BitVec 3)), (.ldv, 3), (.ldvv, 4), (.ldvv, 6)])
    (p := fun p => accessB base (p.1 (ldV p.2)) .ld (accV base (ldV p.2)) (base.here.rs 6) (size (ldV p.2))) (by decide +kernel)
  ⟨fun p hp => access_of (h1 p hp), by decide +kernel, fun p hp => access_of (h2 p hp), access_of (by decide +kernel),
    access_of (by decide +kernel), access_of (by decide +kernel)⟩

/-- A window of 64 bytes at 0x10000. -/
def baseW : State :=
  { base with pkg := { base.pkg with launches := [(0, { launch0 with hdr := { launch0.hdr with win := [(0, 0x8000000000400)] } })] } }
/-- A load of z at its first byte, and at its last. -/
def ldW (i : BitVec 6) (z : BitVec 3) (off : BitVec 20) : OpLd := ⟨0, 31, 0, i, 9, z, off⟩
def winAcc (o : OpLd) : Acc :=
  let (wb, sz) := baseW.window 0 0 (o.base.toNat % 8)
  ⟨false, pieces (wb + (baseW.here.rs o.idx + o.off.setWidth 64)) 0
    (min (size o) (sz - (baseW.here.rs o.idx + o.off.setWidth 64).toNat)), false, true, false, 0, 0⟩
theorem wit_WindowLoadsReadInsideTheirWindow :
    (baseW.window 0 0 0).2 ≠ 0
      ∧ ∀ p ∈ [(Instr.wld, ldW 0 3 0), (.wld, ldW 0 3 63), (.wldv, ldW 0 6 0), (.wldv, ldW 0 4 63), (.wld, ldW 8 0 0)],
        baseW.runs (p.1 p.2) .ld 0 ∧ clear baseW (winAcc p.2) :=
  have h := each (l := [(Instr.wld, ldW 0 3 0), (.wld, ldW 0 3 63), (.wldv, ldW 0 6 0), (.wldv, ldW 0 4 63), (.wld, ldW 8 0 0)])
    (p := fun p => runsB baseW (p.1 p.2) .ld 0 && (quietB baseW && freeB baseW (winAcc p.2))) (by decide +kernel)
  ⟨by decide +kernel, fun p hp => have h := Bool.and_eq_true .. ▸ h p hp; ⟨runs_of h.1, clear_of h.2⟩⟩

/-- A region of floats of global memory, and one of the own vault, with their cells behind them; a tape of one entry of a word of the
first region. -/
def region0 : DRegion := { valid := true, len := 0x100, primal := 0x10000, shadow := 0x14000 }
def region1 : DRegion := { valid := true, space := true, len := 0x100, primal := 0, shadow := 0x1000 }
def baseD (rev : Bool) : State :=
  { baseWith (fun k =>
      { k with rev := rev, dreg := [(0, region0), (1, region1)], tapeBase := 0x1FC100000, tapeSize := 0x10000, tapeTop := 16
               wait := [(5, { id := 3, done := true })] }) with
    mem := [(0x10000100008, 0x40), (0x1000010000A, 1), (0x1000010000F, 4)] }
def opD (sp : BitVec 1) (b : BitVec 6) : OpD := ⟨0, 9, b, sp, 0, 2, 0⟩
def dAcc (rev write : Bool) (o : OpD) (r : DRegion) : Acc :=
  let d := dAccess o (baseD rev) 0 0
  ⟨o.space == 1, pieces d.ea 0 (d.n * r.es), write, false, false, 0, 0⟩
def dCells (o : OpD) (r : DRegion) : Acc :=
  let d := dAccess o (baseD true) 0 0
  ⟨o.space == 1, (List.range d.n).map fun i => ⟨r.cell d.a + BitVec.ofNat 64 (4 * i), 4, 4 * i⟩, true, false, false, 0, 0⟩
def pieceFree (s : State) (a : Acc) : Prop :=
  ∀ p ∈ a.ps, if a.vault then s.scoreVault s.cur.1 p = false else s.scoreGlobal s.cur.1 (s.asid s.cur.1 s.cur.2) p = false

theorem wit_RegisterLoadsFillTheirRegister :
    (let o : OpLd := ⟨0, 15, 6, 0, 0, 3, 0⟩
     let a : Acc := ⟨true, pieces (eaV base.here o) 0 8, false, true, false, 0, 0⟩
     access base (.ldk o) .ld a (base.here.rs 6) 8 ∧ localMark base a = none)
      ∧ (∀ p ∈ [(opD 0 2, region0), (opD 1 6, region1)],
          access (baseD false) (.dld p.1) .ld (dAcc false false p.1 p.2) ((baseD false).here.rs p.1.base) 1
            ∧ localMark (baseD false) (dAcc false false p.1 p.2) = none
            ∧ inRegion (baseD false) p.1 (dAccess p.1 (baseD false) 0 0) p.2)
      ∧ ∀ p ∈ [(opD 0 2, region0), (opD 1 6, region1)],
          (baseD true).runs (.dld p.1) .ld 0 ∧ inRegion (baseD true) p.1 (dAccess p.1 (baseD true) 0 0) p.2
            ∧ aimed (baseD true) (dAcc true false p.1 p.2) ((baseD true).here.rs p.1.base) 1 ∧ clear (baseD true) (dCells p.1 p.2)
            ∧ owned (baseD true) (dCells p.1 p.2)
            ∧ aimed (baseD true) (dCells p.1 p.2) (p.2.cell (dAccess p.1 (baseD true) 0 0).a) 1
            ∧ pieceFree (baseD true) (dAcc true false p.1 p.2) :=
  ⟨⟨access_of (by decide +kernel), by decide +kernel⟩, by
    simp only [List.forall_mem_cons, List.not_mem_nil, false_implies, implies_true, and_true]
    exact ⟨⟨access_of (by decide +kernel), by decide +kernel, by unfold inRegion; decide +kernel⟩,
      access_of (by decide +kernel), by decide +kernel, by unfold inRegion; decide +kernel⟩, by
    simp only [List.forall_mem_cons, List.not_mem_nil, false_implies, implies_true, and_true]
    exact ⟨⟨runs_of (by decide +kernel), by unfold inRegion; decide +kernel, by unfold aimed; decide +kernel,
        clear_of (by decide +kernel), by unfold owned; decide +kernel, by unfold aimed; decide +kernel, by unfold pieceFree; decide +kernel⟩,
      runs_of (by decide +kernel), by unfold inRegion; decide +kernel, by unfold aimed; decide +kernel, clear_of (by decide +kernel),
      by unfold owned; decide +kernel, by unfold aimed; decide +kernel, by unfold pieceFree; decide +kernel⟩⟩

/-- Scalar 3, vector 8 and mask 2 stored. -/
def stG (z : BitVec 3) (src : BitVec 11) : OpSt := ⟨0, src, 2, 0, 0, z, 0⟩
def stV (z : BitVec 3) (src : BitVec 11) : OpSt := ⟨0, src, 6, 0, 0, z, 0⟩
theorem wit_StoresWriteTheirBytes :
    (∀ p ∈ [(Instr.stg, stG 0 96), (.stg, stG 3 96), (.stgv, stG 4 8), (.stgv, stG 6 8)],
        access base (p.1 p.2) .st (stAccG base p.2) (base.here.rs 2) (sizeSt p.2))
      ∧ (∀ p ∈ [(Instr.stv, stV 0 96), (.stv, stV 3 96), (.stvv, stV 4 8), (.stvv, stV 6 8), (.stk, stV 3 256)],
        access base (p.1 p.2) .st (stAccV base p.2) (base.here.rs 6) (sizeSt p.2) ∧ raceless base (stAccV base p.2))
      ∧ (access base (.stvs ⟨0, 8, 6, 8, 0, 3, 0⟩) .st (stAccS base ⟨0, 8, 6, 8, 0, 3, 0⟩) (base.here.rs 6) 8
          ∧ raceless base (stAccS base ⟨0, 8, 6, 8, 0, 3, 0⟩))
      ∧ access baseX (.stgx ⟨0, 8, 2, 9, 3, 0, 0, 3, 0⟩) .st (stAccX false baseX ⟨0, 8, 2, 9, 3, 0, 0, 3, 0⟩) (baseX.here.rs 2) 8
      ∧ (access baseX (.stvx ⟨0, 8, 6, 9, 3, 0, 0, 3, 0⟩) .st (stAccX true baseX ⟨0, 8, 6, 9, 3, 0, 0, 3, 0⟩) (baseX.here.rs 6) 8
          ∧ raceless baseX (stAccX true baseX ⟨0, 8, 6, 9, 3, 0, 0, 3, 0⟩))
      ∧ (base.runs (.stl (stG 3 96)) .st 0 ∧ clear base (stAccG base (stG 3 96)) ∧ base.relHeld 0 = false
          ∧ (stEaG base.here (stG 3 96)).toNat % sizeSt (stG 3 96) = 0) :=
  have h1 := each (l := [(Instr.stg, stG 0 96), (.stg, stG 3 96), (.stgv, stG 4 8), (.stgv, stG 6 8)])
    (p := fun p => accessB base (p.1 p.2) .st (stAccG base p.2) (base.here.rs 2) (sizeSt p.2)) (by decide +kernel)
  have h2 := each (l := [(Instr.stv, stV 0 96), (.stv, stV 3 96), (.stvv, stV 4 8), (.stvv, stV 6 8), (.stk, stV 3 256)])
    (p := fun p => accessB base (p.1 p.2) .st (stAccV base p.2) (base.here.rs 6) (sizeSt p.2)
      && (stAccV base p.2).ps.all fun q => base.racy 0 ((stAccV base p.2).pa base q) q.n == false) (by decide +kernel)
  ⟨fun p hp => access_of (h1 p hp), fun p hp =>
      have h := Bool.and_eq_true .. ▸ h2 p hp
      ⟨access_of h.1, fun q hq => eq_of_beq (List.all_eq_true.mp h.2 q hq)⟩,
    ⟨access_of (by decide +kernel), by unfold raceless; decide +kernel⟩, access_of (by decide +kernel),
    ⟨access_of (by decide +kernel), by unfold raceless; decide +kernel⟩,
    runs_of (by decide +kernel), clear_of (by decide +kernel), by decide +kernel, by decide +kernel⟩

/-- A scalar, a vector and a mask; the bytes of 256 of a local load and the one behind an access of 255. -/
theorem wit_LocalAccessesMoveTheirBytesAndNoOther :
    ∀ p ∈ [(Instr.stv, stV 0 96), (.stvv, stV 6 8), (.stk, stV 3 256)],
      access base (p.1 p.2) .st (stAccV base p.2) (base.here.rs 6) (sizeSt p.2) ∧ (stAccV base p.2).isLocal = true
        ∧ raceless base (stAccV base p.2)
        ∧ ∀ j, j < sizeSt p.2 → base.shut (vaultPa (vaultNum 0 (stEaV base.here p.2 + BitVec.ofNat 64 j))
            (vpLin (stEaV base.here p.2 + BitVec.ofNat 64 j))) = false :=
  have h := each (l := [(Instr.stv, stV 0 96), (.stvv, stV 6 8), (.stk, stV 3 256)])
    (p := fun p => accessB base (p.1 p.2) .st (stAccV base p.2) (base.here.rs 6) (sizeSt p.2) && (stAccV base p.2).isLocal
      && ((stAccV base p.2).ps.all fun q => base.racy 0 ((stAccV base p.2).pa base q) q.n == false)
      && (List.range (sizeSt p.2)).all fun j => base.shut (vaultPa (vaultNum 0 (stEaV base.here p.2 + BitVec.ofNat 64 j))
            (vpLin (stEaV base.here p.2 + BitVec.ofNat 64 j))) == false) (by decide +kernel)
  fun p hp => by
    have h := h p hp
    simp only [Bool.and_eq_true] at h
    exact ⟨access_of h.1.1.1, h.1.1.2, fun q hq => eq_of_beq (List.all_eq_true.mp h.1.2 q hq),
      fun j hj => by simpa using List.all_eq_true.mp h.2 j (List.mem_range.mpr hj)⟩

theorem wit_DifferentiableStoresUseTheTape :
    (∀ p ∈ [(opD 0 2, region0), (opD 1 6, region1)],
        access (baseD false) (.dst p.1) .st (dAcc false true p.1 p.2) ((baseD false).here.rs p.1.base) 1
          ∧ inRegion (baseD false) p.1 (dAccess p.1 (baseD false) 0 0) p.2 ∧ raceless (baseD false) (dAcc false true p.1 p.2)
          ∧ (baseD false).here.tapeFull 16 = false)
      ∧ (let s := baseD true
         let o := opD 0 2
         let ra := restoreAcc (2 ^ 58 + 0x10040) 1 0 0
         s.runs (.dst o) .st 0 ∧ s.here.answered 5 = some { id := 3, done := true }
          ∧ s.here.tapeTopEntry s 0 = some (0, 1, 2 ^ 58 + 0x10040) ∧ inRegion s o (dAccess o s 0 0) region0
          ∧ aimed s (dAcc true true o region0) (s.here.rs 2) 1 ∧ clear s (dCells o region0) ∧ owned s (dCells o region0)
          ∧ aimed s (dCells o region0) (region0.cell (dAccess o s 0 0).a) 1 ∧ clear s ra ∧ ra.vault = false ∧ raceless s ra
          ∧ pieceFree s (dAcc true true o region0)
          ∧ (∀ i, i ≤ 1 → s.poisoned (s.here.tapePa 0 (8 * i)) 8 = false ∧ s.racy 0 (s.here.tapePa 0 (8 * i)) 8 = false)
          ∧ ∀ p ∈ (dCells o region0).ps, ∀ q ∈ ra.ps,
              canonPa ((dCells o region0).pa s p) + 4 ≤ canonPa (ra.pa s q) ∨ canonPa (ra.pa s q) + 8 ≤ canonPa ((dCells o region0).pa s p)) :=
  ⟨by
    simp only [List.forall_mem_cons, List.not_mem_nil, false_implies, implies_true, and_true]
    exact ⟨⟨access_of (by decide +kernel), by unfold inRegion; decide +kernel, by unfold raceless; decide +kernel, by decide +kernel⟩,
      access_of (by decide +kernel), by unfold inRegion; decide +kernel, by unfold raceless; decide +kernel, by decide +kernel⟩,
    runs_of (by decide +kernel), by decide +kernel, by decide +kernel, by unfold inRegion; decide +kernel, by unfold aimed; decide +kernel,
    clear_of (by decide +kernel), by unfold owned; decide +kernel, by unfold aimed; decide +kernel, clear_of (by decide +kernel), by decide +kernel,
    by unfold raceless; decide +kernel, by unfold pieceFree; decide +kernel,
    by decide +kernel, by decide +kernel⟩

/-- The descriptor of region 0 answered for DREG; a tape with room for one word. -/
def baseDreg : State :=
  { baseWith (fun k => { k with wait := [(7, { id := 3, done := true, val := 0 })] }) with
    pkg := { base.pkg with launches := [(0, { launch0 with hdr := { launch0.hdr with dtab := 0x10000 } })] } }
theorem wit_DirectionRegionsAndMarkers :
    (∀ i ∈ [(0 : BitVec 32), 1], base.runs (.dmode ⟨0, 0, 0, 0, i⟩) .sy 0) ∧ base.diffBusy 0 0 = false
      ∧ (base.runs (.dreg ⟨0, 9, 0, 0, 7⟩) .sy 0 ∧ base.here.strand = some strand0 ∧ (base.hdrOf strand0).dtab = 0)
      ∧ (baseRev.runs (.dreg ⟨0, 9, 0, 0, 7⟩) .sy 0 ∧ baseRev.here.rev = true)
      ∧ (baseDreg.runs (.dreg ⟨0, 9, 0, 0, 7⟩) .sy 0 ∧ baseDreg.here.rev = false ∧ (baseDreg.hdrOf strand0).dtab ≠ 0
          ∧ clear baseDreg ⟨false, pieces ((baseDreg.hdrOf strand0).dtab + baseDreg.here.rs 0 * 32) 0 32, false, false, false, 0, 0⟩
          ∧ baseDreg.here.answered 7 = some { id := 3, done := true, val := 0 })
      ∧ ((baseD false).runs (.tapemk ⟨0, 0, 3, 0, 0⟩) .sy 0 ∧ (baseD false).here.tapeFull 8 = false ∧ (baseD false).acquiring 0 0 = false) :=
  have h := each (l := [(0 : BitVec 32), 1]) (p := fun i => runsB base (.dmode ⟨0, 0, 0, 0, i⟩) .sy 0) (by decide +kernel)
  ⟨fun i hi => runs_of (h i hi), by decide +kernel, ⟨runs_of (by decide +kernel), rfl, by decide +kernel⟩,
    ⟨runs_of (by decide +kernel), rfl⟩, ⟨runs_of (by decide +kernel), rfl, by decide +kernel, clear_of (by decide +kernel), by decide +kernel⟩,
    runs_of (by decide +kernel), by decide +kernel⟩
/-! Slot MX. -/

def mxB (s : State) (i : Instr) (g : BitVec 4) : Bool :=
  runsB s i .mx g && !s.isDrone s.cur.1 s.cur.2 && (s.here.strand.any fun st => (s.hdrOf st).cube) && s.here.mx.phase != 1
    && !s.paused s.cur.1
def mxOn (s : State) (i : Instr) (g : BitVec 4) : Prop := s.runs i .mx g ∧ mxReady s
theorem mx_of {s : State} {i : Instr} {g : BitVec 4} (h : mxB s i g = true) : mxOn s i g := by
  simp only [mxB, Bool.and_eq_true, Bool.not_eq_true', Option.any_eq_true, bne_iff_ne] at h
  obtain ⟨⟨⟨⟨h1, h2⟩, h3⟩, h4⟩, h5⟩ := h
  exact ⟨runs_of h1, h2, h3, h4, h5⟩

/-- Beats of every operation, on the last tile and on accS, at the first block of SHAPE 0. -/
theorem wit_MatrixOperationsSendTheirBeat :
    (∀ i ∈ [Instr.mpusha ⟨0, 8, 7, 0⟩, .mpushb ⟨0, 8, 7, 0⟩, .mstep ⟨0, 15, 0, 255, 0, 0, 0, 0, 0⟩, .mstep ⟨0, 0, 1, 1, 2, 2, 2, 2, 0⟩,
        .mdrain ⟨0, 9, 15, 0, 0, 0, 0, 0, 0, 0, 0⟩, .mzero ⟨0, 0, 1, 0, 0x8000⟩, .mouter ⟨0, 8, 9, 15, 0, 0, 1, 1, 0⟩,
        .mouter ⟨0, 8, 9, 15, 0, 8, 0, 0, 0⟩, .mrdacc ⟨0, 9, 15, 0, 0, 0, 1, 0⟩, .mwracc ⟨0, 8, 15, 0, 0, 0, 1, 0, 0⟩,
        .mscacc ⟨0, 8, 9, 15, 1, 1, 0⟩, .mrenorm ⟨0, 0, 1, 0⟩, .mexp ⟨0, 9, 15, 0, 0, 0, 0⟩, .mexpW ⟨0, 0, 15, 0, 1, 3, 0⟩],
        mxOn base i 0)
      ∧ widthG 0 (base.here.rf 0) (base.here.rf 0) = widthG 0 (base.here.rf 0) (base.here.rf 0)
      ∧ blockOk (eTy 0 (Fmt.ofReg (base.here.rf 0))).count base.here.shape 0 0 = true ∧ blockOk 64 base.here.shape 0 0 = true
      ∧ blockOk (eTy 0 .f32).count base.here.shape 0 0 = true
      ∧ (layersOf 255).length * weightOf (widthG 0 (base.here.rf 0) (base.here.rf 0)) ≤ (base.core 0).heat :=
  have h := each (l := [Instr.mpusha ⟨0, 8, 7, 0⟩, .mpushb ⟨0, 8, 7, 0⟩, .mstep ⟨0, 15, 0, 255, 0, 0, 0, 0, 0⟩,
      .mstep ⟨0, 0, 1, 1, 2, 2, 2, 2, 0⟩, .mdrain ⟨0, 9, 15, 0, 0, 0, 0, 0, 0, 0, 0⟩, .mzero ⟨0, 0, 1, 0, 0x8000⟩,
      .mouter ⟨0, 8, 9, 15, 0, 0, 1, 1, 0⟩, .mouter ⟨0, 8, 9, 15, 0, 8, 0, 0, 0⟩, .mrdacc ⟨0, 9, 15, 0, 0, 0, 1, 0⟩,
      .mwracc ⟨0, 8, 15, 0, 0, 0, 1, 0, 0⟩, .mscacc ⟨0, 8, 9, 15, 1, 1, 0⟩, .mrenorm ⟨0, 0, 1, 0⟩, .mexp ⟨0, 9, 15, 0, 0, 0, 0⟩,
      .mexpW ⟨0, 0, 15, 0, 1, 3, 0⟩]) (p := fun i => mxB base i 0) (by decide +kernel)
  ⟨fun i hi => mx_of (h i hi), rfl, by decide +kernel, by decide +kernel, by decide +kernel, by decide +kernel⟩

/-- The reset value of a format register in s9; each selector of MPROG. -/
def baseF : State := baseWith fun k => { k with s := [(9, 0x00050748)] }
theorem wit_FormatAndProgressInstructions :
    (mxOn baseF (.mfmt ⟨0, 7, 9, 0⟩) 0 ∧ (baseF.here.rs 9).extractLsb' 32 32 = 0 ∧ fmtLegal ((baseF.here.rs 9).setWidth 32) = true)
      ∧ ∀ n ∈ [(0 : BitVec 2), 1, 2], mxOn base (.mprog ⟨0, 9, n, 0⟩) 0 :=
  have h := each (l := [(0 : BitVec 2), 1, 2]) (p := fun n => mxB base (.mprog ⟨0, 9, n, 0⟩) 0) (by decide +kernel)
  ⟨⟨mx_of (by decide +kernel), by decide +kernel, by decide +kernel⟩, fun n hn => mx_of (h n hn)⟩

/-- A descriptor of one step and one layer in s10 to s15, and a CUBE that stopped at it. -/
def cubeRegs : NMap (BitVec 64) :=
  [(10, 0x100010001), (11, 0x1FC000000), (12, 0x10000), (13, 0x1FC101000), (14, 0x10000), (15, 0x10000)]
def baseC : State := baseWith fun k => { k with s := cubeRegs }
def baseC2 : State := baseWith fun k => { k with s := cubeRegs, mx := { phase := 2, sd := 10, tile := 3, mask := 1 } }
def cubeP : MxProg := { phase := 1, sd := 10, tile := 15, mask := 1 }

theorem wit_CubesStartResumeAndAbandon :
    (let d := readDesc baseC 0 0 cubeP
     mxOn baseC (.cube ⟨0, 15, 10, 1, 0, 0, 0, 0⟩) 0 ∧ descTrap baseC 0 0 10 d 0 = none ∧ claimWaits baseC 0 d (d.stream 0) = false ∧ baseC.acquiring 0 0 = false
      ∧ d.steps * d.layers * d.fw ≤ (baseC.core 0).heat)
      ∧ (let p := baseC2.here.mx
         let d := readDesc baseC2 0 0 p
         let start := restartStep baseC2 0 0
         mxOn baseC2 (.mresume ⟨0, 0, 0⟩) 0 ∧ p.phase = 2
          ∧ (p.sd ≤ 58 ∧ p.mask ≠ 0 ∧ p.af ≤ 5 ∧ p.bf ≤ 5 ∧ p.mode ≤ 2 ∧ (p.mode = 2 → p.tile = 0))
          ∧ descTrap baseC2 0 0 p.sd d start = none ∧ claimWaits baseC2 0 d (d.stream start) = false
          ∧ baseC2.acquiring 0 0 = false)
      ∧ (mxOn base (.mresume ⟨0, 0, 0⟩) 0 ∧ base.here.mx.phase ≠ 2)
      ∧ mxOn base (.mresumeAbandon ⟨0, 0, 1⟩) 0 ∧ mxOn baseC2 (.mresumeAbandon ⟨0, 0, 1⟩) 0 :=
  ⟨⟨mx_of (by decide +kernel), by decide +kernel, by decide +kernel, by decide +kernel⟩,
    ⟨mx_of (by decide +kernel), by decide +kernel, by decide +kernel, by decide +kernel, by decide +kernel⟩,
    ⟨mx_of (by decide +kernel), by decide +kernel⟩, mx_of (by decide +kernel), mx_of (by decide +kernel)⟩
/-! Slot SY. -/

def servedB (s : State) (a : Acc) (base : BitVec 64) (w : Nat) : Bool :=
  freeB s a
    && (!a.vault || (!s.badVp a.c base && (a.ps.all fun p => p.off % w != 0 || p.ea.toNat % w == 0)
      && (s.supv a.c a.x || a.ps.all fun p => decide (vpLin p.ea < 8191 * 8192))))
    && (a.vault || a.ps.all fun p => p.ea.toNat % w == 0 && ((vaultOf (a.pa s p)).isSome || isHbm (a.pa s p)))
theorem aimed_of {s : State} {a : Acc} {base : BitVec 64} {n : Nat}
    (h : (!a.vault || (!s.badVp a.c base && (a.ps.all fun p => p.off % n != 0 || p.ea.toNat % n == 0)
      && (s.supv a.c a.x || a.ps.all fun p => decide (vpLin p.ea < 8191 * 8192)))) = true) : aimed s a base n := by
  simp only [Bool.and_eq_true, Bool.or_eq_true, Bool.not_eq_true', List.all_eq_true, decide_eq_true_eq, bne_iff_ne,
    beq_iff_eq] at h
  intro v
  obtain ⟨⟨h1, h2⟩, h3⟩ := h.resolve_left (by simp [v])
  exact ⟨h1, fun p hp e => (h2 p hp).resolve_left (fun n => n e), h3⟩
theorem served_of {s : State} {a : Acc} {base : BitVec 64} {w : Nat} (h : servedB s a base w = true) : served s a base w := by
  simp only [servedB, Bool.and_eq_true] at h
  have p (v : a.vault = false) : ∀ p ∈ a.ps, p.ea.toNat % w = 0 ∧ ((vaultOf (a.pa s p)).isSome = true ∨ isHbm (a.pa s p) = true) := by
    have := h.2
    simp only [v, Bool.false_or, List.all_eq_true, Bool.and_eq_true, Bool.or_eq_true, beq_iff_eq] at this
    exact this
  exact ⟨free_of h.1.1, aimed_of h.1.2, fun v q hq => (p v q hq).2, fun v q hq => (p v q hq).1⟩

def scalarAtomics : List (OpSyA → Instr) := [.aadd, .amin, .amax, .aand, .aor, .axor, .aswp, .acas]
/-- Eight bytes with acquire and release; four, relaxed, without a result. -/
def opA1 : OpSyA := ⟨0, 9, 6, 3, 1, 3, 1, 0⟩
def opA2 : OpSyA := ⟨0, 0, 6, 3, 0, 0, 1, 0⟩

theorem wit_LocalAtomicsReadAndChangeTheirOperand :
    (∀ mk ∈ scalarAtomics, ∀ o ∈ [opA1, opA2], base.runs (mk o) .sy 0)
      ∧ base.quiet ∧ base.relHeld 0 = false
      ∧ ∀ o ∈ [opA1, opA2], served base (atomAcc base o) (base.here.rs o.base) (width o) ∧ (atomAcc base o).isLocal = true
          ∧ unitFree base (atomPa base o) ∧ base.poisoned (atomPa base o) (width o) = false :=
  have h1 := each (l := scalarAtomics) (p := fun mk => [opA1, opA2].all fun o => runsB base (mk o) .sy 0) (by decide +kernel)
  have h2 := each (l := [opA1, opA2]) (p := fun o => servedB base (atomAcc base o) (base.here.rs o.base) (width o)
    && ((atomAcc base o).isLocal && (base.nextAt (ownerOf (atomPa base o)) == none && !base.poisoned (atomPa base o) (width o))))
    (by decide +kernel)
  ⟨fun mk hm o ho => runs_of (each (h1 mk hm) o ho), quiet_of (by decide +kernel), by decide +kernel, fun o ho => by
    have h := h2 o ho
    simp only [Bool.and_eq_true, Bool.not_eq_true'] at h
    exact ⟨served_of h.1, h.2.1, eq_of_beq h.2.2.1, h.2.2.2⟩⟩

/-- The request of slot SY answered; another vault's pointer in s9. -/
def done7 : WaitRec := { id := 4, done := true, val := 77 }
def baseAns : State := baseWith fun k => { k with s := (9, 0x04000100) :: k.s, wait := [(7, done7)], v := [(9, joinElems 64 ((List.range 32).map (64 * ·)))] }
def opA3 : OpSyA := ⟨0, 9, 2, 3, 1, 3, 0, 0⟩
def opA4 (sd : BitVec 6) : OpSyA := ⟨0, sd, 9, 0, 0, 0, 1, 0⟩

theorem wit_AcceptedRequestsGoLive :
    (baseAns.ready7 0 0 = some done7 ∧ done7.mark = none ∧ baseAns.relHeld 0 = false)
      ∧ ((∀ mk ∈ scalarAtomics, baseAns.runs (mk opA3) .sy 0) ∧ served baseAns (atomAcc baseAns opA3) (baseAns.here.rs 2) 8
          ∧ (atomAcc baseAns opA3).isLocal = false)
      ∧ ((∀ mk ∈ [Instr.binit, .barr], baseAns.runs (mk (opA4 0)) .sy 0 ∧ baseAns.runs (mk (opA4 63)) .sy 0)
          ∧ served baseAns (barAcc baseAns (opA4 0) true) (baseAns.here.rs 9) 16 ∧ (barAcc baseAns (opA4 0) true).isLocal = false)
      ∧ ∀ mk ∈ [Instr.vaadd, .vaor], baseAns.runs (mk ⟨0, 9, 9, 6, 9, 2, 1, 0⟩) .sy 0
          ∧ served baseAns ⟨true, (List.range 32).map fun i =>
              ⟨vaultEA (baseAns.here.rs 6) (BitVec.ofInt 64 (sgn 64 (elem 64 i (baseAns.here.rv 9)))) 0 0, 8, 8 * i⟩,
              true, true, false, 0, 0⟩ (baseAns.here.rs 6) 8 :=
  have h1 := each (l := scalarAtomics) (p := fun mk => runsB baseAns (mk opA3) .sy 0) (by decide +kernel)
  have h2 := each (l := [Instr.binit, .barr]) (p := fun mk => runsB baseAns (mk (opA4 0)) .sy 0 && runsB baseAns (mk (opA4 63)) .sy 0)
    (by decide +kernel)
  have h3 := each (l := [Instr.vaadd, .vaor]) (p := fun mk => runsB baseAns (mk ⟨0, 9, 9, 6, 9, 2, 1, 0⟩) .sy 0) (by decide +kernel)
  ⟨⟨by decide +kernel, rfl, by decide +kernel⟩, ⟨fun mk hm => runs_of (h1 mk hm), served_of (by decide +kernel), by decide +kernel⟩,
    ⟨fun mk hm => have h := Bool.and_eq_true .. ▸ h2 mk hm; ⟨runs_of h.1, runs_of h.2⟩, served_of (by decide +kernel), by decide +kernel⟩,
    fun mk hm => ⟨runs_of (h3 mk hm), served_of (by decide +kernel)⟩⟩

/-- A barrier of one strand in the own vault, at which an arrival is the last; counts of 1 and 0 strands. -/
def baseBar : State := { baseWith (fun k => { k with s := (9, 0x700000001) :: (10, 0x700000000) :: k.s }) with mem := [(0x10000000000, 1)] }
def opBar (sb : BitVec 6) : OpSyA := ⟨0, 9, 6, sb, 0, 0, 1, 0⟩
theorem wit_LocalBarriersInitialiseAndArrive :
    (∀ sb ∈ [(9 : BitVec 6), 10], baseBar.runs (.binit (opBar sb)) .sy 0) ∧ baseBar.runs (.barr (opBar 0)) .sy 0
      ∧ baseBar.here.strand = some strand0 ∧ baseBar.quiet
      ∧ served baseBar (barAcc baseBar (opBar 0) true) (baseBar.here.rs 6) 16 ∧ (barAcc baseBar (opBar 0) true).isLocal = true
      ∧ unitFree baseBar (barPa baseBar (opBar 0)) ∧ baseBar.poisoned (barPa baseBar (opBar 0)) 16 = false ∧ baseBar.relHeld 0 = false ∧ noWaiter baseBar (barPa baseBar (opBar 0))
      ∧ (baseBar.barrier (barPa baseBar (opBar 0))).usable = true :=
  have h := each (l := [(9 : BitVec 6), 10]) (p := fun sb => runsB baseBar (.binit (opBar sb)) .sy 0) (by decide +kernel)
  ⟨fun sb hs => runs_of (h sb hs), runs_of (by decide +kernel), rfl, quiet_of (by decide +kernel), served_of (by decide +kernel),
    by decide +kernel, by unfold unitFree; decide +kernel, by decide +kernel, by decide +kernel, by unfold noWaiter; decide +kernel, by decide +kernel⟩

/-- A channel that runs and has copied its last chunk alone. -/
def baseRun : State :=
  { base with cores := [(0, { base.core 0 with chans := [(3, { state := 1, bitmap := 1 <<< 511 })] })]
              ctxs := [(0, { ctx0 with v := [(9, 1 <<< 511)] })] }
theorem wit_WaitsRetireOnTheirCondition :
    (baseAns.runs (.bwait (opA4 0)) .sy 0 ∧ freeOf baseAns (barAcc baseAns (opA4 0) false)
        ∧ aimed baseAns (barAcc baseAns (opA4 0) false) (baseAns.here.rs 9) 16 ∧ baseAns.ready7 0 0 = some done7 ∧ done7.mark = none)
      ∧ (base.runs (.cewait ⟨0, 3, 1, 0, 0⟩) .sy 0 ∧ (base.chan 0 3).state ≠ 2 ∧ (base.chan 0 3).state ≠ 1)
      ∧ (baseRun.runs (.cewait ⟨0, 3, 0, 9, 0⟩) .sy 0 ∧ (baseRun.chan 0 3).state = 1
          ∧ ∀ i, i < 512 → ((baseRun.here.rv 9).setWidth 512).getLsbD i = true → (baseRun.chan 0 3).bitmap.getLsbD i = true)
      ∧ (baseRun.runs (.cewait ⟨0, 3, 1, 0, 0⟩) .sy 0 ∧ (baseRun.chan 0 3).state = 1
          ∧ ∃ i, i < 512 ∧ (BitVec.allOnes 512).getLsbD i = true ∧ (baseRun.chan 0 3).bitmap.getLsbD i = false)
      ∧ base.runs (.fence ⟨0, 0, 0, 0, 0⟩) .sy 0 ∧ base.quiet ∧ base.relHeld 0 = false :=
  ⟨⟨runs_of (by decide +kernel), free_of (by decide +kernel), aimed_of (by decide +kernel), by decide +kernel, rfl⟩,
    ⟨runs_of (by decide +kernel), by decide +kernel, by decide +kernel⟩, ⟨runs_of (by decide +kernel), by decide +kernel, by decide +kernel⟩,
    ⟨runs_of (by decide +kernel), by decide +kernel, 0, by decide +kernel⟩, runs_of (by decide +kernel), quiet_of (by decide +kernel),
    by decide +kernel⟩

/-- A launch of groups, the answer of a round, and the last receive window. -/
def baseG : State :=
  { baseWith (fun k => { k with s := (9, 0x04000100) :: k.s, wait := [(7, done7)], gred := some done7 }) with
    pkg := { base.pkg with launches := [(0, { launch0 with hdr := { launch0.hdr with lcfg := launch0.hdr.lcfg ||| (2 <<< 36) } })]
                           wins := [(63, { bound := true })] } }
theorem wit_CollectivesAndEventsGiveTheirAnswer :
    (base.runs (.gred ⟨0, 9, 3, 0, 0⟩) .sy 0 ∧ base.here.strand = some strand0 ∧ strand0.pjoin = 0 ∧ bitsOf (0 : BitVec 32) 6 4 = 0)
      ∧ (baseG.runs (.gred ⟨0, 9, 3, 0, 0x10⟩) .sy 0 ∧ baseG.here.strand = some strand0 ∧ 1 ≤ (baseG.hdrOf strand0).glev
          ∧ bitsOf (0x10 : BitVec 32) 6 4 = 1 ∧ baseG.gredReady 0 0 = some done7)
      ∧ (baseG.runs (.event ⟨0, 9, 3, 4, 0xFFFF⟩) .sy 0 ∧ baseG.ready7 0 0 = some done7)
      ∧ (baseG.runs (.steptag ⟨0, 9, 0, 0, 63⟩) .sy 0 ∧ (baseG.rwin 63).bound = true ∧ (baseG.rwin 63).asid = baseG.asid 0 0)
      ∧ baseG.runs (.steptagW ⟨0, 9, 3, 0, 0x13F⟩) .sy 0 ∧ baseG.quiet ∧ baseG.relHeld 0 = false :=
  ⟨⟨runs_of (by decide +kernel), rfl, rfl, by decide +kernel⟩,
    ⟨runs_of (by decide +kernel), rfl, by decide +kernel, by decide +kernel, by decide +kernel⟩, ⟨runs_of (by decide +kernel), by decide +kernel⟩,
    ⟨runs_of (by decide +kernel), by decide +kernel, by decide +kernel⟩, runs_of (by decide +kernel), quiet_of (by decide +kernel),
    by decide +kernel⟩

def baseTune : State := { base with clusters := [(0, { userTune := true })] }
theorem wit_PowerStatisticsAndTimeInstructions :
    (∀ mk ∈ [Instr.tune, .clkdiv], baseSupv.runs (mk ⟨0, 9, 3, 0, 0⟩) .sy 0 ∧ baseTune.runs (mk ⟨0, 9, 3, 0, 0⟩) .sy 0)
      ∧ baseSupv.supv 0 0 = true ∧ (baseTune.cluster 0).userTune = true
      ∧ base.runs (.ballastOff ⟨0, 9, 0, 0, 0⟩) .sy 0 ∧ base.runs (.ballastLevel ⟨0, 9, 3, 0, 1⟩) .sy 0
      ∧ base.runs (.ballastAuto ⟨0, 9, 0, 0, 2⟩) .sy 0
      ∧ (∀ sd ∈ [(0 : BitVec 6), 62], base.runs (.statq ⟨0, sd, 0, 0, 0⟩) .sy 0)
      ∧ (∀ i ∈ [(1 : BitVec 32), 2], base.runs (.waitt ⟨0, 9, 0, 0, i⟩) .sy 0) ∧ (base.here.rs 0).toNat ≤ base.refCount 0
      ∧ (base.here.rs 0).toNat ≤ base.ptimeNs :=
  have h1 := each (l := [Instr.tune, .clkdiv])
    (p := fun mk => runsB baseSupv (mk ⟨0, 9, 3, 0, 0⟩) .sy 0 && runsB baseTune (mk ⟨0, 9, 3, 0, 0⟩) .sy 0) (by decide +kernel)
  have h2 := each (l := [(0 : BitVec 6), 62]) (p := fun sd => runsB base (.statq ⟨0, sd, 0, 0, 0⟩) .sy 0) (by decide +kernel)
  have h3 := each (l := [(1 : BitVec 32), 2]) (p := fun i => runsB base (.waitt ⟨0, 9, 0, 0, i⟩) .sy 0) (by decide +kernel)
  ⟨fun mk hm => have h := Bool.and_eq_true .. ▸ h1 mk hm; ⟨runs_of h.1, runs_of h.2⟩, by decide +kernel, by decide +kernel,
    runs_of (by decide +kernel), runs_of (by decide +kernel), runs_of (by decide +kernel), fun sd hs => runs_of (h2 sd hs),
    fun i hi => runs_of (h3 i hi), by decide +kernel, by decide +kernel⟩

/-- In trap mode, and with TRAPH = 0. -/
def baseNoH : State :=
  { base with pkg := { base.pkg with launches := [(0, { launch0 with hdr := { launch0.hdr with traph := 0 } })] } }
theorem wit_TrapEntersTheHandler :
    (base.runs (.trap ⟨0, 0, 0, 0, 0xFFFF⟩) .sy 0 ∧ base.quiet ∧ base.here.trapm = false ∧ base.traph 0 0 ≠ 0 ∧ base.here.gred = none)
      ∧ (baseTrap.runs (.trap ⟨0, 0, 0, 0, 0⟩) .sy 0 ∧ baseTrap.here.strand.isSome = true ∧ baseTrap.here.trapm = true)
      ∧ baseNoH.runs (.trap ⟨0, 0, 0, 0, 0⟩) .sy 0 ∧ baseNoH.here.strand.isSome = true ∧ baseNoH.traph 0 0 = 0 :=
  ⟨⟨runs_of (by decide +kernel), quiet_of (by decide +kernel), rfl, by decide +kernel, rfl⟩, ⟨runs_of (by decide +kernel), rfl, rfl⟩,
    runs_of (by decide +kernel), rfl, by decide +kernel⟩

theorem wit_EretGoesBack : baseTrap.runs (.eret ⟨0, 0, 0, 0, 0⟩) .sy 0 ∧ baseTrap.here.trapm = true :=
  ⟨runs_of (by decide +kernel), rfl⟩

/-- TRAP.SCR3, the last index of a context's half, a core's register, and a cluster's after its freeze. -/
def baseSys : State := { baseSupv with ctxs := [(0, { ctx0 with wait := [(0, { id := 0 })] })] }
theorem wit_SystemRegistersAreReadAndWritten :
    (∀ i ∈ [(0x37 : BitVec 32), 0x1C0, 0x20A], baseSys.runs (.sysrd ⟨0, 9, 0, 0, i⟩) .s 0)
      ∧ (∃ w, baseSys.here.waiting 0 = some w ∧ w.id ≤ baseSys.now)
      ∧ (∀ i ∈ [(0x37 : BitVec 32), 0x19, 0x1B], baseSys.runs (.syswr ⟨0, 0, 3, 0, i⟩) .s 0) ∧ baseSys.tapeBusy 0 0 = false
      ∧ (∀ i ∈ [(0x100 : BitVec 32), 0x1C0, 0x206, 0x304], baseSys.runs (.syswr ⟨0, 0, 3, 0, i⟩) .s 0) ∧ baseSys.supv 0 0 = true :=
  have h1 := each (l := [(0x37 : BitVec 32), 0x1C0, 0x20A]) (p := fun i => runsB baseSys (.sysrd ⟨0, 9, 0, 0, i⟩) .s 0) (by decide +kernel)
  have h2 := each (l := [(0x37 : BitVec 32), 0x19, 0x1B]) (p := fun i => runsB baseSys (.syswr ⟨0, 0, 3, 0, i⟩) .s 0) (by decide +kernel)
  have h3 := each (l := [(0x100 : BitVec 32), 0x1C0, 0x206, 0x304]) (p := fun i => runsB baseSys (.syswr ⟨0, 0, 3, 0, i⟩) .s 0)
    (by decide +kernel)
  ⟨fun i hi => runs_of (h1 i hi), ⟨_, rfl, by decide +kernel⟩, fun i hi => runs_of (h2 i hi), by decide +kernel,
    fun i hi => runs_of (h3 i hi), by decide +kernel⟩
/-! Copy channels and strands. -/

/-- Indices queued at channel 3, one less than the queue holds; a channel that has halted. -/
def baseCh (h : Chan) : State := { base with cores := [(0, { base.core 0 with chans := [(3, h)] })] }
def baseQ : State := baseCh { queue := List.replicate 255 none }
def baseHalt : State := baseCh { state := 2 }
def opCe (imm : BitVec 30) : OpCeA := ⟨0, 3, 3, 4, 5, imm⟩

theorem wit_ChannelsAreConfigured :
    (base.runs (.cebase ⟨0, 3, 3, 4, 0, 0⟩) .ce 0 ∧ base.runs (.cebase ⟨0, 3, 3, 4, 0, 8⟩) .ce 0
        ∧ base.runs (.celvl ⟨0, 3, 3, 4, 5, 0⟩) .ce 0 ∧ base.runs (.celen ⟨0, 3, 3, 0, 0, 0⟩) .ce 0
        ∧ base.runs (.cefab ⟨0, 3, 3, 4, 0, 0⟩) .ce 0)
      ∧ (base.chan 0 3).state ≠ 1
      ∧ (∀ i ∈ [Instr.ceidx ⟨0, 3, 3, 0, 0, 0⟩, .ceidx ⟨0, 3, 3, 0, 0, 7⟩, .ceidxend ⟨0, 3, 0, 0, 0, 0⟩], baseQ.runs i .ce 0)
      ∧ (baseQ.chan 0 3).queue.length + 1 ≤ 256
      ∧ (∀ n ∈ [(1 : BitVec 7), 64], base.runs (.ceidxv ⟨0, 3, 9, 0, 0, 0, n, 0⟩) .ce 0)
      ∧ (base.chan 0 3).queue.length + ((List.range 64).map fun i => some (ceIndex base (base.here.rv 9) ⟨0, 3, 9, 0, 0, 0, 64, 0⟩ i)).length
          ≤ 256 :=
  have h1 := each (l := [Instr.ceidx ⟨0, 3, 3, 0, 0, 0⟩, .ceidx ⟨0, 3, 3, 0, 0, 7⟩, .ceidxend ⟨0, 3, 0, 0, 0, 0⟩])
    (p := fun i => runsB baseQ i .ce 0) (by decide +kernel)
  have h2 := each (l := [(1 : BitVec 7), 64]) (p := fun n => runsB base (.ceidxv ⟨0, 3, 9, 0, 0, 0, n, 0⟩) .ce 0) (by decide +kernel)
  ⟨⟨runs_of (by decide +kernel), runs_of (by decide +kernel), runs_of (by decide +kernel), runs_of (by decide +kernel),
      runs_of (by decide +kernel)⟩, by decide +kernel, fun i hi => runs_of (h1 i hi), by decide +kernel, fun n hn => runs_of (h2 n hn),
    by rw [List.length_map, List.length_range]; decide +kernel⟩

theorem wit_ChannelsStartStopAndReport :
    (base.runs (.cego ⟨0, 3, 0, 0, 0, 0⟩) .ce 0 ∧ (base.chan 0 3).state ≠ 1 ∧ (base.core 0).score.length < 16
        ∧ base.acquiring 0 0 = false)
      ∧ (baseHalt.runs (.ceresume ⟨0, 3, 0, 0, 0, 0⟩) .ce 0 ∧ (baseHalt.chan 0 3).state = 2 ∧ (baseHalt.core 0).score.length < 16
        ∧ baseHalt.acquiring 0 0 = false)
      ∧ (base.runs (.ceresume ⟨0, 3, 0, 0, 0, 0⟩) .ce 0 ∧ (base.chan 0 3).state ≠ 2)
      ∧ (base.runs (.cecancel ⟨0, 3, 0, 0, 0, 0⟩) .ce 0 ∧ (base.chan 0 3).state ≠ 1)
      ∧ (∀ i ∈ [(0 : BitVec 30), 2, 16], base.runs (.cestat ⟨0, 3, 9, 0, 0, i⟩) .ce 0)
      ∧ baseHalt.runs (.cestat ⟨0, 3, 9, 0, 0, 1⟩) .ce 0 ∧ (1 : BitVec 30).getLsbD 0 = true :=
  have h := each (l := [(0 : BitVec 30), 2, 16]) (p := fun i => runsB base (.cestat ⟨0, 3, 9, 0, 0, i⟩) .ce 0) (by decide +kernel)
  ⟨⟨runs_of (by decide +kernel), by decide +kernel⟩, ⟨runs_of (by decide +kernel), by decide +kernel⟩,
    ⟨runs_of (by decide +kernel), by decide +kernel⟩, ⟨runs_of (by decide +kernel), by decide +kernel⟩, fun i hi => runs_of (h i hi), runs_of (by decide +kernel),
    by decide +kernel⟩

/-- Every slot used, a full deque, a full count of children, one child. -/
def baseOut (n : Nat) : State := baseWith fun k => { k with strand := some { strand0 with out := n } }
def baseUsed : State :=
  { base with pkg := { base.pkg with launches := [(0, { launch0 with used := (List.range 8).map fun i => (i, true) })] } }
def baseFull : State := { base with cores := [(0, { base.core 0 with deque := List.replicate 1056 0 })] }
def fork : Instr := .fork ⟨0, 9, 3, 4, 0⟩

theorem wit_ForkMakesAChild :
    (base.runs fork .sy 0 ∧ base.here.strand = some strand0 ∧ base.quiet ∧ base.relHeld 0 = false
        ∧ (base.launch 0).freeSlotNo = some 1 ∧ (base.core 0).deque.length < 1056 ∧ strand0.out ≠ 2 ^ 32 - 1)
      ∧ (baseUsed.runs fork .sy 0 ∧ baseUsed.quiet ∧ baseUsed.relHeld 0 = false ∧ (baseUsed.launch 0).freeSlotNo = none)
      ∧ (baseFull.runs fork .sy 0 ∧ baseFull.quiet ∧ baseFull.relHeld 0 = false ∧ (baseFull.launch 0).freeSlotNo ≠ none
          ∧ 1056 ≤ (baseFull.core 0).deque.length)
      ∧ (baseOut (2 ^ 32 - 1)).runs fork .sy 0 ∧ (baseOut (2 ^ 32 - 1)).quiet ∧ (baseOut (2 ^ 32 - 1)).relHeld 0 = false
          ∧ ((baseOut (2 ^ 32 - 1)).launch 0).freeSlotNo ≠ none ∧ ((baseOut (2 ^ 32 - 1)).core 0).deque.length < 1056
          ∧ (baseOut (2 ^ 32 - 1)).here.strand = some { strand0 with out := 2 ^ 32 - 1 } :=
  ⟨⟨runs_of (by decide +kernel), rfl, quiet_of (by decide +kernel), by decide +kernel, by decide +kernel, by decide +kernel, by decide +kernel⟩,
    ⟨runs_of (by decide +kernel), quiet_of (by decide +kernel), by decide +kernel, by decide +kernel⟩,
    ⟨runs_of (by decide +kernel), quiet_of (by decide +kernel), by decide +kernel, by decide +kernel, by decide +kernel⟩,
    runs_of (by decide +kernel), quiet_of (by decide +kernel), by decide +kernel, by decide +kernel, by decide +kernel, rfl⟩

theorem wit_JoinYieldAndCheckpointSave :
    (base.runs (.join ⟨0, 9, 0, 0, 0⟩) .sy 0 ∧ base.runs (.joinPark ⟨0, 9, 0, 0, 0x80000000⟩) .sy 0 ∧ base.here.strand = some strand0
        ∧ strand0.out = 0)
      ∧ ((baseOut 1).runs (.joinPark ⟨0, 9, 0, 0, 0x80000000⟩) .sy 0 ∧ (baseOut 1).here.strand = some { strand0 with out := 1 }
          ∧ (baseOut 1).here.trapm = false)
      ∧ (base.runs (.yield ⟨0, 0, 0, 0, 0⟩) .sy 0 ∧ baseTrap.runs (.yield ⟨0, 0, 0, 0, 0⟩) .sy 0)
      ∧ base.runs (.ckpt ⟨0, 0, 0, 0, 0⟩) .sy 0 ∧ base.here.save = none :=
  ⟨⟨runs_of (by decide +kernel), runs_of (by decide +kernel), rfl, rfl⟩, ⟨runs_of (by decide +kernel), rfl, rfl⟩,
    ⟨runs_of (by decide +kernel), runs_of (by decide +kernel)⟩, runs_of (by decide +kernel), rfl⟩

theorem wit_ExitEndsTheStrand :
    (base.runs (.exit ⟨0, 0, 0, 0, 0⟩) .sy 0 ∧ base.here.strand = some strand0 ∧ exitWaits base 0 0 = false)
      ∧ baseTrap.runs (.exit ⟨0, 0, 0, 0, 0⟩) .sy 0 ∧ baseTrap.here.strand = some strand0 ∧ exitWaits baseTrap 0 0 = false :=
  ⟨⟨runs_of (by decide +kernel), rfl, by decide +kernel⟩, runs_of (by decide +kernel), rfl, by decide +kernel⟩

/-- Page tables that lay the first gigabyte of address space 0 on that of HBM, a launch header at 0x100100, and a launch queue of two
entries with one in it, which names that header. -/
def pages (s : State) : State :=
  [(0x8000010000, 0x8000011001), (0x8000011000, 0x8000012001), (0x8000012000, 0x800000003D), (0x8000100100, 0x2000),
    (0x8000100108, 0x2000), (0x8000100110, 8 * 2 ^ 48 + 4 * 2 ^ 6 + 4), (0x8000100118, 0x33), (0x8000100120, 0x500000),
    (0x8000100138, 2 + 2 ^ 48), (0x8000700000, 0x100100), (0x8000700008, 77)].foldl (fun t p => t.wr p.1 8 p.2)
    { s with pkg := { s.pkg with roots := [(0, 0x8000010001)]
                                 queues := [(3, { base := 0x8000700000, en := true, supv := true, prod := 1 })] } }
def baseP (n va : Nat) : State := pages (baseWith fun k => { k with s := [(6, BitVec.ofNat 64 va)], strand := some { strand0 with out := n } })
def spawn (q : BitVec 32) : Instr := .spawn ⟨0, 9, 6, 3, q⟩
/-- Whether a header passes its check, and whether a queue has room. -/
def headerOk (s : State) : Bool :=
  (s.here.rs 6).toNat % 128 == 0 && (match s.headerAt (s.asid 0 0) (s.supv 0 0) (s.here.rs 6) with
    | some (_, h) => s.headerCheck (s.asid 0 0) h == 0
    | none => false)
def queueRoom (s : State) (q : Nat) : Bool := (s.queue q).en && decide ((s.queue q).held < (s.queue q).size)

theorem wit_SpawnQueuesALaunch :
    (∀ p ∈ [(baseP 0 0x100100, (3 : BitVec 32), true, true), (baseP 0 0x100140, 3, false, true), (baseP 0 0x100100, 4, true, false),
        (baseP (2 ^ 32 - 1) 0x100100, 3, true, true)],
      p.1.runs (spawn p.2.1) .sy 0 ∧ p.1.quiet ∧ p.1.relHeld 0 = false ∧ headerOk p.1 = p.2.2.1 ∧ queueRoom p.1 p.2.1.toNat = p.2.2.2)
      ∧ (baseP 0 0x100100).here.strand = some strand0
      ∧ (baseP (2 ^ 32 - 1) 0x100100).here.strand = some { strand0 with out := 2 ^ 32 - 1 } :=
  have h := each (l := [(baseP 0 0x100100, (3 : BitVec 32), true, true), (baseP 0 0x100140, 3, false, true),
      (baseP 0 0x100100, 4, true, false), (baseP (2 ^ 32 - 1) 0x100100, 3, true, true)])
    (p := fun p => runsB p.1 (spawn p.2.1) .sy 0 && (quietB p.1 && (!p.1.relHeld 0
      && (headerOk p.1 == p.2.2.1 && queueRoom p.1 p.2.1.toNat == p.2.2.2)))) (by decide +kernel)
  ⟨fun p hp => by
    have h := h p hp
    simp only [Bool.and_eq_true, Bool.not_eq_true', beq_iff_eq] at h
    exact ⟨runs_of h.1, quiet_of h.2.1, h.2.2.1, h.2.2.2⟩, by decide +kernel, by decide +kernel⟩

/-- The strand's own record, the second of the pool, which no strand uses, and no record; a header that a µTLB entry reaches. -/
def baseK : State := baseWith fun k => { k with s := [(3, 0x8000500000), (4, 0x8000501000), (5, 5)] }
def baseKL : State :=
  { base with pkg := { base.pkg with launches := [(0, { launch0 with supv := true })] }, ctxs := [(0, { ctx0 with s := [(3, 0x10040)] })] }
theorem wit_KillEndsStrandsAndLaunches :
    (∀ a ∈ [(3 : BitVec 6), 4, 5], baseK.runs (.kill ⟨0, 9, a, 0, 0⟩) .sy 0) ∧ baseK.here.strand = some strand0
      ∧ (let l := baseK.launch 0
         let inPool (pa : Nat) : Prop := l.hdr.slotBytes ≠ 0 ∧ l.poolPa ≤ pa ∧ pa - l.poolPa < l.hdr.nslot * l.hdr.slotBytes
          ∧ (pa - l.poolPa) % l.hdr.slotBytes = 0
         let live (pa : Nat) : Prop := mget false l.used ((pa - l.poolPa) / l.hdr.slotBytes) = true ∧ finalState (baseK.recState pa) = false
         (inPool 0x8000500000 ∧ live 0x8000500000) ∧ (inPool 0x8000501000 ∧ ¬live 0x8000501000) ∧ ¬inPool 5)
      ∧ baseKL.runs (.killL ⟨0, 9, 3, 0, 1⟩) .sy 0 ∧ baseKL.supv 0 0 = true ∧ baseKL.xslot 0 0 (baseKL.here.rs 3) false = .ok 0x8000100040 :=
  have h := each (l := [(3 : BitVec 6), 4, 5]) (p := fun a => runsB baseK (.kill ⟨0, 9, a, 0, 0⟩) .sy 0) (by decide +kernel)
  ⟨fun a ha => runs_of (h a ha), rfl, by decide +kernel, runs_of (by decide +kernel), by decide +kernel, by decide +kernel⟩
/-! Steps of messages: message 5, alone in flight, of context 0 of core 0. -/

def msg (op : MsgOp) (st : MsgSt) (pa : Nat) (dest : Dest := .none) : Msg :=
  { id := 5, core := 0, x := 0, pa := pa, va := 0x1234, op := op, dest := dest, st := st }
def netOf (m : Msg) : State := { base with net := [m] }
/-- A stamp of core 1 in the first unit of the own vault, of a region that core 0 has not seen. -/
def raced (s : State) : State := { s with stamps := [(0, 1, 3)] }
theorem atOwner_of {s : State} {m : Nat} {a : Msg}
    (h : (s.arrived m == some a && (a.st == .live && s.eligible a)) = true) : atOwner s m a := by
  simpa [atOwner] using h

def vault0 : Nat := 0x10000000000
def hbm0 : Nat := 0x8000100000
def host0 : Nat := 0x8000000000000

theorem wit_PlainAccessesArePerformedAndAnswered :
    (∀ pa ∈ [vault0, hbm0, host0], atOwner (netOf (msg (.read 8) .live pa)) 5 (msg (.read 8) .live pa)
        ∧ atOwner (netOf (msg (.write [1] false) .live pa)) 5 (msg (.write [1] false) .live pa)
        ∧ (netOf (msg (.write [1] false) .live pa)).racy 0 pa 1 = false)
      ∧ (∀ a ∈ [MsgOp.read 8, .write [1] false], performs (netOf (msg a .live vault0)) (Instr.vaultNetRequest 5) 5 (msg a .live vault0)
        ∧ performs (netOf (msg a .live hbm0)) (Instr.hbmRequest 5) 5 (msg a .live hbm0)
        ∧ performs (netOf (msg a .live host0)) (Instr.hbmRequest 5) 5 (msg a .live host0))
      ∧ ((vaultOf vault0).isSome = true ∧ (vaultOf (vault0 + 1)).isSome = true
        ∧ (netOf (msg (.write [1] false) .live vault0)).shut vault0 = false)
      ∧ (let a := msg (.write [1] false) .live vault0
         atOwner (raced (netOf a)) 5 a ∧ a.tape = false ∧ a.ofChan = false ∧ (raced (netOf a)).racy 0 vault0 1 = true)
      ∧ (let a := msg (.write [1] false) .live vault0 (.copy 3 0)
         atOwner (raced (netOf a)) 5 a ∧ a.tape = false ∧ (raced (netOf a)).racy 0 vault0 1 = true)
      ∧ (∀ op ∈ [MsgOp.read 8, .write (toBytes (77 : BitVec 64).toNat 8) false],
          (netOf (msg op .live 0x11000000808)).form ≠ .s ∧ atOwner (netOf (msg op .live 0x11000000808)) 5 (msg op .live 0x11000000808) ∧ isReg 0x11000000808 = true
            ∧ 0x11000000808 % 8 = 0 ∧ ((netOf (msg op .live 0x11000000808)).winReg 0x808).isSome = true)
      ∧ (let a := msg (.read 8) (.replied 77 none) hbm0 (.la 0 7 0)
         let s : State := { netOf a with ctxs := [(0, { ctx0 with la := [(0, { st := .pending, rid := 7, need := 1 })] })] }
         s.arrived 5 = some a ∧ s.replyBehind a = false ∧ (∀ o bs, a.op ≠ .capture o bs) ∧ (s.ctx 0 0).slot 0 = { st := .pending, rid := 7, need := 1 })
      ∧ (let ps : List Pend := [⟨.s 63, 1, .cycle 100 0, none⟩, ⟨.v 2047, 2, .cycle 101 0, none⟩, ⟨.k 15, 3, .reply 9, none⟩]
         let s := baseWith fun k => { k with pend := ps }
         s.hasCore 0 = true ∧ (∀ m ∈ s.net, m.answersReg 0 0 = false) ∧ (s.ctx 0 0).pend = ps ∧ (ps.map (·.dst)).Nodup
          ∧ ∀ p ∈ ps, writable p.dst) :=
  have h1 := each (l := [vault0, hbm0, host0])
    (p := fun pa => ((netOf (msg (.read 8) .live pa)).arrived 5 == some (msg (.read 8) .live pa) && (((msg (.read 8) .live pa).st == .live)
        && (netOf (msg (.read 8) .live pa)).eligible (msg (.read 8) .live pa)))
      && (((netOf (msg (.write [1] false) .live pa)).arrived 5 == some (msg (.write [1] false) .live pa)
        && (((msg (.write [1] false) .live pa).st == .live) && (netOf (msg (.write [1] false) .live pa)).eligible (msg (.write [1] false) .live pa)))
      && !(netOf (msg (.write [1] false) .live pa)).racy 0 pa 1)) (by decide +kernel)
  have h2 := each (l := [MsgOp.read 8, .write (toBytes (77 : BitVec 64).toNat 8) false])
    (p := fun op => ((netOf (msg op .live 0x11000000808)).arrived 5 == some (msg op .live 0x11000000808)
        && (((msg op .live 0x11000000808).st == .live) && (netOf (msg op .live 0x11000000808)).eligible (msg op .live 0x11000000808)))
      && ((netOf (msg op .live 0x11000000808)).winReg 0x808).isSome) (by decide +kernel)
  ⟨fun pa hp => by
      have h := h1 pa hp
      simp only [Bool.and_eq_true (_ && _) ((_ && _) && _), Bool.and_eq_true (_ && _) (!_), Bool.not_eq_true'] at h
      exact ⟨atOwner_of h.1, atOwner_of h.2.1, h.2.2⟩,
    fun a _ => ⟨⟨rfl, .inl ⟨rfl, show (vaultOf vault0).isSome = true by decide +kernel⟩⟩,
      ⟨rfl, .inr ⟨rfl, show (isHbm hbm0 = true ∨ isHost hbm0 = true) ∧ vaultOf hbm0 = none by decide +kernel⟩⟩,
      ⟨rfl, .inr ⟨rfl, show (isHbm host0 = true ∨ isHost host0 = true) ∧ vaultOf host0 = none by decide +kernel⟩⟩⟩,
    ⟨by decide +kernel, by decide +kernel, by decide +kernel⟩, ⟨atOwner_of (by decide +kernel), rfl, rfl, by decide +kernel⟩, ⟨atOwner_of (by decide +kernel), rfl, by decide +kernel⟩,
    fun op ho => by
      have h := Bool.and_eq_true .. ▸ h2 op ho
      exact ⟨nofun, atOwner_of h.1, by decide +kernel, by decide, h.2⟩,
    ⟨by decide +kernel, by decide +kernel, nofun, by decide +kernel⟩, by decide +kernel, by decide +kernel, rfl, by decide +kernel, by
      simp only [List.forall_mem_cons, List.not_mem_nil, false_implies, implies_true, and_true, writable]; decide⟩
/-! Requests of the atomic units, of barriers, rounds, joins and events. -/

def w5 : WaitRec := { id := 5 }
/-- The message's sender waits for it in slot SY. -/
def asks (m : Msg) : State := { netOf m with ctxs := [(0, { ctx0 with wait := [(7, w5)] })] }
def atomicMsg (st : MsgSt) (pa : Nat) (n : Nat := 8) (post : Bool := false) (op : Nat := 0) : Msg :=
  msg (.atomic op n 1 2 post) st pa (if post then .none else .wait 7 0)
/-- HBM's unit at its capacity, and a vault's with a requester in its queue. -/
def fullUnit (s : State) : State :=
  { s with net := s.net ++ (List.range 128).map fun i => { atomicMsg .accepted hbm0 with id := 1000 + i, x := 1 } }
def queued (s : State) (pa : Nat) : State := s.setUnit (ownerOf pa) { order := [77] }
def lapsing (u r : Nat) : State := base.setUnit u { order := [r], resv := [(r, 0)] }

/-- Accepted with room, refused of a full buffer and behind another; retried at its time; every operation, at four and eight bytes,
at a vault, HBM and the host; the last unit of a core and of the stacks. -/
theorem wit_AtomicRequestsAreTakenAndPerformed :
    ((let a := atomicMsg .asked hbm0; (asks a).arrived 5 = some a ∧ (asks a).heldBack a = false ∧ ((asks a).ctx 0 0).waiting 7 = some w5
          ∧ (∀ p ∈ ((asks a).unit (ownerOf hbm0)).resv, p.1 ≠ a.requester) ∧ ((asks a).unit (ownerOf hbm0)).order = []
          ∧ (asks a).unitUsed (ownerOf hbm0) + ((asks a).unit (ownerOf hbm0)).resv.length < unitCap (ownerOf hbm0)
          ∧ (fullUnit (asks a)).arrived 5 = some a ∧ (fullUnit (asks a)).heldBack a = false
          ∧ ((fullUnit (asks a)).ctx 0 0).waiting 7 = some w5
          ∧ unitCap (ownerOf hbm0) ≤ (fullUnit (asks a)).unitUsed (ownerOf hbm0) + ((fullUnit (asks a)).unit (ownerOf hbm0)).resv.length)
        ∧ (let a := atomicMsg .asked vault0; let s := queued (asks a) vault0
           s.arrived 5 = some a ∧ s.heldBack a = false ∧ (s.ctx 0 0).waiting 7 = some w5
            ∧ (∀ p ∈ (s.unit (ownerOf vault0)).resv, p.1 ≠ a.requester) ∧ (s.unit (ownerOf vault0)).order ≠ []))
      ∧ (let a := atomicMsg (.nacked 0) hbm0; (asks a).arrived 5 = some a ∧ 0 ≤ (asks a).now)
      ∧ (∀ pa ∈ [vault0, hbm0, host0], ∀ n ∈ [4, 8], ∀ post ∈ [false, true], ∀ op ∈ List.range 8,
          let a := atomicMsg .live pa n post op
          atOwner (asks a) 5 a ∧ noQueue (asks a) a ∧ (asks a).poisoned pa n = false)
      ∧ (∀ u ∈ [0, 7, 16], ∀ r ∈ [0, 575], (u < 8 ∨ (16 ≤ u ∧ (lapsing u r).hasCore ((u - 16) / 128) = true)) ∧ r < 576
          ∧ (∃ t, (r, t) ∈ ((lapsing u r).unit u).resv ∧ t ≤ (lapsing u r).now) ∧ ∀ q ∈ ((lapsing u r).unit u).order, q = r)
      ∧ (∀ op ∈ [0, 1], ∀ ty ∈ [0, 5, 6, 9, 10], let a := msg (.vatom op ty 3) .live vault0
          atOwner (netOf a) 5 a ∧ noQueue (netOf a) a ∧ (netOf a).poisoned vault0 8 = false ∧ (netOf a).poisoned vault0 4 = false)
      ∧ (let a := msg (.accum 0x3F800000) .live hbm0; atOwner (netOf a) 5 a ∧ (netOf a).customer a.pa = false
          ∧ (netOf a).poisoned hbm0 4 = false)
      ∧ (let a := msg .exch .live hbm0 (.reg 3 0 4); atOwner (netOf a) 5 a ∧ (netOf a).customer a.pa = false) := by
  refine ⟨by decide +kernel, by decide +kernel, ?_, ?_, ?_, ?_, atOwner_of (by decide +kernel), by decide +kernel⟩
  · have h := each (l := [vault0, hbm0, host0]) (p := fun pa => [4, 8].all fun n => [false, true].all fun post => (List.range 8).all fun op =>
      let a := atomicMsg .live pa n post op
      ((asks a).arrived 5 == some a && (a.st == .live && (asks a).eligible a)) && decide (((asks a).unit (ownerOf a.pa)).order = [] ∧ (asks a).customer a.pa = false)
        && !(asks a).poisoned pa n) (by decide +kernel)
    intro pa hp n hn post hb op ho
    have h := each (each (each (h pa hp) n hn) post hb) op ho
    simp only [Bool.and_eq_true (_ && _) (!_), Bool.and_eq_true (_ && _) (decide _), Bool.not_eq_true',
      decide_eq_true_eq (p := _ ∧ _)] at h
    exact ⟨atOwner_of h.1.1, h.1.2, h.2⟩
  · have h := each (l := [0, 7, 16]) (p := fun u => [0, 575].all fun r => decide ((u < 8 ∨ (16 ≤ u ∧ (lapsing u r).hasCore ((u - 16) / 128) = true))
      ∧ r < 576 ∧ (r, 0) ∈ ((lapsing u r).unit u).resv ∧ (∀ q ∈ ((lapsing u r).unit u).order, q = r))) (by decide +kernel)
    intro u hu r hr
    have h := of_decide_eq_true (each (h u hu) r hr)
    exact ⟨h.1, h.2.1, ⟨0, h.2.2.1, Nat.zero_le _⟩, h.2.2.2⟩
  · have h := each (l := [0, 1]) (p := fun op => [0, 5, 6, 9, 10].all fun ty =>
      let a := msg (.vatom op ty 3) .live vault0
      ((netOf a).arrived 5 == some a && (a.st == .live && (netOf a).eligible a)) && decide ((((netOf a).unit (ownerOf a.pa)).order = [] ∧ (netOf a).customer a.pa = false)
        ∧ (netOf a).poisoned vault0 8 = false ∧ (netOf a).poisoned vault0 4 = false)) (by decide +kernel)
    intro op ho ty ht
    have h := each (h op ho) ty ht
    simp only [Bool.and_eq_true (_ && _) (decide _), decide_eq_true_eq (p := _ ∧ _)] at h
    exact ⟨atOwner_of h.1, h.2.1, h.2.2⟩
  · exact ⟨atOwner_of (by decide +kernel), by decide +kernel, by decide +kernel⟩

/-- A barrier of two strands at an address, with an arrival's count. -/
def barAt (s : State) (pa count : Nat) : State := { s with mem := (s.wr pa 16 (2 + count * 2 ^ 32)).mem }
/-- Groups of two strands at level 1: the second contribution comes from the second context of core 0. -/
def hdr2 : Header := { launch0.hdr with lcfg := launch0.hdr.lcfg ||| (2 <<< 36) ||| (1 <<< 39), extm1 := 0x1111 }
def grpOf (m : Msg) (rs : List Round) : State :=
  { netOf m with
    pkg := { base.pkg with launches := [(0, { launch0 with hdr := hdr2 })] }
    ctxs := [(0, { ctx0 with gred := some { id := 4 } }), (1, { ctx0 with strand := some { strand0 with wid := 1, slot := 0x8000501000 }, gred := some w5 })]
    clusters := [(0, { base.cluster 0 with rounds := rs })] }
def gpart : GPart := { core := 0, x := 0, idx := 0, val := 9, op := 0, uns := false, tags := [(0, 3)] }
def gmsg : Msg := { msg (.gred 0 1 false 3) .live 0 with x := 1, tags := [(0, 3)] }
def ev0 : Sys2Proof.Machine.Event := { code := 7, sub := 1, core := 0, flags := 1, a := 1, b := 2, c := 3 }
def ringOf (m : Msg) (r : Ring) (n : Nat) : State :=
  { netOf m with pkg := { base.pkg with ev := r, evBuf := (List.range n).map fun _ => ev0 } }
def ring0 : Ring := { base := 0x8000200000, en := true, log2 := 6 }

theorem wit_UnitsTakeTheirMessages :
    (∀ count ∈ [0, 1], ∀ pa ∈ [vault0, hbm0], let a := msg (.barr false) .live pa (.wait 7 0); let s := barAt (asks a) pa count
        atOwner s 5 a ∧ noQueue s a ∧ noBwait s ∧ s.poisoned pa 16 = false ∧ (s.barrier pa).usable = true)
      ∧ (∀ p ∈ [0, 1], let a := msg (.bwait p) .asked hbm0; let s := barAt (asks a) hbm0 1
          s.arrived 5 = some a ∧ s.heldBack a = false ∧ s.arrivalWaits a = false ∧ (∀ q ∈ (s.unit (ownerOf a.pa)).resv, q.1 ≠ a.requester) ∧ noQueue s a
            ∧ s.unitUsed (ownerOf a.pa) + (s.unit (ownerOf a.pa)).resv.length < unitCap (ownerOf a.pa) ∧ s.poisoned a.pa 16 = false
            ∧ (s.barrier a.pa).usable = true ∧ vaultOf a.pa ≠ some a.core ∧ s.down a.pa = false)
      ∧ (let a : Msg := { msg (.phaseReport 1 true) .live hbm0 with tags := [(3, 4)] }; (asks a).arrived 5 = some a ∧ (asks a).replyBehind a = false ∧ a.rot = false
          ∧ ((asks a).ctx a.core a.x).waiting 7 = some w5 ∧ w5.id = 5)
      ∧ ((grpOf gmsg []).arrived 5 = some gmsg ∧ (grpOf gmsg []).gredBehind gmsg = false ∧ ((grpOf gmsg []).ctx 0 1).strand = some { strand0 with wid := 1, slot := 0x8000501000 }
          ∧ 1 ≤ ((grpOf gmsg []).hdrOf strand0).clev ∧ 1 < ((grpOf gmsg []).hdrOf strand0).groupSize 1
          ∧ ((grpOf gmsg []).cluster (clusterOf 0)).rounds = []
          ∧ (let s := grpOf gmsg [⟨0, 1, hdr2.groupKey 1 1, [gpart]⟩]
             s.arrived 5 = some gmsg ∧ s.gredBehind gmsg = false ∧ (s.cluster (clusterOf gmsg.core)).rounds = [⟨0, 1, (s.hdrOf strand0).groupKey 1 1, [gpart]⟩]
              ∧ (s.hdrOf strand0).groupSize 1 = 2 ∧ gpart.idx ≠ (s.hdrOf strand0).index 1 (s.hdrOf strand0).glev ∧ 2 * gpart.core + gpart.x ≠ 2 * gmsg.core + gmsg.x
              ∧ (s.ctx 0 0).gred = some { id := 4 } ∧ (s.ctx 0 1).gred = some w5))
      ∧ (let a := msg (.raceReport 9) .live hbm0; (netOf a).arrived 5 = some a ∧ (netOf a).replyBehind a = false ∧ ((netOf a).ctx 0 0).strand.isSome = true
          ∧ ((netOf a).ctx 0 0).trapNext = none)
      ∧ (let a : Msg := { msg (.joinWord true true [(1, 2)]) .live (0x8000500000 + 56) with va := 0 }
         (netOf a).arrived 5 = some a ∧ (netOf a).eligible a = true ∧ (netOf a).resident (a.pa - 56) = some (0, 0) ∧ ((netOf a).ctx 0 0).strand = some strand0
          ∧ strand0.slot = a.pa - 56)
      ∧ (let a := msg (.event ev0) .live 0; ev0.launch = none
          ∧ ((ringOf a ring0 0).arrived 5 = some a ∧ (ringOf a ring0 0).eventBehind a = false ∧ (ringOf a ring0 0).pkg.evBuf = [] ∧ (ring0.prod + 65536 - ring0.cons) % 65536 < 2 ^ ring0.log2)
          ∧ (∀ n ∈ [0, 255, 256], (ringOf a { ring0 with en := false } n).arrived 5 = some a
              ∧ (ringOf a { ring0 with en := false } n).eventBehind a = false
              ∧ (ringOf a { ring0 with en := false } n).pkg.evBuf.length = n)) := by
  have h1 := each (l := [0, 1]) (p := fun count => [vault0, hbm0].all fun pa =>
    let a := msg (.barr false) .live pa (.wait 7 0); let s := barAt (asks a) pa count
    (s.arrived 5 == some a && (a.st == .live && s.eligible a)) && decide (((s.unit (ownerOf a.pa)).order = [] ∧ s.customer a.pa = false) ∧ s.poisoned pa 16 = false ∧ (s.barrier pa).usable = true)
    ) (by decide +kernel)
  refine ⟨fun count hc pa hp => ?_, by unfold noQueue; decide +kernel, by decide +kernel, by decide +kernel, by decide +kernel, by decide +kernel,
    by decide +kernel⟩
  have h := each (h1 count hc) pa hp
  simp only [Bool.and_eq_true (_ && _) (decide _), decide_eq_true_eq (p := _ ∧ _)] at h
  exact ⟨atOwner_of h.1, h.2.1, fun b hb => by
    have : b = msg (.barr false) .live pa (.wait 7 0) := by simpa [barAt, asks, netOf] using hb
    simp [this, msg], h.2.2⟩
/-! Translations, cores, the matrix domain and copy channels. -/

/-- A miss of a bundle, and the same of a channel; an entry of its large page. -/
def miss1 : Miss := ⟨0, 0, 0, 3, 0x123456789AB, true, false, false, none, 0x8000010001, false⟩
def missAt (unit : Nat) (walking again : Bool) : Miss := { miss1 with unit := unit, walking := walking, again := again }
def tlb1 : TlbEnt := ⟨3, 0x123456789A0000, 0x10000, 0x8000500000, true, true, false⟩
def missing (m : Miss) (tlb : List TlbEnt) : State := { base with clusters := [(0, { misses := [m], tlb := tlb })] }
/-- A walk whose first tables stand one after another, its entry at level k + 1 as given. -/
def walked (unit k e : Nat) : State :=
  let at' (j : Nat) : Nat := 0x8000010000 + 4096 * j + 8 * (miss1.vpn / 2 ^ (9 * (4 - j)) % 512)
  let s := (List.range k).foldl (fun s j => s.wr (at' j) 8 (0x8000011001 + 4096 * j)) (missing (missAt unit true false) [])
  s.wr (at' k) 8 e
def chained (s : State) (k e : Nat) : Bool :=
  s.rd (entryAt s miss1.root miss1.vpn k) 8 == e && (List.range k).all fun j =>
    let a := entryAt s miss1.root miss1.vpn j
    !s.poisoned a 8 && (s.rd a 8 % 2 == 1 && s.rd a 8 / 32 % 2 == 0)

/-- A hit and a miss of the cluster's TLB, of a bundle and of a channel, the first time and again; leaves of each level, that permit
the access and that do not; entries not present and leaves too high at each level; an entry that cannot be corrected; no root. -/
theorem wit_TranslationsAreFilledAndInvalidated :
    (∀ tlb ∈ [[], [tlb1]], ∀ unit ∈ [0, 1, 4], ∀ again ∈ [false, true],
        let m := missAt unit false again
        let s := missing m tlb
        s.hasCluster 0 = true ∧ (s.cluster 0).misses.find? (fun a => !a.walking && a.fail.isNone) = some m
          ∧ findTlb (s.cluster 0).tlb m.asid (4096 * m.vpn) = tlb.head? ∧ (s.walks 0).length < 16)
      ∧ (∀ unit ∈ [0, 4], ∀ p ∈ [(4, 0x800034501D), (4, 0x800034505D), (4, 0x8000345001), (3, 0x800020003D), (2, 0x804000003D),
            (0, 0), (1, 0), (2, 0), (3, 0), (4, 0), (0, 0x800020003D), (1, 0x800020003D)],
          let s := walked unit p.1 p.2
          s.hasCluster 0 = true ∧ (s.cluster 0).misses = [missAt unit true false] ∧ miss1.vpn < 2 ^ 45 ∧ p.1 ≤ 4
            ∧ chained s p.1 p.2 = true ∧ s.poisoned (entryAt s miss1.root miss1.vpn p.1) 8 = false)
      ∧ (∀ k ∈ [0, 4], let s := (walked 0 k 0).setPoison (entryAt (walked 0 k 0) miss1.root miss1.vpn k) 8
          (s.cluster 0).misses = [missAt 0 true false] ∧ chained s k 0 = true
            ∧ s.poisoned (entryAt s miss1.root miss1.vpn k) 8 = true)
      ∧ miss1.root.getLsbD 0 = true ∧ (({ missAt 0 true false with root := 0 } : Miss).root.getLsbD 0 = false)
      ∧ base.hasCluster 0 = true ∧ base.hasCluster 23 = true :=
  ⟨by decide +kernel, by decide +kernel, by decide +kernel, by decide +kernel, by decide +kernel, by decide +kernel, by decide +kernel⟩

/-- A bundle of the first code page; idle contexts. -/
def issuing (b : Bundle) : State := base.wr 0x8000200000 64 (encodeBundle b)
def addiBundle (rep : Nat) : Bundle := { Bundle.single .s (.addi ⟨0, 3, 4, 0, 5⟩) with rep := rep }
theorem fetched_of {b : Bundle} (h1 : (decodeBundle ((issuing b).rd 0x8000200000 64)).toOption = some b)
    (h2 : (((issuing b).ctx 0 0).ready && decide (((issuing b).ctx 0 0).rep ≤ b.rep)
      && !(issuing b).poisoned 0x8000200000 64) = true)
    (h3 : (issuing b).xlate 0 0 0 ((issuing b).asid 0 0) ((issuing b).supv 0 0) ((issuing b).core 0).utlb ((issuing b).ctx 0 0).pc
      false true = .ok 0x8000200000) : fetched (issuing b) 0 0 b := by
  simp only [Bool.and_eq_true, decide_eq_true_eq, Bool.not_eq_true'] at h2
  refine ⟨rfl, by decide, h2.1.1, h2.1.2, _, h3, by decide +kernel, by decide +kernel, rfl, h2.2, ?_⟩
  cases h : decodeBundle ((issuing b).rd 0x8000200000 64) with
  | ok c => simp only [h, Except.toOption, Option.some.injEq] at h1; rw [h1]
  | error e => simp [h, Except.toOption] at h1
def idleCore : State := { base with ctxs := [] }
def copying : State :=
  let s := base.setChan 0 3 { srcb := 0, dstb := 0x40, ssp := 1, dsp := 1, lenm1 := 63, state := 1 }
  s.runChan 0 0 3 (s.chan 0 3) 0

def goesB (d : Decision) : Bool :=
  match d with
  | .go true false false _ false false _ _ => true
  | _ => false
theorem goes_of {d : Decision} (h : goesB d = true) : ∃ w iss mst, d = .go true false false w false false iss mst := by
  unfold goesB at h
  split at h
  · exact ⟨_, _, _, rfl⟩
  · cases h

theorem wit_CoresIssueBeatAndCopy :
    (fetched (issuing idleBundle) 0 0 idleBundle ∧ ({ issuing idleBundle with cur := (0, 0) } : State).calm = true)
      ∧ (fetched (issuing (addiBundle 63)) 0 0 (addiBundle 63))
      ∧ (let b := addiBundle 0
         let s := issuing b
         fetched s 0 0 b ∧ (semOf (.addi ⟨0, 3, 4, 0, 5⟩)).isSome = true ∧ (s.ctx 0 0).restart = false ∧ (s.ctx 0 0).rep = 0
          ∧ (let s1 := settle { s with cur := (0, 0) } 0 0
             let ps := slotParts b 0 0 s1
             encTrap s1 0 b (s1.ctx 0 0).rep = none ∧ (∀ p ∈ ps, p.g = 0) ∧ (∃ p ∈ ps, p.on = true)
              ∧ verdict (s1.ctx 0 0) ps (plogWrites b) (plogReads b) (seqUses s1 0 0) = .go ∧ s1.beatStop 0 = none))
      ∧ (idleCore.hasCore 0 = true ∧ (idleCore.core 0).holdUntil = 0 ∧ (idleCore.core 0).holdCyc = 0 ∧ (idleCore.core 0).seq = none ∧ (idleCore.core 0).lead < 2
          ∧ ∀ x < 2, (idleCore.ctx 0 x).strand = none)
      ∧ (∃ w iss mst, decide' base (((base.emptyCycle 0 0).emptyCycle 0 1).modCore 0 fun k =>
          { k with seqUse := base.seqUnits 0 }) 0 = .go true false false w false false iss mst)
      ∧ (({ base with cores := [(0, { base.core 0 with holdCyc := 5 })] } : State).core 0).holdCyc ≠ 0
      ∧ (let s := copying; let h := s.chan 0 3; s.hasCore 0 = true ∧ s.chanActive 0 3 = true ∧ h.spent = false ∧ h.sent = false
          ∧ h.lost = none ∧ h.gather = false ∧ h.dflag = false
          ∧ h.rev = false ∧ h.ssp = 1 ∧ h.dsp = 1 ∧ h.lenm1 = 63 ∧ (h.srcAddr 0).toNat % 64 = 0 ∧ h.dstAddr.toNat % 64 = 0
          ∧ vaultNum 0 (h.srcAddr 0) = 0 ∧ vaultNum 0 h.dstAddr = 0 ∧ vpLin (h.srcAddr 0) < 8191 * 8192
          ∧ vpLin h.dstAddr < 8191 * 8192 ∧ s.badVp 0 (h.srcAddr 0) = false ∧ s.badVp 0 h.dstAddr = false
          ∧ h.bufBad = false ∧ s.shut (vaultPa 0 (vpLin (h.srcAddr 0))) = false ∧ s.down (vaultPa 0 (vpLin (h.srcAddr 0))) = false ∧ s.poisoned (vaultPa 0 (vpLin (h.srcAddr 0))) 64 = false
          ∧ s.racy 0 (vaultPa 0 (vpLin (h.srcAddr 0))) 64 = false ∧ s.racy 0 (vaultPa 0 (vpLin h.dstAddr)) 64 = false
          ∧ (s.core 0).score ≠ [] ∧ (∀ e ∈ (s.core 0).score, e.owner = .cubeA ∨ e.owner = .cubeB → e.hits true 0 (vpLin h.dstAddr) (vpLin h.dstAddr + 63) = false) ∧ s.net = [] ∧ s.latent = []) := by
  refine ⟨⟨fetched_of (by decide +kernel) (by decide +kernel) (by decide +kernel), by decide +kernel⟩,
    fetched_of (by decide +kernel) (by decide +kernel) (by decide +kernel),
    ⟨fetched_of (by decide +kernel) (by decide +kernel) (by decide +kernel), rfl, by decide +kernel, by decide +kernel, ?_⟩,
    by decide +kernel, goes_of (by decide +kernel), by decide +kernel, by decide +kernel⟩
  decide +kernel


/-! Beats and the sequencer. -/

def cubeD : CubeDesc := { x := 0, tile := 1, mask := 1, af := 2, bf := 3, m := 8, n := 8, k := 8, aptr := 0x40000, bptr := 0x42000, ta := true, tb := true }
/-- Its sequencer at a beat, with steps ready. -/
def seq0 (beat : Nat) (r : List (Nat × Nat × List (BitVec 2048) × List (BitVec 2048))) : Machine.Seq := ⟨cubeD, 0, beat, [], r, false, 5⟩
def beating (f : Core → Core) : State := { base with now := 1000, ctxs := [(0, { ctx0 with issued := true })], cores := [(0, f (base.core 0))] }
def fifoOf (op : BeatOp) : State := beating fun k => { k with fifo := [⟨0, 0x1000, 0, 0, op⟩, ⟨1, 0x1000, 3, 0, .renorm 0⟩] }
def emitting (q : Machine.Seq) (poison stamped : Bool) : State :=
  let s := beating fun k => { k with seq := some q }
  let s1 := if poison then s.setPoison (vaultPa 0 0x40000) 8 else s
  if stamped then { s1 with stamps := [(0x40000 / 64, 1, 3)] } else s1
def emitsB (s : State) (q : Machine.Seq) : Bool := s.hasCore 0 && ((s.core 0).seq == some q && (s.seqRuns 0 q && (s.beatStop 0).isNone))
theorem emits_of {s : State} {q : Machine.Seq} (h : emitsB s q = true) : emits s 0 q := by
  simpa [emitsB, emits] using h

/-- Beats of each kind, at both ends of their ranges; a sequencer at a load, at a fetch, after its stream, with and without a step
ready, and at its last beat; an item whose first unit is clean, poisoned or stamped. -/
theorem wit_BeatsRefillsAndCoreRegisters :
    (∀ op ∈ [BeatOp.push true 63 5, .push false 0 5, .expWrite 15 3, .zero 0 1, .zero 16 1, .step 3 0x41 2 3 0 0, .cubeStep cubeD 0 [1] [2],
            .outer 2 8 true false 5 6, .wracc 3 0 0 0 true 0 7, .scacc 4 false true 5 6, .drain 15 0 0 0 0 true 4 6 77 9, .rdacc 16 0 0 true 0 9,
            .renorm 16, .expRead 0 9, .cubeOther cubeD true],
          (fifoOf op).hasCore 0 = true ∧ ((fifoOf op).core 0).fifo = [⟨0, 0x1000, 0, 0, op⟩, ⟨1, 0x1000, 3, 0, .renorm 0⟩] ∧ (fifoOf op).paused 0 = false)
      ∧ (widthG 2 0 0 = widthG 3 0 0 ∧ cubeD.m ≤ 128 ∧ cubeD.n ≤ 128 ∧ blockOk 64 0 0 0 = true ∧ blockOk 64 6 0 0 = true ∧ (eTy 0 .f32).flt = some .f32 ∧ (eTy 0 .f32).count = 64)
      ∧ (∀ e ∈ [0, 6, 7], ∀ r ∈ [[], [((cubeD.stream 0).length + e, 3, [1], [2])]],
          let q := seq0 ((cubeD.stream 0).length + e) r
          emits (emitting q false false) 0 q ∧ (cubeD.stream 0).length ≤ q.beat)
      ∧ (∀ b ∈ [0, (cubeD.stream 0).length - 1], let q := seq0 b []; let s := emitting q false false
          emits s 0 q ∧ s.latent = [] ∧ ∃ it, (cubeD.stream 0)[b]? = some it ∧ ∀ u ∈ cubeD.itemUnits it, s.poisoned (vaultPa 0 (64 * u.2)) 64 = false ∧ s.racy 0 (vaultPa 0 (64 * u.2)) 64 = false)
      ∧ cubeD.dim true ≤ 128 ∧ cubeD.dim false ≤ 128 ∧ 7 < cubeD.dim true
      ∧ (∀ p ∈ [(true, false), (false, true)], let q := seq0 0 []; let s := emitting q p.1 p.2
          emits s 0 q ∧ s.latent = [] ∧ ∃ it u us, (cubeD.stream 0)[0]? = some it ∧ cubeD.itemUnits it = u :: us
            ∧ ¬(s.poisoned (vaultPa 0 (64 * u.2)) 64 = false ∧ s.racy 0 (vaultPa 0 (64 * u.2)) 64 = false))
      ∧ (base.hasCore 0 = true ∧ (base.core 0).holdUntil ≤ base.now ∧ base.form ≠ .s ∧ (base.core 0).swapReq = false) := by
  have h1 := each (l := [0, 6, 7]) (p := fun e => [[], [((cubeD.stream 0).length + e, 3, [1], [2])]].all fun r =>
    let q := seq0 ((cubeD.stream 0).length + e) r
    emitsB (emitting q false false) q && decide ((cubeD.stream 0).length ≤ q.beat)) (by decide +kernel)
  have h2 := each (l := [0, (cubeD.stream 0).length - 1]) (p := fun b => let q := seq0 b []; let s := emitting q false false
    emitsB s q && (s.latent == [] && match (cubeD.stream 0)[b]? with
      | some it => (cubeD.itemUnits it).all fun u => decide (s.poisoned (vaultPa 0 (64 * u.2)) 64 = false ∧ s.racy 0 (vaultPa 0 (64 * u.2)) 64 = false)
      | none => false)) (by decide +kernel)
  have h3 := each (l := [(true, false), (false, true)]) (p := fun p => let q := seq0 0 []; let s := emitting q p.1 p.2
    emitsB s q && (s.latent == [] && match (cubeD.stream 0)[0]? with
      | some it => match cubeD.itemUnits it with
        | u :: _ => decide (¬(s.poisoned (vaultPa 0 (64 * u.2)) 64 = false ∧ s.racy 0 (vaultPa 0 (64 * u.2)) 64 = false))
        | [] => false
      | none => false)) (by decide +kernel)
  refine ⟨by decide +kernel, by decide +kernel, fun e he r hr => ?_, fun b hb => ?_, by decide +kernel, by decide +kernel, by decide +kernel,
    fun p hp => ?_, by decide +kernel⟩
  · have h := Bool.and_eq_true .. ▸ each (h1 e he) r hr
    exact ⟨emits_of h.1, of_decide_eq_true h.2⟩
  · have h := h2 b hb
    simp only [Bool.and_eq_true] at h
    obtain ⟨h, hl, ht⟩ := h
    refine ⟨emits_of h, eq_of_beq hl, ?_⟩
    split at ht
    · rename_i it e
      exact ⟨it, e, fun u hu => of_decide_eq_true (List.all_eq_true.mp ht u hu)⟩
    · cases ht
  · have h := h3 p hp
    simp only [Bool.and_eq_true] at h
    obtain ⟨h, hl, ht⟩ := h
    refine ⟨emits_of h, eq_of_beq hl, ?_⟩
    split at ht
    · rename_i it e
      split at ht
      · rename_i u us e1
        exact ⟨it, u, us, e, e1, of_decide_eq_true ht⟩
      · cases ht
    · cases ht
/-! Strands saved, restored, started and ended; launches. -/

/-- A launch with slots of 700 pages, without the cube, of the highest priority. -/
def launchX (cube : Bool) : Launch :=
  { launch0 with hdr := { launch0.hdr with lcfg := BitVec.ofNat 64 (8 * 2 ^ 48 + (if cube then 2 ^ 45 else 0) + 3 * 2 ^ 42 + 4 * 2 ^ 6 + 4), spillsz := 700 }
                 used := [(0, true), (1, true)] }
def slot1 : Nat := 0x8000500000 + 700 * 4096
def withX (cube : Bool) (k : Ctx) : State := { base with pkg := { base.pkg with launches := [(0, launchX cube)] }, ctxs := [(0, k)] }
def saving (cube : Bool) (kd : SaveKind) : State := withX cube { ctx0 with la := [], save := some ⟨kd, none, 77⟩ }
/-- The same with an entry of the header's table, the sixth: registers, a mask, a landing slot, channels, and a tile or a vault range. -/
def entryOf (more : Nat) : Nat := 2 ^ 2 + 2 ^ 65 + 2 ^ 96 + 2 ^ 129 + (8 + 2 * 2 ^ 11) * 2 ^ 192 + more
/-- MX.PROG of a stopped CUBE of four steps. -/
def mxStopped : Nat := ({ phase := 2, sd := 58, mask := 255, step := 4 } : MxProg).word
def tile3 : Nat := 2 ^ 83
def range1 : Nat := (7 + 2 * 2 ^ 20 + 700 * 2 ^ 40) * 2 ^ 448
def listed (more : Nat) (s : State) : State :=
  let s1 : State := { s with pkg := { s.pkg with launches := [(0, { launchX true with hdr := { (launchX true).hdr with live := 0x10000 } })] } }
  s1.wr 0x8000100280 128 (entryOf more)
def saving5 (more : Nat) (kd : SaveKind) : State := listed more (withX true { ctx0 with save := some ⟨kd, some 5, 77⟩ })
/-- An image of strand 0: its format registers, s1, and MX.PROG; all the rest is zero. -/
def restoring (was mx : Nat) : State :=
  let s := withX false { ctx0 with restore := some was, v := [], k := [] }
  ((((List.range 8).foldl (fun s i => s.wr (0x8000500000 + 0xA0 + 4 * i) 4 0x00050748) s).wr (0x8000500000 + 0x408) 8 5).wr (0x8000500000 + 40) 8
    (5 * 2 ^ 32)).wr (0x8000500000 + 0x90) 8 mx
def resting : State :=
  let s : State := { withX false { ctx0 with strand := none } with
    ctxs := [], stks := [(0, { repaired := true, selftest := true, released := true, resume := [slot1, 5, slot1] })] }
  (s.wr slot1 8 0x4007).wr (slot1 + 44) 4 (2 ^ 32 - 1)

theorem foldl_max_le {b : Nat} : ∀ {l : List Nat} {a : Nat}, a ≤ b → (∀ x ∈ l, x ≤ b) → l.foldl max a ≤ b
  | [], _, h, _ => h
  | x :: l, a, h, hl => foldl_max_le (l := l) (a := max a x) (Nat.max_le.mpr ⟨h, hl x (List.mem_cons_self ..)⟩) fun y hy =>
      hl y (List.mem_cons_of_mem _ hy)

theorem extent_le (cube : Bool) : (Live.full cube).extent ≤ 700 * 4096 := by
  have drop1 {n x : Nat} (h : x ∈ (List.range n).drop 1) : x < n := List.mem_range.mp (List.mem_of_mem_drop h)
  refine foldl_max_le (by omega) fun x hx => ?_
  simp only [Live.full, List.mem_append, List.mem_map, if_true, List.map_nil, List.mem_singleton, List.not_mem_nil, or_false] at hx
  rcases hx with ((((⟨i, hi, rfl⟩ | ⟨i, hi, rfl⟩) | ⟨i, hi, rfl⟩) | rfl) | ⟨i, hi, rfl⟩) | ⟨i, hi, rfl⟩
  · have := drop1 hi; omega
  · have := drop1 hi; omega
  · have := List.mem_range.mp hi; omega
  · omega
  · have := List.mem_range.mp hi; omega
  · have : i < 17 := by
      cases cube
      · cases hi
      · exact List.mem_range.mp hi
    omega

/-- Every byte of strand 0's slot lies in stack 0's HBM, which is in service. -/
theorem slot_ok {s : State} {n : Nat} (hn : n ≤ 700 * 4096) (h : (s.stk 0).failed = false) : slotOk s 0x8000500000 n := by
  refine ⟨by decide, by decide, .inr (by decide), fun i hi => ?_⟩
  have h1 : ¬(0x8000500000 + i < 0x8000000000) := by omega
  have h2 : ¬(0x10000000000 ≤ 0x8000500000 + i) := by omega
  have h3 : (0x8000500000 + i - 0x8000000000) / 2 ^ 37 = 0 := by omega
  have h4 : 0x8000500000 + i < 0x10000000000 := by omega
  simp only [isHbm, State.shut, State.down, vaultOf, canonPa, h1, h2, h3, h4, h, false_and, if_false, decide_true, Bool.and_false,
    Bool.or_false, and_self]

theorem save_ok (cube : Bool) (kd : SaveKind) :
    still ((saving cube kd).ctx 0 0) ∧ (saving cube kd).latent = [] ∧ ((saving cube kd).ctx 0 0).save = some ⟨kd, none, 77⟩
      ∧ ((saving cube kd).ctx 0 0).strand = some strand0
      ∧ slotOk (saving cube kd) strand0.slot (Live.full ((saving cube kd).hdrOf strand0).cube).extent
      ∧ (Live.full ((saving cube kd).hdrOf strand0).cube).extent ≤ ((saving cube kd).hdrOf strand0).slotBytes := by
  have h : ((saving cube kd).hdrOf strand0).slotBytes = 700 * 4096 := by cases cube <;> rfl
  exact ⟨⟨rfl, by cases cube <;> cases kd <;> decide +kernel⟩, rfl, rfl, rfl, slot_ok (extent_le _) (by cases cube <;> rfl), h ▸ extent_le _⟩

theorem wit_StrandsAreSavedRestoredAndStarted :
    (∀ cube kd, still ((saving cube kd).ctx 0 0) ∧ (saving cube kd).latent = [] ∧ ((saving cube kd).ctx 0 0).save = some ⟨kd, none, 77⟩
          ∧ ((saving cube kd).ctx 0 0).strand = some strand0
          ∧ slotOk (saving cube kd) strand0.slot (Live.full ((saving cube kd).hdrOf strand0).cube).extent
          ∧ (Live.full ((saving cube kd).hdrOf strand0).cube).extent ≤ ((saving cube kd).hdrOf strand0).slotBytes)
      ∧ (∀ kd ∈ [SaveKind.ckpt, .fault, .join, .yield, .swap], ((saving false kd).hdrOf strand0).cube = false
          ∧ (saving false kd).relHeld 0 = false
          ∧ saveWaits (settle (saving false kd) 0 0) 0 0 strand0.slot (Live.full false) = false
          ∧ ∀ p ∈ imageParts (saveChans (settle (saving false kd) 0 0) 0 strand0.slot (Live.full false)) 0 0 strand0.slot (Live.full false),
              p.bad = false)
      ∧ (∀ p ∈ [(SaveKind.ckpt, tile3), (.join, range1), (.yield, range1), (.swap, range1)], let s := saving5 p.2 p.1
          let e := Live.ofNat (s.rd 0x8000100280 128)
          (s.ctx 0 0).save = some ⟨p.1, some 5, 77⟩ ∧ still (s.ctx 0 0) ∧ (s.ctx 0 0).strand = some strand0 ∧ s.latent = []
            ∧ slotOk s strand0.slot e.extent ∧ entryIs s 0 0 strand0 5 e ∧ e.extent ≤ (s.hdrOf strand0).slotBytes
            ∧ saveWaits (settle s 0 0) 0 0 strand0.slot e = false ∧ s.relHeld 0 = false
            ∧ ∀ p ∈ imageParts (saveChans (settle s 0 0) 0 strand0.slot e) 0 0 strand0.slot e, p.bad = false)
      ∧ (∀ mx ∈ [0, mxStopped], let s := restoring 2 mx
          (s.ctx 0 0).restore = some 2 ∧ (s.ctx 0 0).strand = some strand0 ∧ (s.hdrOf strand0).cube = false ∧ s.latent = [] ∧ (s.ctx 0 0).v = []
            ∧ (s.ctx 0 0).k = [] ∧ fixedOk s 0 strand0.slot = true ∧ fixedFmtOk s strand0.slot = true
            ∧ ∀ ch ∈ savedChans s strand0.slot (Live.full false), (s.chan 0 ch).state ≠ 1)
      ∧ (∀ was ∈ [0, 7], ∀ more ∈ [tile3, range1], let s := listed more (restoring was mxStopped)
          let e := Live.ofNat (s.rd 0x8000100280 128)
          (s.ctx 0 0).restore = some was ∧ (s.ctx 0 0).strand = some strand0 ∧ s.latent = [] ∧ s.rd (strand0.slot + 44) 4 = 5
            ∧ entryIs s 0 0 strand0 5 e ∧ fixedOk s 0 strand0.slot = true ∧ fixedFmtOk s strand0.slot = true
            ∧ (∀ ch ∈ savedChans s strand0.slot e, (s.chan 0 ch).state ≠ 1)
            ∧ (more = range1 → e.vault = [(7, 2, 716800)] ∧ s.shut (vaultPa 0 (64 * 7)) = false ∧ slotOk s strand0.slot (716800 + 64 * 2)))
      ∧ (∀ x < 2, resting.inService 0 = true ∧ (resting.ctx 0 x).strand = none ∧ (resting.stk (stackOf 0)).resume = [slot1, 5, slot1]
          ∧ resting.launchAt slot1 = some 0 ∧ (resting.launch 0).hdr.prio = 3 ∧ resting.mayTake 0 x slot1 = true
          ∧ resting.rd (slot1 + 44) 4 = 2 ^ 32 - 1 ∧ isHbm slot1 = true ∧ slot1 % 4096 = 0 ∧ resting.shut slot1 = false)
      ∧ (base.hasCore 0 = true ∧ (base.ctx 0 0).strand = some strand0 ∧ (base.ctx 0 0).ckpt = 0 ∧ (base.hdrOf strand0).ckpti ≠ 0
          ∧ base.isDrone 0 0 = false ∧ (base.ctx 0 0).trapm = false) := by
  have h1 := each (l := [(SaveKind.ckpt, tile3), (.join, range1), (.yield, range1), (.swap, range1)]) (p := fun p =>
    let s := saving5 p.2 p.1
    let e := Live.ofNat (s.rd 0x8000100280 128)
    decide (((s.ctx 0 0).save = some ⟨p.1, some 5, 77⟩ ∧ ((s.ctx 0 0).pend = [] ∧ ∀ p ∈ (s.ctx 0 0).la, p.2.due = none)
        ∧ (s.ctx 0 0).strand = some strand0 ∧ s.latent = [])
      ∧ (e.extent ≤ 700 * 4096 ∧ (s.stk 0).failed = false)
      ∧ (s.xslot 0 0 ((s.hdrOf strand0).live + BitVec.ofNat 64 (128 * 5)) false = .ok 0x8000100280 ∧ s.poisoned 0x8000100280 128 = false)
      ∧ e.extent ≤ (s.hdrOf strand0).slotBytes ∧ saveWaits (settle s 0 0) 0 0 strand0.slot e = false ∧ s.relHeld 0 = false)
      && (imageParts (saveChans (settle s 0 0) 0 strand0.slot e) 0 0 strand0.slot e).all fun p => !p.bad) (by decide +kernel)
  have h2 := each (l := [0, 7]) (p := fun was => [tile3, range1].all fun more =>
    let s := listed more (restoring was mxStopped)
    let e := Live.ofNat (s.rd 0x8000100280 128)
    decide (((s.ctx 0 0).restore = some was ∧ (s.ctx 0 0).strand = some strand0 ∧ s.latent = [] ∧ s.rd (strand0.slot + 44) 4 = 5)
      ∧ (s.xslot 0 0 ((s.hdrOf strand0).live + BitVec.ofNat 64 (128 * 5)) false = .ok 0x8000100280 ∧ s.poisoned 0x8000100280 128 = false)
      ∧ (fixedOk s 0 strand0.slot = true ∧ fixedFmtOk s strand0.slot = true ∧ ∀ ch ∈ savedChans s strand0.slot e, (s.chan 0 ch).state ≠ 1)
      ∧ (more = range1 → e.vault = [(7, 2, 716800)]) ∧ s.shut (vaultPa 0 (64 * 7)) = false ∧ (s.stk 0).failed = false)) (by decide +kernel)
  refine ⟨save_ok, by decide +kernel, fun p hp => ?_, by decide +kernel, fun was hw more hm => ?_, by decide +kernel, by decide +kernel⟩
  · have h := h1 p hp
    rw [Bool.and_eq_true, decide_eq_true_eq, List.all_eq_true] at h
    obtain ⟨⟨⟨a1, a2, a3, a4⟩, ⟨a5, a6⟩, a7, a8, a9, a10⟩, a11⟩ := h
    exact ⟨a1, a2, a3, a4, slot_ok a5 a6, ⟨_, a7.1, a7.2, rfl⟩, a8, a9, a10, fun p hp => by simpa using a11 p hp⟩
  · obtain ⟨⟨a1, a2, a3, a4⟩, a5, ⟨a6, a7, a8⟩, a9, a10, a11⟩ := of_decide_eq_true (each (h2 was hw) more hm)
    exact ⟨a1, a2, a3, a4, ⟨_, a5.1, a5.2, rfl⟩, a6, a7, a8, fun e => ⟨a9 e, a10, slot_ok (by decide) a11⟩⟩
/-! Launches. -/

/-- Every cluster of the part with a rank of its own, and every stack in service. -/
def ranked (ls : List (Nat × Launch)) : State :=
  { base with
    ctxs := [], fuses := (List.range 24).map fun q => (q, { base.fuse q with rank := 40 - q })
    stks := (List.range 4).map fun t => (t, { repaired := true, selftest := true, released := true })
    pkg := { base.pkg with launches := ls } }
/-- A launch of one gang of four, or of single strands. -/
def gangHdr : Header := { launch0.hdr with lcfg := launch0.hdr.lcfg ||| (1 <<< 36) ||| (3 <<< 42), extm1 := 0x33 }
def ganging : State :=
  { ranked [(255, { launch0 with hdr := gangHdr, used := [], nhand := 16 })] with
    clusters := [(0, { ranges := [⟨255, 0, 16, true⟩] })] }
/-- Every context of the first cluster busy at rising priority. -/
def crowded : State :=
  { ranked [(0, { launch0 with hdr := { launch0.hdr with lcfg := launch0.hdr.lcfg ||| (3 <<< 42) } }), (1, launch0)] with
    ctxs := (List.range 8).map fun i => (i, { ctx0 with strand := some { strand0 with launch := if i = 2 then 1 else 0 } })
    clusters := [(0, { ranges := [⟨0, 0, 4, false⟩] })] }
/-- A queue at its last entry, whose header passes its check or fails it. -/
def queueing (bad : Nat) : State :=
  let s := [0x8000011001, 0x8000012001, 0x800000003D].zipIdx.foldl (fun s p => s.wr (0x8000010000 + 4096 * p.2) 8 p.1) base
  let s := [0x2000 + bad, 0x2000, 8 * 2 ^ 48 + 4 * 2 ^ 6 + 4, 0x33, 0x500000, 0, 0, 2 + 2 ^ 48].zipIdx.foldl
    (fun s p => s.wr (0x8000100100 + 8 * p.2) 8 p.1) s
  let s := [0x100100, 77, 5, 0].zipIdx.foldl (fun s p => s.wr (0x8000700000 + 32 * 3 + 8 * p.2) 8 p.1) s
  { s with pkg := { s.pkg with roots := [(0, 0x8000010001)], launches := [(0, launch0)]
                               queues := [(3, { base := 0x8000700000, en := true, log2 := 2, prod := 0, cons := 65535 })] } }
def resuming : State :=
  { base with pkg := { base.pkg with launches := [(0, { launch0 with used := [(0, true), (1, true)] })] } }.wr 0x8000501000 8 2

theorem wit_LaunchesAreAdmittedAndPlaced :
    (let s := ranked [(0, { launch0 with nhand := 0, used := [] })]; let v := s.launch 0
        v.state = 1 ∧ v.hdr.glev = 0 ∧ v.hdr.clev = 0 ∧ v.nhand < v.hdr.total
          ∧ (∀ p ∈ s.pkg.launches, p.2.ahead v = true → s.canHand p.1 = false) ∧ s.clusterEligible 0 23 = true
          ∧ ∀ q < 24, q ≠ 23 → s.clusterEligible 0 q = true → (s.fuse 23).rank < (s.fuse q).rank)
      ∧ ((ganging.launch 255).state = 1 ∧ (ganging.cluster 0).ranges = [⟨255, 0, 16, true⟩]
          ∧ (ganging.clusterPlaces 255 0).isSome = true ∧ ∀ p < 24, p ≠ 0 → (ganging.cluster p).ranges = [])
      ∧ (let h := (crowded.launch 0).hdr
         ∃ w, (crowded.wants 0).find? (fun w => decide ((crowded.freeCtxs h w.1).length + (crowded.askedFor 0 w.1).length < w.2)
              && !(crowded.victims h w.1).isEmpty) = some w
          ∧ (∀ a ∈ crowded.askedFor 0 (List.range 96), ∃ u ∈ crowded.wants 0, (crowded.freeCtxs h u.1).length < u.2 ∧ a.1 ∈ u.1) ∧ (1, 0) ∈ crowded.victims h w.1
          ∧ ∀ q ∈ crowded.victims h w.1, q ≠ (1, 0) → crowded.victimRank 1 0 < crowded.victimRank q.1 q.2)
      ∧ (∀ bad ∈ [0, 4], let s := queueing bad; let k := s.queue 3; let a := k.base.toNat + 32 * (k.cons % k.size)
          s.servedQueue = some 3 ∧ s.freeEntry = some 1 ∧ (BitVec.ofNat 64 (s.rd (a + 24) 8)).getLsbD 63 = false
            ∧ ((s.headerAt k.asid k.supv (BitVec.ofNat 64 (s.rd a 8))).map fun p => (p.1, s.headerCheck k.asid p.2))
                = some (0x8000100100, if bad = 0 then 0 else 1)
            ∧ ∀ w < 64, (s.rwin w).bound = false)
      ∧ (resuming.launchAt 0x8000501000 = some 0 ∧ resuming.recState 0x8000501000 = 2 ∧ resuming.resident 0x8000501000 = none
          ∧ 0x8000501000 ∉ (resuming.stk (stackOf (mget 0 resuming.home 0x8000501000))).resume) :=
  ⟨by decide +kernel, by decide +kernel, ⟨_, rfl, by decide +kernel, by decide +kernel, by decide +kernel⟩, by decide +kernel, by decide +kernel⟩
/-! Rails, stacks, telemetry and failures. -/

/-- No context has a strand. -/
def lone : State := { base with ctxs := [] }
def railed (k : Cluster) : State := { base with clusters := [(23, k)] }
/-- Temperatures of the nine layers of 24 columns. -/
def sensed (top : Nat) : List Nat := (List.range 216).map fun i => if i = 100 then top else 100

theorem wit_RailsAndStacksFollowTheirRules :
    (∀ k ∈ [({ mstate := 1, vnow := 50, vtgt := 52, railAt := 0 } : Cluster), { mstate := 1, vnow := 50, vtgt := 51, railAt := 0 },
          { mstate := 3, vnow := 52, vtgt := 50, railAt := 0 }, { mstate := 3, vnow := 51, vtgt := 50, railAt := 0 }],
        (railed k).hasCluster 23 = true ∧ ((railed k).cluster 23).railAt ≤ (railed k).now ∧ (railed k).cluster 23 = k ∧ k.mbox = none)
      ∧ (∀ at' ∈ [0, 4000], let s := railed { mstate := 2, railAt := at' }
          s.hasCluster 23 = true ∧ (s.cluster 23).mstate = 2 ∧ (s.cluster 23).divPend = false ∧ (s.cluster 23).railAt = at' ∧ (s.cluster 23).mbox = none
            ∧ ∀ c ∈ coresOf 23, (s.core c).holdUntil = 0 ∧ (s.core c).copyHold ≤ s.now)
      ∧ (lone.hasStack 0 = true ∧ lone.hasStack 3 = true ∧ (lone.stk 0).pause = 0 ∧ (lone.stk 0).failed = false
          ∧ (∀ q ∈ clustersOf 0, lone.launchesIn q = []) ∧ (lone.stk 0).ranges = [] ∧ (lone.stk 0).resume = [])
      ∧ largest ((List.range 24).map fun col => largest (columnOf (sensed 459) col)) = 459
      ∧ largest ((List.range 24).map fun col => largest (columnOf (sensed 460) col)) = 460 :=
  ⟨by decide +kernel, by decide +kernel, by decide +kernel, by decide +kernel, by decide +kernel⟩

def telling (r : Ring) : State := { base with pkg := { base.pkg with tel := r } }
/-- An error in the last word of a vault. -/
def lastWord : Nat := 0x10000000000 + 23 * 2 ^ 26 + 8 * (2 ^ 23 - 1)
def struck (ue : Bool) : State := { base with latent := [(lastWord / 8, ue)] }
/-- A read of another stack's vault by core 0, behind its bridge. -/
def crossing (holes : List (Nat × Nat)) : State :=
  { netOf (msg (.read 8) .live (0x10000000000 + 95 * 2 ^ 26)) with pkg := { base.pkg with brgHoles := holes } }

theorem wit_TelemetrySlackScrubbersAndFailures :
    ((telling {}).pkg.tel.en = false
        ∧ (let r := (telling { en := true, log2 := 1, prod := 1, cons := 65535 }).pkg.tel; r.en = true ∧ 2 ^ r.log2 ≤ (r.prod + 65536 - r.cons) % 65536)
        ∧ (let r := (telling { en := true, log2 := 1, prod := 65535, cons := 65534 }).pkg.tel; r.en = true ∧ (r.prod + 65536 - r.cons) % 65536 < 2 ^ r.log2))
      ∧ (base.hasStack 0 = true ∧ base.hasStack 3 = true ∧ base.hasCore 0 = true ∧ base.hasCore 95 = true ∧ base.hasCluster 0 = true
          ∧ base.hasCluster 23 = true)
      ∧ (∀ ue, (struck ue).hasCore 23 = true ∧ mget none ((struck ue).latent.map fun p => (p.1, some p.2)) (lastWord / 8) = some ue)
      ∧ mget (none : Option Bool) (base.latent.map fun p => (p.1, some p.2)) (lastWord / 8) = none
      ∧ (∀ q ∈ [0, 23], (lone.cluster q).failed = false ∧ lone.launchesIn q = [])
      ∧ ((lone.stk 3).failed = false ∧ (∀ q ∈ clustersOf 3, lone.launchesIn q = []) ∧ (lone.stk 3).ranges = [] ∧ (lone.stk 3).resume = [])
      ∧ (let a := msg (.read 8) .live (0x10000000000 + 95 * 2 ^ 26)
         (crossing []).msg 5 = some a ∧ a.bridge.isSome = true ∧ ∀ h ∈ (crossing []).pkg.brgHoles, h.1 ≠ 5)
      ∧ (crossing [(5, 0)]).pkg.brgHoles = [(5, 0)] :=
  ⟨by decide +kernel, by decide +kernel, by decide +kernel, by decide +kernel, by decide +kernel, by decide +kernel, by decide +kernel, rfl⟩
/-! Resets, bring-up, the package and the host. -/

/-- No launch runs and stack 0 alone, or stacks 0 and 3, are released; PERST is cold or warm. -/
def rested (ts : List Nat) (cfg : Nat) : State :=
  { base with ctxs := [], stks := ts.map fun t => (t, { repaired := true, selftest := true, released := true }), pkg := { base.pkg with launches := [(0, { launch0 with state := 2 })], rstCfg := cfg } }

theorem wit_ResetsKeepWhatTheManualKeeps :
    (rested [0] 2).pkg.rstCfg / 2 % 2 = 1 ∧ (rested [0] 0).pkg.rstCfg / 2 % 2 = 0 ∧ noLaunch (rested [0] 0)
      ∧ ((rested [0] 0).hasStack 0 = true ∧ ((rested [0] 0).stk 0).released = true ∧ ∀ u < 4, u ≠ 0 → ((rested [0] 0).stk u).released = false)
      ∧ ((rested [0, 3] 0).hasStack 0 = true ∧ (rested [0, 3] 0).hasStack 3 = true ∧ ((rested [0, 3] 0).stk 3).released = true
          ∧ (rested [0, 3] 0).stackLaunches 0 = [] ∧ ∀ m ∈ (rested [0, 3] 0).net, stackOf m.core ≠ 0 → homeStack m.pa ≠ 0) :=
  ⟨by decide +kernel, by decide +kernel, by unfold noLaunch; decide +kernel, by decide +kernel, by decide +kernel⟩

/-- A part before bring-up, with bad layers in a stack; then at each step of it. -/
def raising (boot bad : Nat) (lanes : List Nat) (k : Stack) : State :=
  { base with pkg := { base.pkg with boot := boot }, badLayers := [(0, bad)], flashLanes := [(0, lanes)], stks := (List.range 4).map fun t => (t, k) }

theorem eraseDups_nodup : ∀ {l : List Nat}, l.Nodup → l.eraseDups = l
  | [], _ => rfl
  | a :: l, h => by
    have h := List.nodup_cons.mp h
    rw [List.eraseDups_cons, List.filter_eq_self.mpr fun b hb => by simpa using fun e : b = a => h.1 (e ▸ hb), eraseDups_nodup h.2]

/-- With lanes enough, some bus has more broken ones than spares. -/
theorem worn_out : ∃ n, ∃ a ∈ (List.range n).eraseDups,
    Config.busSpares (laneBus a) < ((List.range n).eraseDups.filter fun b => laneBus b == laneBus a).length := by
  let M := ((List.range busCount).map Config.busSpares).sum
  have hM : ∀ b < busCount, Config.busSpares b ≤ M := fun b hb =>
    List.single_le_sum (fun _ _ => Nat.zero_le _) _ (List.mem_map_of_mem (List.mem_range.mpr hb))
  have hb (a : Nat) : laneBus a < busCount := Nat.mod_lt _ (by decide)
  let n := busCount * M + 1
  obtain ⟨b, -, h⟩ := Finset.exists_lt_card_fiber_of_mul_lt_card_of_maps_to (s := Finset.range n) (t := Finset.range busCount) (f := laneBus)
    (n := M) (fun a _ => Finset.mem_range.mpr (hb a)) (by rw [Finset.card_range, Finset.card_range]; exact Nat.lt_succ_self _)
  obtain ⟨a, ha⟩ := Finset.card_pos.mp (Nat.lt_of_le_of_lt (Nat.zero_le _) h)
  rw [Finset.mem_filter] at ha
  refine ⟨n, a, ?_⟩
  rw [eraseDups_nodup List.nodup_range]
  refine ⟨List.mem_range.mpr (Finset.mem_range.mp ha.1), Nat.lt_of_le_of_lt (hM _ (hb a)) (Nat.lt_of_lt_of_le h ?_)⟩
  have e : (Finset.range n).filter (fun x => laneBus x = b) = ((List.range n).filter fun x => laneBus x == laneBus a).toFinset := by
    ext x
    simp [ha.2]
  exact e ▸ List.toFinset_card_le _

theorem wit_BringUpGoesStepByStep :
    (raising 0 0 [] {}).pkg.boot = 0
      ∧ (∀ bad ∈ [0, 3, 7, 511], ∀ lanes ∈ [[], [5, 6]], let s := raising 2 bad lanes {}
          s.hasStack 0 = true ∧ 2 ≤ s.pkg.boot ∧ (s.stk 0).tested = false ∧ (s.stk 0).released = false ∧ (s.stk 0).trip = false
            ∧ ((List.range 24).map fun i => ((List.range 9).filter fun p => mget 0 s.badLayers (24 * 0 + i) % 512 / 2 ^ p % 2 == 1).length).foldl max 0
                = (if bad = 0 then 0 else if bad = 3 then 2 else if bad = 7 then 3 else 9))
      ∧ (∃ n, let s := raising 2 0 (List.range n) {}
          let lanes := (mget [] s.fusedLanes 0 ++ mget [] s.flashLanes 0).eraseDups
          (s.stk 0).tested = false ∧ (s.stk 0).released = false ∧ (s.stk 0).trip = false
            ∧ ∃ a ∈ lanes, Config.busSpares (laneBus a) < (lanes.filter fun b => laneBus b == laneBus a).length)
      ∧ (let s := raising 2 0 [] { trip := true }
         s.hasStack 0 = true ∧ 2 ≤ s.pkg.boot ∧ (s.stk 0).tested = false ∧ (s.stk 0).released = false ∧ (s.stk 0).trip = true)
      ∧ (let s := raising 2 0 [] { tested := true, repaired := true }
         s.pkg.boot = 2 ∧ ∀ t ∈ s.stackList, (s.stk t).tested = true)
      ∧ (let s := raising 4 0 [] { tested := true, repaired := true }
         s.hasStack 0 = true ∧ 4 ≤ s.pkg.boot ∧ (s.stk 0).repaired = true ∧ (s.stk 0).failed = false ∧ (s.stk 0).released = false)
      ∧ (∀ k ∈ [({ repaired := true, released := true } : Stack), { tested := true, failed := true }], let s := raising 4 0 [] k
         s.pkg.boot = 4 ∧ ∀ t ∈ s.stackList, (s.stk t).released = true ∨ ((s.stk t).tested = true ∧ (s.stk t).failed = true)) :=
  ⟨rfl, by decide +kernel, worn_out.imp fun _ h => ⟨rfl, rfl, rfl, h⟩, by decide +kernel, by decide +kernel, by decide +kernel, by decide +kernel⟩

def draining : State := { base with pkg := { base.pkg with evBuf := [ev0], ev := ring0 } }
def featured (state : Nat) : State := { base with pkg := { base.pkg with featSup := [(0, 0x7F)], launches := [(0, { launch0 with state := state })] } }
def timing : State := { base with pkg := { base.pkg with ptimeCfg := 2 + 16 * 15, groups := [(15, { pers := 2, state := 1 })] } }
/-- The BXC busy with a command of a block in HBM. -/
def bxc (cmd : Nat) : State := { base with pkg := { base.pkg with boot := 2, bxcReq := some 0x8000300000 } }.wr 0x8000300000 1 cmd

theorem wit_PackageRegistersCommandsAndHost :
    (draining.pkg.evBuf = [ev0] ∧ draining.pkg.ev.en = true
        ∧ (draining.pkg.ev.prod + 65536 - draining.pkg.ev.cons) % 65536 < 2 ^ draining.pkg.ev.log2)
      ∧ ((0x7F : BitVec 64) &&& ~~~(mget 0 (featured 2).pkg.featSup 0) = 0 ∧ noLaunch (featured 2))
      ∧ (0x80 : BitVec 64) &&& ~~~(mget 0 (featured 2).pkg.featSup 0) ≠ 0 ∧ ¬noLaunch (featured 1)
      ∧ (timing.pkg.ptimeCfg % 4 = 2 ∧ timing.pkg.ptimeCfg / 16 = 15 ∧ timing.pkg.ptimeFree = false ∧ (timing.group 15).pers = 2
          ∧ (timing.group 15).state = 1)
      ∧ (∀ cmd ∈ [1, 2, 3, 4], 2 ≤ (bxc cmd).pkg.boot ∧ busyWith (bxc cmd) 0x8000300000 cmd)
      ∧ (base.hasCore 0 = true ∧ ({ base with form := .s } : State).form = .s)
      ∧ (∀ pa ∈ [vault0, hbm0, host0], isReg pa = false ∧ base.mapped pa = true ∧ base.shut pa = false)
      ∧ base.latent = [] ∧ base.mapped 0x12000000000 = false ∧ isReg 0x12000000000 = false
      ∧ (let s : State := { base with stks := [] }; s.mapped vault0 = true ∧ s.shut vault0 = true) :=
  ⟨by decide +kernel, ⟨by decide +kernel, by unfold noLaunch; decide +kernel⟩, by decide +kernel, by unfold noLaunch; decide +kernel,
    by decide +kernel, by unfold busyWith; decide +kernel, by decide +kernel, by decide +kernel, rfl, by decide +kernel, by decide +kernel, by decide +kernel⟩
/-! The fabric. -/

/-- A part of rank 1 that receives from rank 7 by a group of its network, at 5 µs, with the last window over a translated page. -/
def packet : Packet :=
  { opc := 1, flags := 0, gstep := 7, rop := 3, rwin := 63, src := 7, dst := 1, chan := 3, msgid := 5, psn := 9, len := 4, steptag := 5,
    offset := 60, reason := 0, payload := [1, 2, 3, 4], bitmap := 1 }
def linked : State :=
  let s := [0x8000011001, 0x8000012001, 0x800000003D].zipIdx.foldl (fun s p => s.wr (0x8000010000 + 4096 * p.2) 8 p.1) { base with ctxs := [] }
  { s with
    now := 5000000
    pkg := { s.pkg with
      roots := [(0, 0x8000010001)], fabId := BitVec.ofNat 64 (2 ^ 63 + 2), rto := 10, retries := 3
      rankTab := [(7, { v := true, kind := 1, group := 3, peer := 3 })], groups := [(3, { state := 1, pers := 2 })]
      due := [(1024 * 7 + 3, 5)]
      wins := [(63, { bound := true, en := true, base := 0x100000, size := 64, tagchk := true, steptag := 5 })] } }
def sends (f : Pkg → Pkg) : State := { linked with pkg := f linked.pkg }
def smsg (read : Bool) (req : Option Nat) (tries : Nat := 0) : SentMsg :=
  { chan := 3, rank := 7, msgid := 5, opc := if read then 3 else 1, rop := 0, rwin := 3, steptag := 5, offset := 0, len := 8,
    untagged := false, data := [1], src := none, vault := false, sentAt := 4000, tries := tries, psn := 9, req := req }
def hole0 : Hole := { src := 7, chan := 3, msgid := 5, rwin := 3, steptag := 5, offset := 8, len := 8, born := 100, rereqs := 0, due := some 5000000, psn := 9, resp := false }

theorem wit_PacketsArePlacedAnsweredAndResent :
    (received linked packet ∧ bare packet ∧ freshMsg linked packet ∧ taken1 linked packet 0x800010003C ∧ packet.payload.length = packet.len
        ∧ packet.rop = 3 ∧ packet.len = 4 ∧ packet.offset % 4 = 0 ∧ linked.poisoned 0x800010003C 4 = false ∧ linked.cxlFull 0x800010003C 4 = false
        ∧ packet.opc ≠ 4 ∧ linked.latent = [] ∧ linked.pkg.waiting = [] ∧ linked.pkg.placed = [])
      ∧ (let p := { packet with msgid := 6 }
         received linked p ∧ bare p ∧ linked.pkg.knows p = false ∧ linked.pkg.holes = [] ∧ linked.pkg.unheard p.src p.chan p.msgid = true
          ∧ taken1 linked p 0x800010003C ∧ p.payload.length = p.len)
      ∧ (let p := { packet with rwin := 62 }; received linked p ∧ bare p ∧ freshMsg linked p ∧ (linked.rwin (p.rwin % 64)).bound = false)
      ∧ (let s := { sends (fun k => { k with sent := [smsg true (some 5)] }) with net := [msg (.read 8) .live hbm0] }
         received s packet ∧ sentMsg s packet (smsg true (some 5)) true ∧ s.pkg.holes = [] ∧ packet.payload.length ≤ 256 ∧ (s.msg 5).isSome = true)
      ∧ (let s := sends fun k => { k with sent := [smsg false (some 5)] }; received s packet ∧ sentMsg s packet (smsg false (some 5)) false)
      ∧ (let m := smsg false none; let s := sends fun k => { k with sent := [m] }
         received s packet ∧ sentMsg s packet m false ∧ m.opc ≠ 6 ∧ m.chan < 512 ∧ m.src = none ∧ m.req = none
          ∧ m.sentAt + 4000 * s.pkg.rto ≤ s.now ∧ m.tries < s.pkg.retries ∧ s.pkg.rankValid = true)
      ∧ (let s := sends fun k => { k with holes := [hole0] }; mget 0 s.pkg.rereqAt 7 ≤ s.now ∧ s.pkg.holes = [hole0] ∧ 5000000 ≤ s.now
          ∧ s.pkg.rankValid = true)
      ∧ (let m := smsg false (some 5) 3; let s := { sends (fun k => { k with sent := [m] }) with net := [msg (.write [1] false) .live hbm0] }
         s.pkg.sent = [m] ∧ m.sentAt + 4000 * s.pkg.rto ≤ s.now ∧ s.pkg.retries ≤ m.tries ∧ m.opc ≠ 3 ∧ s.pkg.rankValid = true
          ∧ (s.msg 5).map (·.dest) = some .none)
      ∧ (let k := linked.rwin 63; k.bound = true ∧ k.en = true ∧ (k.tagchk = true → packet.steptag % 65536 = k.steptag.toNat))
      ∧ (base.pkg.rankValid = false ∧ (linked.rank 8).v = false) := by
  unfold received bare freshMsg taken1 sentMsg
  exact ⟨by decide +kernel, by decide +kernel, by decide +kernel, by decide +kernel, by decide +kernel, by decide +kernel, by decide +kernel, by decide +kernel,
    by decide +kernel, by decide +kernel⟩

def grouped (k : Group) : State := { base with pkg := { base.pkg with groups := [(15, k)] } }

theorem wit_GroupsRanksAndWindows :
    (∀ k ∈ [({ state := 0, ctlPers := 3 } : Group), { state := 6, ctlPers := 2, ctlMode := 1 }],
        (k.ctlMode < 2 ∧ ¬(k.ctlMode = 1 ∧ k.ctlPers = 3) ∧ (k.state = 0 ∨ k.state = 1 ∨ k.state = 6)) ∧ (grouped k).group 15 = k)
      ∧ (∀ k ∈ [({ ctlMode := 2 } : Group), { ctlMode := 1, ctlPers := 3 }, { state := 3 }],
          ¬(k.ctlMode < 2 ∧ ¬(k.ctlMode = 1 ∧ k.ctlPers = 3) ∧ (k.state = 0 ∨ k.state = 1 ∨ k.state = 6)))
      ∧ (∀ n ∈ [0, 3], let s := grouped { state := 3, newPers := n }
          (s.group 15).state = 3 ∧ s.pkg.sent = [] ∧ s.net = [] ∧ s.pkg.rankTab = [] ∧ s.pkg.holes = [] ∧ s.pkg.ptimeCfg % 4 ≠ 2
            ∧ (s.group 15).newPers = n)
      ∧ (∀ n ∈ [0, 3], ((grouped { state := 5, newPers := n }).group 15).state = 5)
      ∧ base.unreachable 1023 = true ∧ (linked.group (linked.rank 7).group).linked = true ∧ linked.pkg.sent = []
      ∧ (let s := grouped { pers := 3, state := 1 }; (s.group 15).pers = 3 ∧ (s.group 15).state = 1 ∧ ∀ p ∈ s.cores, p.2.chans = [])
      ∧ base.pkg.holes = [] :=
  ⟨by decide +kernel, by decide +kernel, by decide +kernel, by decide +kernel, by decide +kernel, by decide +kernel, by decide +kernel, by decide +kernel, rfl⟩
/-! The machine as a whole. -/

theorem encodes_of {i : Instr} {sl : Slot} (h : (encodeSlot i).map Prod.fst = some sl) : ∃ w, encodeSlot i = some (sl, w) := by
  cases e : encodeSlot i with
  | none => simp [e] at h
  | some p => obtain ⟨a, w⟩ := p; exact ⟨w, by simpa [e] using h⟩
theorem ofSlot_of {i : Instr} {sl : Slot} (h : (i.isNop == false && (encodeSlot i).map Prod.fst == some sl) = true) : ofSlot i sl := by
  simp only [Bool.and_eq_true, beq_iff_eq] at h
  exact ⟨h.1, encodes_of h.2⟩

/-- Mask k1, which is zero, was written some cycles before. -/
def addG1 : Instr := .addi ⟨1, 3, 4, 0, 5⟩
def maskedAt (n : Nat) : State := baseWith fun k => { k with maskAt := [(1, n)] }

theorem wit_EmptyBundlesAndMaskLogic :
    base.calm = true ∧ (∀ op ∈ List.range 8, op ≠ 0 → BitVec.ofNat 3 op ≠ 0)
      ∧ (ofSlot addG1 .s ∧ guardedBy addG1 1 ∧ base.enabled addG1 = true ∧ guardOn .s (base.here.rk 1) = false)
      ∧ ((maskedAt 98).calm = true ∧ ∀ t, ((1 : BitVec 4).toNat, t) ∈ (maskedAt 98).here.maskAt → t + 2 ≤ (maskedAt 98).here.cyc)
      ∧ ((maskedAt 99).calm = true ∧ (maskedAt 99).here.maskAt = [((1 : BitVec 4).toNat, 99)] ∧ (maskedAt 99).here.cyc < 99 + 2) :=
  ⟨by decide +kernel, by decide +kernel, ⟨ofSlot_of (by decide +kernel), by unfold guardedBy; decide +kernel, by decide +kernel, by decide +kernel⟩,
    ⟨by decide +kernel, fun t ht => by
      have h : t = 98 := by simpa [maskedAt, baseWith, State.here, State.ctx, mget, base] using ht
      subst h; decide +kernel⟩, by decide +kernel⟩

/-- A trap of the context in turn goes to its handler. -/
def handledB (s : State) : Bool := !s.here.trapm && (s.traph s.cur.1 s.cur.2 != 0 && s.here.gred.all fun w => w.done)
theorem handled_of {s : State} (h : handledB s = true) : handled s := by
  simp only [handledB, Bool.and_eq_true, Bool.not_eq_true', bne_iff_ne, Option.all_eq_true] at h
  exact ⟨h.1, h.2.1, h.2.2⟩
def armedB (s : State) : Bool := s.calm && (quietB s && handledB s)
theorem armed_of {s : State} (h : armedB s = true) : armed s := by
  simp only [armedB, Bool.and_eq_true] at h
  exact ⟨h.1, quiet_of h.2.1, handled_of h.2.2⟩

/-- s3 as given, 8192 in s4, and multiples of 8192 in v9. -/
def at3 (v : BitVec 64) : State :=
  baseWith fun k => { k with s := [(3, v), (4, 8192)], v := [(9, joinElems 64 ((List.range 32).map (8192 * ·)))] }
/-- Accesses of 8 bytes or of 256 from s3, the last four of each slot with elements 8192 bytes apart. -/
structure Try where
  i : Instr
  sl : Slot
  a : Acc
  n : Nat
def ld3 (size : BitVec 3) (idx : BitVec 6) : OpLd := ⟨0, 5, 3, idx, 0, size, 0⟩
def ldx3 : OpLdX := ⟨0, 5, 3, 9, 3, 0, 0, 3, 0, 0⟩
def st3 (size : BitVec 3) (idx : BitVec 6) : OpSt := ⟨0, 0, 3, idx, 0, size, 0⟩
def stx3 : OpStX := ⟨0, 16, 3, 9, 3, 0, 0, 3, 0⟩
def vaultTries (s : State) : List Try :=
  [⟨.ldv (ld3 3 0), .ld, accV s (ld3 3 0), 8⟩, ⟨.ldvv (ld3 6 0), .ld, accV s (ld3 6 0), 256⟩,
    ⟨.ldk (ld3 3 0), .ld, ⟨true, pieces (eaV s.here (ld3 3 0)) 0 8, false, true, false, s.cur.1, s.cur.2⟩, 8⟩,
    ⟨.stv (st3 3 0), .st, stAccV s (st3 3 0), 8⟩, ⟨.stvv (st3 6 0), .st, stAccV s (st3 6 0), 256⟩, ⟨.stk (st3 3 0), .st, stAccV s (st3 3 0), 8⟩]
def spreadTries (s : State) : List Try :=
  [⟨.ldvs (ld3 3 4), .ld, accS s (ld3 3 4), 8⟩, ⟨.ldvx ldx3, .ld, accX true s ldx3, 8⟩, ⟨.stvs (st3 3 4), .st, stAccS s (st3 3 4), 8⟩,
    ⟨.stvx stx3, .st, stAccX true s stx3, 8⟩]
def globalTries (s : State) : List Try :=
  [⟨.ldg (ld3 3 0), .ld, accG s (ld3 3 0), 8⟩, ⟨.ldgv (ld3 6 0), .ld, accG s (ld3 6 0), 256⟩, ⟨.lda (ld3 3 0), .ld, accG s (ld3 3 0), 8⟩,
    ⟨.ldgx ldx3, .ld, accX false s ldx3, 8⟩, ⟨.stg (st3 3 0), .st, stAccG s (st3 3 0), 8⟩, ⟨.stgv (st3 6 0), .st, stAccG s (st3 6 0), 256⟩,
    ⟨.stl (st3 3 0), .st, stAccG s (st3 3 0), 8⟩, ⟨.stgx stx3, .st, stAccX false s stx3, 8⟩]

/-- A page that a user may not use, the walks for another failed, and one that holds neither. -/
def baseWalk (v : BitVec 64) : State :=
  let m (w : Bool) : Miss := ⟨0, 0, 0, 0, 0x7000, w, false, false, some 8, 0, false⟩
  { baseWith (fun k => { k with s := [(3, v)], v := [(9, joinElems 64 ((List.range 32).map (8 * ·)))] }) with
    cores := [(0, { base.core 0 with utlb := ⟨0, 0x2000, 0x1000, 0x8000300000, true, false, false⟩ :: (base.core 0).utlb })]
    clusters := [(0, { misses := [m false, m true] })] }
def firstB (s : State) (a : Acc) (code : Nat) : Bool :=
  match a.ps with
  | [] => false
  | p :: _ => match findTlb ((s.core a.c).utlb ++ (s.ctx a.c a.x).xl) (s.asid a.c a.x) (bitsOf p.ea 56 0) with
    | none => code == 9 && !canonical p.ea || (canonical p.ea && s.walkFail a.c 0 a.x (s.asid a.c a.x) p.ea a.write false == some code)
    | some e => canonical p.ea && (!permitted e (s.supv a.c a.x) a.write false && code == 9)
theorem first_of {s : State} {a : Acc} {code : Nat} (h : firstB s a code = true) : ∃ p post, a.ps = p :: post ∧ refusedAt s a p code := by
  unfold firstB at h
  split at h
  · cases h
  · rename_i p post e
    refine ⟨p, post, e, ?_⟩
    split at h
    · rename_i e1
      simp only [Bool.or_eq_true, Bool.and_eq_true, beq_iff_eq, Bool.not_eq_true'] at h
      exact h.elim (fun h => .inl ⟨h.2, h.1⟩) fun h => .inr ⟨h.1, .inl ⟨e1, h.2⟩⟩
    · rename_i t e1
      simp only [Bool.and_eq_true, beq_iff_eq, Bool.not_eq_true'] at h
      exact .inr ⟨h.1, .inr ⟨t, e1, h.2.1, h.2.2⟩⟩
def isMiss : Xlate → Bool
  | .miss => true
  | _ => false
theorem notMiss_of {r : Xlate} (h : isMiss r = false) : r ≠ .miss := fun e => by rw [e] at h; cases h
def settledB (s : State) (a : Acc) : Bool :=
  !s.acquiring a.c a.x && (!(s.core a.c).outFull && a.ps.all fun p =>
    (a.late || s.primalHit a.c a.x false p == none) && (!s.scoreGlobal a.c (s.asid a.c a.x) p && !isMiss (s.xslot a.c a.x p.ea a.write)))
theorem settled_of {s : State} {a : Acc} (h : settledB s a = true) : settled s a := by
  simp only [settledB, Bool.and_eq_true, Bool.not_eq_true', List.all_eq_true, Bool.or_eq_true, beq_iff_eq] at h
  refine ⟨h.1, h.2.1, fun p hp => ?_⟩
  obtain ⟨h1, h2, h3⟩ := h.2.2 p hp
  exact ⟨fun e => h1.resolve_left (by simp [e]), h2, notMiss_of h3⟩

def mprogOp : Instr := .mprog ⟨0, 3, 0, 0⟩
def baseOff : State := { base with pkg := { base.pkg with featEn := [] } }
def baseNoCube : State := withX false ctx0
/-- A CUBE of the context runs, its claims in force. -/
def baseCubing : State :=
  { baseWith (fun k => { k with mx := { k.mx with phase := 1 } }) with
    cores := [(0, { base.core 0 with seq := some (seq0 3 []), score := (cubeD.claim 0 false (cubeD.stream 0)).toList })] }
def mfmtOp : OpFmt := ⟨0, 3, 3, 0⟩

/-- Each trap: an encoding, a disabled feature, a supervisor's register, the rail, the drone, a launch without the cube, a running
CUBE, an illegal format; vault accesses from a base that names no vault, at an odd address, in the last row, and with elements of one
bank; global ones at an address that is not canonical, at a page that may not be used, and at one whose walk has failed; a halted
channel. -/
theorem wit_TrapsOfEncodingsPrivilegeAndModes :
    (armed base ∧ ofSlot (.addi ⟨0, 3, 4, 1, 5⟩) .s ∧ Instr.wf (.addi ⟨0, 3, 4, 1, 5⟩) = false)
      ∧ (armed baseOff ∧ ofSlot mprogOp .mx ∧ mprogOp.wf = true ∧ formTrap baseOff.form mprogOp = none ∧ 0 ∈ featsOf mprogOp ∧ baseOff.featOn 0 = false)
      ∧ (∀ n ∈ [0x100, 0x560], supervisorReg n = true ∧ base.runs (.syswr ⟨0, 0, 4, 0, BitVec.ofNat 32 n⟩) .s 0)
      ∧ base.supv base.cur.1 base.cur.2 = false
      ∧ (∀ mk ∈ [Instr.tune, .clkdiv], base.runs (mk ⟨0, 9, 3, 0, 0⟩) .sy 0) ∧ (base.cluster (clusterOf base.cur.1)).userTune = false
      ∧ (guardedBy mprogOp 0 ∧ baseDrone.runs mprogOp .mx 0 ∧ armed baseDrone ∧ baseDrone.isDrone baseDrone.cur.1 baseDrone.cur.2 = true)
      ∧ (baseNoCube.runs mprogOp .mx 0 ∧ armed baseNoCube ∧ baseNoCube.isDrone baseNoCube.cur.1 baseNoCube.cur.2 = false
          ∧ (baseNoCube.here.strand.any fun st => (baseNoCube.hdrOf st).cube) = false)
      ∧ ((let s := baseCubing
          s.here.calm = true ∧ s.hasCore s.cur.1 = true ∧ s.cur.2 < 2 ∧ s.fenced s.cur.1 s.cur.2 = false ∧ s.enabled mprogOp = true
            ∧ guardOn .mx (s.here.rk 0) = true ∧ s.isDrone s.cur.1 s.cur.2 = false ∧ (s.here.strand.any fun st => (s.hdrOf st).cube) = true
            ∧ (s.core s.cur.1).seq = some (seq0 3 []) ∧ cubeD.x = s.cur.2 ∧ s.here.mx.phase = 1) ∧ baseCubing.quiet ∧ handled baseCubing)
      ∧ (∀ v ∈ [(5 : BitVec 64), 2 ^ 32 + 0x50748], let s := at3 v
          s.runs (.mfmt mfmtOp) .mx 0 ∧ armed s ∧ s.isDrone s.cur.1 s.cur.2 = false ∧ (s.here.strand.any fun st => (s.hdrOf st).cube) = true
            ∧ s.here.mx.phase ≠ 1 ∧ ((s.here.rs 3).extractLsb' 32 32 ≠ 0 ∨ fmtLegal ((s.here.rs 3).setWidth 32) = false))
      ∧ (∀ v ∈ [(2 ^ 33 : BitVec 64), 96 * 2 ^ 26, 1, 8191 * 8192], ∀ y ∈ vaultTries (at3 v) ++ spreadTries (at3 v), let s := at3 v
          (s.runs y.i y.sl 0 ∧ armed s) ∧ s.badVp y.a.c v = decide (v = 2 ^ 33 ∨ v = 96 * 2 ^ 26) ∧ s.supv y.a.c y.a.x = false
            ∧ (v = 1 → ∃ p post, y.a.ps = p :: post ∧ p.off % y.n = 0 ∧ p.ea.toNat % y.n ≠ 0)
            ∧ (v = 8191 * 8192 → (∃ p post, y.a.ps = p :: post ∧ 8191 * 8192 ≤ vpLin p.ea) ∧ ∀ q ∈ y.a.ps, q.off % y.n = 0 → q.ea.toNat % y.n = 0))
      ∧ (∀ y ∈ spreadTries (at3 64), let s := at3 64
          (s.runs y.i y.sl 0 ∧ armed s) ∧ aimed s y.a 64 8 ∧ (∀ p ∈ y.a.ps, s.primalHit y.a.c y.a.x true p = none)
            ∧ ∃ v u us, y.a.units = v :: u :: us ∧ u.1 % 128 = v.1 % 128)
      ∧ (∀ r ∈ [((2 ^ 60 : BitVec 64), 9), (0x2000, 9), (0x7000000, 8)], ∀ y ∈ globalTries (baseWalk r.1), let s := baseWalk r.1
          (s.runs y.i y.sl 0 ∧ s.net = [] ∧ handled s) ∧ settled s y.a ∧ (∃ p post, y.a.ps = p :: post ∧ refusedAt s y.a p r.2)
            ∧ s.parks y.a.c y.a.x r.2 y.sl.idx = false ∧ s.relHeld s.cur.1 = false)
      ∧ (∀ y ∈ [(⟨.lda (ld3 3 0), .ld, accG (at3 0x10041) (ld3 3 0), 8⟩ : Try), ⟨.stl (st3 3 0), .st, stAccG (at3 0x10041) (st3 3 0), 8⟩],
          let s := at3 0x10041
          (s.runs y.i y.sl 0 ∧ s.net = [] ∧ handled s) ∧ settled s y.a ∧ s.relHeld s.cur.1 = false
            ∧ (eaG s.here (ld3 3 0)).toNat % 8 ≠ 0 ∧ (stEaG s.here (st3 3 0)).toNat % 8 ≠ 0)
      ∧ (armed baseHalt ∧ baseHalt.runs (.cestat ⟨0, 3, 9, 0, 0, 0⟩) .ce 0 ∧ baseHalt.runs (.cewait ⟨0, 3, 0, 9, 0⟩) .sy 0
          ∧ (baseHalt.chan 0 3).state = 2) := by
  have h1 := each (l := [0x100, 0x560]) (p := fun n => supervisorReg n && runsB base (.syswr ⟨0, 0, 4, 0, BitVec.ofNat 32 n⟩) .s 0)
    (by decide +kernel)
  have h2 := each (l := [Instr.tune, .clkdiv]) (p := fun mk => runsB base (mk ⟨0, 9, 3, 0, 0⟩) .sy 0) (by decide +kernel)
  have h3 := each (l := [(5 : BitVec 64), 2 ^ 32 + 0x50748]) (p := fun v => let s := at3 v
    runsB s (.mfmt mfmtOp) .mx 0 && (armedB s && decide (s.isDrone s.cur.1 s.cur.2 = false ∧ (s.here.strand.any fun st => (s.hdrOf st).cube) = true
      ∧ s.here.mx.phase ≠ 1 ∧ ((s.here.rs 3).extractLsb' 32 32 ≠ 0 ∨ fmtLegal ((s.here.rs 3).setWidth 32) = false)))) (by decide +kernel)
  have h4 := each (l := [(2 ^ 33 : BitVec 64), 96 * 2 ^ 26, 1, 8191 * 8192]) (p := fun v => let s := at3 v
    armedB s && (vaultTries s ++ spreadTries s).all fun y => runsB s y.i y.sl 0
      && (decide (s.badVp y.a.c v = decide (v = 2 ^ 33 ∨ v = 96 * 2 ^ 26) ∧ s.supv y.a.c y.a.x = false)
        && ((v != 1 || (y.a.ps.head?.any fun p => decide (p.off % y.n = 0 ∧ p.ea.toNat % y.n ≠ 0)))
          && (v != 8191 * 8192 || ((y.a.ps.head?.any fun p => decide (8191 * 8192 ≤ vpLin p.ea))
            && y.a.ps.all fun q => decide (q.off % y.n = 0 → q.ea.toNat % y.n = 0)))))) (by decide +kernel)
  have h5 := each (l := spreadTries (at3 64)) (p := fun y => let s := at3 64
    runsB s y.i y.sl 0 && (armedB s && ((!y.a.vault || (!s.badVp y.a.c 64 && (y.a.ps.all fun p => p.off % 8 != 0 || p.ea.toNat % 8 == 0)
      && (s.supv y.a.c y.a.x || y.a.ps.all fun p => decide (vpLin p.ea < 8191 * 8192))))
      && ((y.a.ps.all fun p => s.primalHit y.a.c y.a.x true p == none)
      && match y.a.units with
        | v :: u :: _ => u.1 % 128 == v.1 % 128
        | _ => false)))) (by decide +kernel)
  have h6 := each (l := [((2 ^ 60 : BitVec 64), 9), (0x2000, 9), (0x7000000, 8)]) (p := fun r => let s := baseWalk r.1
    (globalTries s).all fun y => runsB s y.i y.sl 0 && (handledB s && (settledB s y.a && (firstB s y.a r.2
      && decide (s.parks y.a.c y.a.x r.2 y.sl.idx = false ∧ s.relHeld s.cur.1 = false))))) (by decide +kernel)
  have h7 := each (l := [(⟨.lda (ld3 3 0), .ld, accG (at3 0x10041) (ld3 3 0), 8⟩ : Try), ⟨.stl (st3 3 0), .st, stAccG (at3 0x10041) (st3 3 0), 8⟩])
    (p := fun y => let s := at3 0x10041
      runsB s y.i y.sl 0 && (handledB s && (settledB s y.a && decide (s.relHeld s.cur.1 = false
        ∧ (eaG s.here (ld3 3 0)).toNat % 8 ≠ 0 ∧ (stEaG s.here (st3 3 0)).toNat % 8 ≠ 0)))) (by decide +kernel)
  refine ⟨⟨armed_of (by decide +kernel), ofSlot_of (by decide +kernel), by decide +kernel⟩,
    ⟨armed_of (by decide +kernel), ofSlot_of (by decide +kernel), by decide +kernel, by decide +kernel, by decide +kernel, by decide +kernel⟩,
    fun n hn => have h := Bool.and_eq_true .. ▸ h1 n hn; ⟨h.1, runs_of h.2⟩, by decide +kernel, fun mk hm => runs_of (h2 mk hm), by decide +kernel,
    ⟨by unfold guardedBy; decide +kernel, runs_of (by decide +kernel), armed_of (by decide +kernel), by decide +kernel⟩,
    ⟨runs_of (by decide +kernel), armed_of (by decide +kernel), by decide +kernel, by decide +kernel⟩,
    ⟨by decide +kernel, quiet_of (by decide +kernel), handled_of (by decide +kernel)⟩, fun v hv => ?_, fun v hv y hy => ?_, fun y hy => ?_,
    fun r hr y hy => ?_, fun y hy => ?_,
    ⟨armed_of (by decide +kernel), runs_of (by decide +kernel), runs_of (by decide +kernel), by decide +kernel⟩⟩
  · have h := h3 v hv
    simp only [Bool.and_eq_true (runsB ..), Bool.and_eq_true (armedB ..)] at h
    exact ⟨runs_of h.1, armed_of h.2.1, of_decide_eq_true h.2.2⟩
  · have h := Bool.and_eq_true .. ▸ h4 v hv
    have g := Bool.and_eq_true .. ▸ each h.2 y hy
    have g2 := Bool.and_eq_true .. ▸ g.2
    have g3 := Bool.and_eq_true .. ▸ g2.2
    have d := of_decide_eq_true g2.1
    refine ⟨⟨runs_of g.1, armed_of h.1⟩, d.1, d.2, fun e => ?_, fun e => ?_⟩
    · have q := g3.1
      rw [e] at q
      cases e1 : y.a.ps with
      | nil => simp [e1] at q
      | cons p post => exact ⟨p, post, rfl, by simpa [e1] using q⟩
    · have q := g3.2
      rw [e] at q
      cases e1 : y.a.ps with
      | nil => simp [e1] at q
      | cons p post =>
        rw [e1] at q
        have q := Bool.and_eq_true .. ▸ ((Bool.or_eq_true ..) ▸ q).resolve_left (by decide)
        exact ⟨⟨p, post, rfl, of_decide_eq_true q.1⟩, fun a ha => of_decide_eq_true (each q.2 a ha)⟩
  · have h := Bool.and_eq_true .. ▸ h5 y hy
    have g := Bool.and_eq_true .. ▸ h.2
    have g2 := Bool.and_eq_true .. ▸ g.2
    have g3 := Bool.and_eq_true .. ▸ g2.2
    refine ⟨⟨runs_of h.1, armed_of g.1⟩, aimed_of g2.1, fun p hp => eq_of_beq (each g3.1 p hp), ?_⟩
    have q := g3.2
    split at q
    · rename_i v u us e
      exact ⟨v, u, us, e, eq_of_beq q⟩
    · cases q
  · have h := Bool.and_eq_true .. ▸ each (h6 r hr) y hy
    have g := Bool.and_eq_true .. ▸ h.2
    have g2 := Bool.and_eq_true .. ▸ g.2
    have g3 := Bool.and_eq_true .. ▸ g2.2
    exact ⟨⟨runs_of h.1, rfl, handled_of g.1⟩, settled_of g2.1, first_of g3.1, of_decide_eq_true g3.2⟩
  · have h := Bool.and_eq_true .. ▸ h7 y hy
    have g := Bool.and_eq_true .. ▸ h.2
    have g2 := Bool.and_eq_true .. ▸ g.2
    exact ⟨⟨runs_of h.1, rfl, handled_of g.1⟩, settled_of g2.1, of_decide_eq_true g2.2⟩

theorem each_slot {b : Bundle} (h : (b.slots.all fun p => (encodeSlot p.2).map Prod.fst == some p.1) = true) :
    ∀ p ∈ b.slots, ∃ w, encodeSlot p.2 = some (p.1, w) := fun p hp => encodes_of (by simpa using List.all_eq_true.mp h p hp)

/-- A bundle with an instruction in each slot, and every header field at its greatest. -/
def fullBundle : Bundle :=
  { rep := 63, step := 255, plogop := 7, plogd := 15, ploga := 15, plogb := 15
    slots := [(.s, .addi ⟨15, 63, 63, 0, 0xFFFFFFFF⟩), (.va, .vfma ⟨false, 15, 2047, 2047, 2047, 2047, 10, 0⟩),
      (.vb, .vadd ⟨true, 0, 1, 2, 3, 0, 0, 0⟩), (.mx, .mzero ⟨0, 15, 0, 0, 0xFFFF⟩), (.ld, .ldg ⟨0, 31, 63, 63, 1023, 3, 0xFFFFF⟩),
      (.st, .stg ⟨0, 0, 63, 63, 0, 3, 0xFFFFF⟩), (.ce, .ceidx ⟨0, 3, 63, 0, 0, 7⟩), (.sy, .acas ⟨0, 63, 63, 63, 1, 3, 1, 0xFFFFFFF⟩)] }
theorem wit_DecodeOfEncodeIsTheBundle : wellFormed fullBundle ∧ ∀ p ∈ fullBundle.slots, p.2.wf = true :=
  ⟨⟨by decide, by decide, by decide, each_slot (by decide +kernel)⟩, by
    have h := List.all_eq_true.mp (show (fullBundle.slots.all fun p => p.2.wf) = true by decide +kernel)
    exact h⟩

def nextB (r : Host.Outcome State Fault Refusal) : Bool :=
  match r with
  | .next _ => true
  | _ => false
theorem next_of {r : Host.Outcome State Fault Refusal} (h : nextB r = true) : ∃ t, r = .next t := by
  unfold nextB at h
  split at h
  · exact ⟨_, rfl⟩
  · cases h

theorem wit_EveryStepKeepsMemoryCanonical : base.mem.wf = true ∧ (issuing (addiBundle 0)).mem.wf = true ∧ ∃ t, step (issuing (addiBundle 0)) = .next t :=
  ⟨by decide +kernel, by decide +kernel, next_of (by decide +kernel)⟩

/-- The bundle of `issuing` next. -/
def nextIs (l : List Instr) : State := { issuing (addiBundle 0) with agenda := l }
def plogging : State :=
  { base.wr 0x8000200000 64 (encodeBundle { Bundle.single .s (.nop .s) with plogop := 1, plogd := 3, ploga := 1, plogb := 2 }) with agenda := [.bundleIssue 0 0] }
theorem wit_StepRunsTheDecodedInstruction :
    ((nextIs [.bundleIssue 0 0]).agenda = [.bundleIssue 0 0] ∧ atBundle (nextIs [.bundleIssue 0 0]) 0 0
        ∧ fetches (nextIs [.bundleIssue 0 0]) 0 0 (Bundle.single .s (.addi ⟨0, 3, 4, 0, 5⟩)))
      ∧ (plogging.agenda = [.bundleIssue 0 0] ∧ atBundle plogging 0 0
        ∧ fetches plogging 0 0 { Bundle.single .s (.nop .s) with plogop := 1, plogd := 3, ploga := 1, plogb := 2 })
      ∧ (({ base with inputs := [(0, .rstCold)] } : State).agenda = [] ∧ 0 ≤ base.now) ∧ (base.agenda = [] ∧ base.inputs.head? = none) := by
  unfold atBundle fetches
  exact ⟨⟨rfl, by decide +kernel, 0x8000200000, by decide +kernel, by decide +kernel, by decide +kernel, by decide +kernel, by decide +kernel, by decide +kernel⟩,
    ⟨rfl, by decide +kernel, 0x8000200000, by decide +kernel, by decide +kernel, by decide +kernel, by decide +kernel, by decide +kernel, by decide +kernel⟩,
    ⟨rfl, Nat.zero_le _⟩, rfl, rfl⟩
/-! Words of every slot instruction, each bit from the tables of R52 to R57 and the opcodes of R70 to R74: the opcode in bits 59:54, the
guard in 53:50, the fields where the tables place them. -/

def words_s1 : List (Nat × Instr) :=
  [(0x057D29A00000000, .add ⟨5, 0x3d, 0xa, 0x1a, 0⟩),
   (0x0BC417500000000, .sub ⟨15, 4, 5, 0x35, 0⟩),
   (0x0F876009531985E, .addi ⟨14, 7, 0x18, 0, 0x9531985e⟩),
   (0x107B84E00000000, .mul ⟨1, 0x3b, 0x21, 0xe, 0⟩),
   (0x144671B00000000, .mulh ⟨1, 6, 0x1c, 0x1b, 0⟩),
   (0x18501A400000000, .mulhn ⟨1, 0x10, 6, 0x24, 0⟩),
   (0x1E84D6500000000, .div ⟨10, 4, 0x35, 0x25, 0⟩),
   (0x207D3E900000000, .divn ⟨1, 0x3d, 0xf, 0x29, 0⟩),
   (0x27E6F4400000000, .rem ⟨15, 0x26, 0x3d, 4, 0⟩),
   (0x2BA668400000000, .remn ⟨14, 0x26, 0x1a, 4, 0⟩),
   (0x2C8393700000000, .and ⟨2, 3, 0x24, 0x37, 0⟩),
   (0x30936CA00000000, .or ⟨2, 0x13, 0x1b, 0xa, 0⟩),
   (0x378895400000000, .xor ⟨14, 8, 0x25, 0x14, 0⟩),
   (0x3BB5B002E44158C, .andi ⟨14, 0x35, 0x2c, 0, 0x2e44158c⟩),
   (0x3C66940A38FD548, .ori ⟨1, 0x26, 0x25, 0, 0xa38fd548⟩),
   (0x40981C08C38FB2A, .xori ⟨2, 0x18, 7, 0, 0x8c38fb2a⟩)]
theorem test_words_s1 : (words_s1.all fun p => decodeSlot .s p.1 == some p.2 && p.2.wf) = true := by decide +kernel

def words_s2 : List (Nat × Instr) :=
  [(0x47C594400000000, .shl ⟨15, 5, 0x25, 4, 0⟩),
   (0x4B8E82C00000000, .shr ⟨14, 0xe, 0x20, 0x2c, 0⟩),
   (0x4F9CC9500000000, .sha ⟨14, 0x1c, 0x32, 0x15, 0⟩),
   (0x52A6F000000002D, .shli ⟨10, 0x26, 0x3c, 0, 0x2d⟩),
   (0x56985000000002D, .shri ⟨10, 0x18, 0x14, 0, 0x2d⟩),
   (0x58B33000000002D, .shai ⟨2, 0x33, 0xc, 0, 0x2d⟩),
   (0x5FF24000000002D, .roti ⟨15, 0x32, 0x10, 0, 0x2d⟩),
   (0x606552200000000, .min ⟨1, 0x25, 0x14, 0x22, 0⟩),
   (0x66B95AF00000000, .max ⟨10, 0x39, 0x16, 0x2f, 0⟩),
   (0x6A939FF00000000, .minn ⟨10, 0x13, 0x27, 0x3f, 0⟩),
   (0x6C4885B00000000, .maxn ⟨1, 8, 0x21, 0x1b, 0⟩),
   (0x70B158000000000, .clz ⟨2, 0x31, 0x16, 0, 0⟩),
   (0x74BC80000000000, .popc ⟨2, 0x3c, 0x20, 0, 0⟩),
   (0x7A83000F646E1F5, .movi ⟨10, 3, 0, 0, 0xf646e1f5⟩),
   (0x7FC5C408EDE0D7B, .movhi ⟨15, 5, 0x31, 0, 0x8ede0d7b⟩),
   (0x83B679AC0000000, .cmp ⟨14, 0xd, 9, 0x39, 0xac0000000⟩)]
theorem test_words_s2 : (words_s2.all fun p => decodeSlot .s p.1 == some p.2 && p.2.wf) = true := by decide +kernel

def words_s3 : List (Nat × Instr) :=
  [(0x855A2D959A54A7C, .cmpi ⟨5, 6, 8, 0x2d, 0x959a54a7c⟩),
   (0x8AA6D1E00000009, .sel ⟨10, 0x26, 0x34, 0x1e, 9⟩),
   (0x8C7618000011411, .bfx ⟨1, 0x36, 6, 0, 0x11411⟩),
   (0x915FB4000001411, .bfi ⟨5, 0x1f, 0x2d, 0, 0x1411⟩),
   (0x97C512F00000002, .fadd ⟨15, 5, 4, 0x2f, 2⟩),
   (0x9BD4AA500000002, .fmul ⟨15, 0x14, 0x2a, 0x25, 2⟩),
   (0x9FF5753000003F1, .ffma ⟨15, 0x35, 0x1d, 0x13, 0x3f1⟩),
   (0xA3DDF9AC0000000, .fcmp ⟨15, 7, 7, 0x39, 0xac0000000⟩),
   (0xA7D7080000001A2, .fcvt ⟨15, 0x17, 2, 0, 0x1a2⟩),
   (0xAA8D5C000000000, .kmov ⟨10, 0xd, 0x17, 0, 0⟩),
   (0xACA834000000000, .kget ⟨2, 0x28, 0xd, 0, 0⟩),
   (0xB06034000000000, .kpopc ⟨1, 0x20, 0xd, 0, 0⟩),
   (0xB44000000000005, .setshape ⟨1, 0, 0, 0, 5⟩),
   (0xB8B201300000000, .widf ⟨2, 0x32, 0, 0x13, 0⟩),
   (0xC14024000000000, .br ⟨5, 0, 9, 0, 0⟩),
   (0xC7C00003F63AF84, .bri ⟨15, 0, 0, 0, 0x3f63af84⟩)]
theorem test_words_s3 : (words_s3.all fun p => decodeSlot .s p.1 == some p.2 && p.2.wf) = true := by decide +kernel

def words_s4 : List (Nat × Instr) :=
  [(0xCA9A000EAB477D3, .call ⟨10, 0x1a, 0, 0, 0xeab477d3⟩),
   (0xCE8018000000000, .ret ⟨10, 0, 6, 0, 0⟩),
   (0xD08074000ABCDEF, .loop ⟨2, 0, 0x1d, 0, 0xabcdef⟩),
   (0xDAA400000000002, .timer ⟨10, 0x24, 0, 0, 2⟩),
   (0xF17900000000560, .sysrd ⟨5, 0x39, 0, 0, 0x560⟩),
   (0xF480D4000000560, .syswr ⟨2, 0, 0x35, 0, 0x560⟩)]
theorem test_words_s4 : (words_s4.all fun p => decodeSlot .s p.1 == some p.2 && p.2.wf) = true := by decide +kernel

def words_va1 : List (Nat × Instr) :=
  [(0x06B754674760008, .vadd ⟨false, 10, 0x6ea, 0x467, 0x23b, 0, 2, 0⟩),
   (0x0BDA9FE55BE0008, .vsub ⟨false, 15, 0x353, 0x7e5, 0x2df, 0, 2, 0⟩),
   (0x0FF89B0CF540008, .vmul ⟨false, 15, 0x713, 0x30c, 0x7aa, 0, 2, 0⟩),
   (0x1089B0AA2D24D90, .vfma ⟨false, 2, 0x136, 0xaa, 0x169, 0x136, 4, 0⟩),
   (0x17CEF0197C5A9E8, .vfms ⟨false, 15, 0x1de, 0x19, 0x3e2, 0x6a7, 0xa, 0⟩),
   (0x1890DA420124ADC, .vfnma ⟨false, 2, 0x21b, 0x242, 9, 0x12b, 7, 0⟩),
   (0x1F97ACE19100008, .vmin ⟨false, 14, 0x2f5, 0x4e1, 0x488, 0, 2, 0⟩),
   (0x217D0102B0E0008, .vmax ⟨false, 5, 0x7a0, 0x102, 0x587, 0, 2, 0⟩),
   (0x27BCDCF10000020, .vabs ⟨false, 14, 0x79b, 0x4f1, 0, 0, 8, 0⟩),
   (0x2BEB4DEC0000020, .vneg ⟨false, 15, 0x569, 0x5ec, 0, 0, 8, 0⟩),
   (0x2C405BA8E66C16C, .vcmp ⟨false, 1, 0xb, 0x3a8, 0x733, 0x305, 0xb, 0⟩),
   (0x33F31C7A6480310, .vsel ⟨false, 15, 0x663, 0x47a, 0x324, 0xc, 4, 0⟩),
   (0x369993281AA0008, .vand ⟨false, 10, 0x332, 0x328, 0xd5, 0, 2, 0⟩),
   (0x3AA8A3351000008, .vor ⟨false, 10, 0x514, 0x335, 0x80, 0, 2, 0⟩),
   (0x3C8457E13580008, .vxor ⟨false, 2, 0x8a, 0x7e1, 0x1ac, 0, 2, 0⟩),
   (0x428A68E20000020, .vnot ⟨false, 10, 0x14d, 0xe2, 0, 0, 8, 0⟩)]
theorem test_words_va1 : (words_va1.all fun p => decodeSlot .va p.1 == some p.2 && p.2.wf) = true := by decide +kernel

def words_va2 : List (Nat × Instr) :=
  [(0x4566786C1A4001C, .vshl ⟨false, 5, 0x4cf, 0x6c, 0xd2, 0, 7, 0⟩),
   (0x48644936896001C, .vshr ⟨false, 1, 0x489, 0x136, 0x44b, 0, 7, 0⟩),
   (0x4C7CC2E99D2001C, .vsha ⟨false, 1, 0x798, 0x2e9, 0x4e9, 0, 7, 0⟩),
   (0x50448EFF0134B2C, .vcvt ⟨false, 1, 0x91, 0x6ff, 9, 0x52c, 0xb, 0⟩),
   (0x54A753032620000, .vscale ⟨false, 2, 0x4ea, 0x303, 0x131, 0, 0, 0⟩),
   (0x5BD02FA5001802C, .vclass ⟨false, 15, 0x205, 0x7a5, 0, 0x600, 0xb, 0⟩),
   (0x5D6692EA0C60014, .vbcast ⟨false, 5, 0x4d2, 0x2ea, 0x63, 0, 5, 0⟩),
   (0x6287E0ED0000020, .vmov ⟨false, 10, 0xfc, 0xed, 0, 0, 8, 0⟩),
   (0x66BF97D3776001C, .vmulhi ⟨false, 10, 0x7f2, 0x7d3, 0x3bb, 0, 7, 0⟩),
   (0x6A9EFA7F000140C, .vsat ⟨false, 10, 0x3df, 0x27f, 0, 0x50, 3, 0⟩),
   (0x6C4940D2C000028, .vhash ⟨false, 1, 0x128, 0xd2, 0x600, 0, 0xa, 0⟩),
   (0x714075ED001802C, .vfinite ⟨false, 5, 0xe, 0x5ed, 0, 0x600, 0xb, 0⟩),
   (0x755EAEA20000024, .viota ⟨false, 5, 0x3d5, 0x6a2, 0, 0, 9, 0⟩),
   (0x7BC0494B0000000, .vkmov ⟨false, 15, 9, 0x14b, 0, 0, 0, 0⟩),
   (0x838181A5F380008, .vdiv ⟨false, 14, 0x30, 0x1a5, 0x79c, 0, 2, 0⟩),
   (0x8797292D0000004, .vsqrt ⟨false, 14, 0x2e5, 0x12d, 0, 0, 1, 0⟩)]
theorem test_words_va2 : (words_va2.all fun p => decodeSlot .va p.1 == some p.2 && p.2.wf) = true := by decide +kernel

def words_va3 : List (Nat × Instr) :=
  [(0x8BE2CF510000004, .vrsqrt ⟨false, 15, 0x459, 0x751, 0, 0, 1, 0⟩),
   (0x8C708C3A0000004, .vrcp ⟨false, 1, 0x611, 0x43a, 0, 0, 1, 0⟩),
   (0x917EA5250000004, .vexp2 ⟨false, 5, 0x7d4, 0x525, 0, 0, 1, 0⟩),
   (0x946C96C40000004, .vlog2 ⟨false, 1, 0x592, 0x6c4, 0, 0, 1, 0⟩),
   (0x996132F00000004, .vtanh ⟨false, 5, 0x426, 0x2f0, 0, 0, 1, 0⟩),
   (0x9C96CE2D3920008, .vperm ⟨false, 2, 0x2d9, 0x62d, 0x1c9, 0, 2, 0⟩),
   (0xA3A2B63C0000020, .vtrans ⟨false, 14, 0x456, 0x63c, 0, 0, 8, 0⟩),
   (0xA79525180080018, .vrowred ⟨false, 14, 0x2a4, 0x518, 4, 0, 6, 0⟩),
   (0xA8A7467E0080018, .vcolred ⟨false, 2, 0x4e8, 0x67e, 4, 0, 6, 0⟩),
   (0xACB399EB0080018, .vallred ⟨false, 2, 0x673, 0x1eb, 4, 0, 6, 0⟩),
   (0xB2AF666E1900014, .vrot ⟨false, 10, 0x5ec, 0x66e, 0xc8, 0, 5, 0⟩),
   (0xB48CD4252AA0304, .vpack ⟨false, 2, 0x19a, 0x425, 0x155, 0xc, 1, 0⟩),
   (0xBA96CDDA00004C0, .vunpack ⟨false, 10, 0x2d9, 0x5da, 0, 0x13, 0, 0⟩),
   (0xBC412FEB1FE0020, .vlaneget ⟨false, 1, 0x25, 0x7eb, 0xff, 0, 8, 0⟩)]
theorem test_words_va3 : (words_va3.all fun p => decodeSlot .va p.1 == some p.2 && p.2.wf) = true := by decide +kernel

def words_mx1 : List (Nat × Instr) :=
  [(0x0443ACBAE000000, .cube ⟨1, 0, 0x3a, 0xcb, 5, 3, 2, 0⟩),
   (0x094000000000000, .mresume ⟨5, 0, 0⟩),
   (0x0A8000000000001, .mresumeAbandon ⟨10, 0, 1⟩),
   (0x0D4C6E000000000, .mpusha ⟨5, 0x18d, 6, 0⟩),
   (0x13BD3B000000000, .mpushb ⟨14, 0x7a7, 3, 0⟩),
   (0x16839F666000000, .mstep ⟨10, 0, 1, 0xcf, 5, 4, 6, 3, 0⟩),
   (0x19452A071EB9800, .mdrain ⟨5, 0xa5, 4, 0, 0xe, 0x1e, 0xb, 4, 1, 4, 0⟩),
   (0x1D5000000007B90, .mzero ⟨5, 4, 0, 0, 0x7b90⟩),
   (0x23BF1734A460000, .mouter ⟨14, 0x7e2, 0x734, 0xa, 0, 8, 1, 1, 0⟩),
   (0x27D60873D380000, .mrdacc ⟨15, 0x2c1, 0, 1, 0x67, 0x53, 1, 0⟩),
   (0x2BC7B7996598000, .mwracc ⟨15, 0xf6, 0xf, 0, 0x32, 0x65, 1, 3, 0⟩),
   (0x2EB8E96E7C00000, .mscacc ⟨10, 0x71d, 0x16e, 7, 1, 1, 0⟩),
   (0x33DC00000000000, .mrenorm ⟨15, 7, 0, 0⟩),
   (0x369AC0000000000, .mexp ⟨10, 0x1a, 0xc, 0, 0, 0, 0⟩),
   (0x34400EF00000000, .mexpW ⟨1, 0, 0, 1, 1, 0x2f, 0⟩),
   (0x389120000000000, .mfmt ⟨2, 2, 9, 0⟩)]
theorem test_words_mx1 : (words_mx1.all fun p => decodeSlot .mx p.1 == some p.2 && p.2.wf) = true := by decide +kernel

def words_mx2 : List (Nat × Instr) :=
  [(0x3C4A80000000000, .mprog ⟨1, 0xa, 2, 0⟩)]
theorem test_words_mx2 : (words_mx2.all fun p => decodeSlot .mx p.1 == some p.2 && p.2.wf) = true := by decide +kernel

def words_ld : List (Nat × Instr) :=
  [(0x07BAF69502256BB, .ldg ⟨14, 0x1d, 0x1e, 0x34, 0x2a0, 2, 0x256bb⟩),
   (0x0BB73FEF36A842C, .ldgv ⟨14, 0x1b, 0x27, 0x3f, 0x1e6, 6, 0xa842c⟩),
   (0x0D4B2463A581E00, .ldgx ⟨5, 5, 0x24, 0x463, 2, 1, 1, 3, 0xf, 0⟩),
   (0x13EA3C5802EF021, .ldv ⟨15, 0x15, 7, 0x22, 0x300, 2, 0xef021⟩),
   (0x149DC1BA76DFB86, .ldvv ⟨2, 0xe, 0x38, 0xd, 0x34e, 6, 0xdfb86⟩),
   (0x188289C963804C3, .ldvs ⟨2, 1, 0x11, 0xe, 0x12c, 3, 0x804c3⟩),
   (0x1CB3329CB5B5C00, .ldvx ⟨2, 0x19, 0x26, 0x29c, 2, 1, 5, 3, 0x1ae, 0⟩),
   (0x20843777B15A91A, .wld ⟨2, 2, 6, 0x3b, 0x2f6, 1, 0x5a91a⟩),
   (0x26AC2CDA1CE7800, .wldv ⟨10, 0x16, 5, 0x26, 0x343, 4, 0xe7800⟩),
   (0x2B9DAF7C23806C2, .lda ⟨14, 0xe, 0x35, 0x3b, 0x384, 3, 0x806c2⟩),
   (0x2C9B19400386049, .ldk ⟨2, 0xd, 0x23, 0xa, 0, 3, 0x86049⟩),
   (0x33813F1005C6C92, .dld ⟨14, 0x27, 0x38, 1, 0, 5, 0xc6c92⟩)]
theorem test_words_ld : (words_ld.all fun p => decodeSlot .ld p.1 == some p.2 && p.2.wf) = true := by decide +kernel

def words_st : List (Nat × Instr) :=
  [(0x04AB04E083C6AA8, .stg ⟨2, 0x560, 0x27, 1, 0, 3, 0xc6aa8⟩),
   (0x088B094F859E7D7, .stgv ⟨2, 0x161, 0xa, 0x1f, 0, 5, 0x9e7d7⟩),
   (0x0FC7BC81FEE6000, .stgx ⟨15, 0xf7, 0x24, 0x7f, 2, 1, 6, 3, 0⟩),
   (0x13AB0452037B845, .stv ⟨14, 0x560, 0x22, 0x24, 0, 3, 0x7b845⟩),
   (0x14788C82053F9D6, .stvv ⟨1, 0x711, 0x24, 4, 0, 5, 0x3f9d6⟩),
   (0x1891C079031905E, .stvs ⟨2, 0x238, 3, 0x32, 0, 3, 0x1905e⟩),
   (0x1F9CFC80EAC6000, .stvx ⟨14, 0x39f, 0x24, 0x3a, 2, 1, 4, 3, 0⟩),
   (0x216B051F83816BF, .stl ⟨5, 0x560, 0x28, 0x3f, 0, 3, 0x816bf⟩),
   (0x27B4042683B156E, .stk ⟨14, 0x680, 0x21, 0xd, 0, 3, 0xb156e⟩),
   (0x295CFC300581FC1, .dst ⟨5, 0x39f, 0x21, 1, 0, 5, 0x81fc1⟩)]
theorem test_words_st : (words_st.all fun p => decodeSlot .st p.1 == some p.2 && p.2.wf) = true := by decide +kernel

def words_ce : List (Nat × Instr) :=
  [(0x04B8B900000000D, .cebase ⟨2, 3, 0x22, 0x39, 0, 0xd⟩),
   (0x097EBD340000005, .celvl ⟨5, 3, 0x3a, 0x3d, 0xd, 5⟩),
   (0x0E96C0007C8A775, .celen ⟨10, 1, 0x1b, 0, 0, 0x7c8a775⟩),
   (0x12A540000000007, .cego ⟨10, 2, 0x15, 0, 0, 7⟩),
   (0x147400000000005, .ceidx ⟨1, 3, 0x10, 0, 0, 5⟩),
   (0x1A9369FC0000000, .ceidxv ⟨10, 1, 0x1b4, 3, 1, 7, 0x40, 0⟩),
   (0x1C5000000000000, .ceidxend ⟨1, 1, 0, 0, 0, 0⟩),
   (0x23FAC0000000011, .cestat ⟨15, 3, 0x2b, 0, 0, 0x11⟩),
   (0x255000000000000, .cecancel ⟨5, 1, 0, 0, 0, 0⟩),
   (0x295000000000000, .ceresume ⟨5, 1, 0, 0, 0, 0⟩),
   (0x2E9C3D00000017F, .cefab ⟨10, 1, 0x30, 0x3d, 0, 0x17f⟩)]
theorem test_words_ce : (words_ce.all fun p => decodeSlot .ce p.1 == some p.2 && p.2.wf) = true := by decide +kernel

def words_sy1 : List (Nat × Instr) :=
  [(0x045AE6000000000, .fork ⟨1, 0x1a, 0x39, 0x20, 0⟩),
   (0x08AB00000000000, .join ⟨2, 0x2b, 0, 0, 0⟩),
   (0x088B00080ABCDEF, .joinPark ⟨2, 0xb, 0, 0, 0x80abcdef⟩),
   (0x0FC000000000000, .exit ⟨15, 0, 0, 0, 0⟩),
   (0x128000000ABCDEF, .yield ⟨10, 0, 0, 0, 0xabcdef⟩),
   (0x178000000ABCDEF, .ckpt ⟨14, 0, 0, 0, 0xabcdef⟩),
   (0x1A966CD0000000B, .spawn ⟨10, 0x16, 0x1b, 0xd, 0xb⟩),
   (0x1D5518000000000, .kill ⟨5, 0x15, 6, 0, 0⟩),
   (0x1FD808000000001, .killL ⟨15, 0x18, 2, 0, 1⟩),
   (0x416479D1B401BA9, .binit ⟨5, 0x24, 0x1e, 0x1d, 0, 0, 1, 0xb401ba9⟩),
   (0x4459580184768B9, .barr ⟨1, 0x19, 0x16, 0, 0, 0, 1, 0x84768b9⟩),
   (0x4B804E11F5F554F, .bwait ⟨14, 0, 0x13, 0x21, 0, 0, 1, 0xf5f554f⟩),
   (0x4C57E2000000000, .cewait ⟨1, 1, 0, 0x7e2, 0⟩),
   (0x508000000000004, .fence ⟨2, 0, 0, 0, 4⟩),
   (0x54464400000006B, .gred ⟨1, 6, 0x11, 0, 0x6b⟩),
   (0x6143EB2DD1DCEC6, .aadd ⟨5, 3, 0x3a, 0x32, 1, 2, 1, 0xd1dcec6⟩)]
theorem test_words_sy1 : (words_sy1.all fun p => decodeSlot .sy p.1 == some p.2 && p.2.wf) = true := by decide +kernel

def words_sy2 : List (Nat × Instr) :=
  [(0x66B7EECD895E8B7, .amin ⟨10, 0x37, 0x3b, 0x2c, 1, 2, 1, 0x895e8b7⟩),
   (0x6BA582DB0EBA0EB, .amax ⟨14, 0x25, 0x20, 0x2d, 1, 1, 1, 0xeba0eb⟩),
   (0x6FCC73ADA26AA0B, .aand ⟨15, 0xc, 0x1c, 0x3a, 1, 2, 1, 0xa26aa0b⟩),
   (0x7074446BDCDED21, .aor ⟨1, 0x34, 0x11, 6, 1, 1, 1, 0xdcded21⟩),
   (0x745E056D0B0F874, .axor ⟨1, 0x1e, 1, 0x16, 1, 2, 1, 0xb0f874⟩),
   (0x7BAE43DB0CE5AF7, .aswp ⟨14, 0x2e, 0x10, 0x3d, 1, 1, 1, 0xce5af7⟩),
   (0x7C8DF14F4A3ADFA, .acas ⟨2, 0xd, 0x3c, 0x14, 1, 3, 1, 0x4a3adfa⟩),
   (0x82A00D613028000, .vaadd ⟨10, 0x401, 0x561, 0xc, 0, 2, 1, 0⟩),
   (0x857370264648000, .vaor ⟨5, 0x66e, 0x26, 0x11, 9, 0, 1, 0⟩),
   (0x904000000000001, .dmode ⟨1, 0, 0, 0, 1⟩),
   (0x946F84000000006, .dreg ⟨1, 0x2f, 0x21, 0, 6⟩),
   (0x9B80FC000000000, .tapemk ⟨14, 0, 0x3f, 0, 0⟩),
   (0xA0A17C000000000, .tune ⟨2, 0x21, 0x1f, 0, 0⟩),
   (0xA4BC74000000000, .clkdiv ⟨2, 0x3c, 0x1d, 0, 0⟩),
   (0xA86B00000000000, .ballastOff ⟨1, 0x2b, 0, 0, 0⟩),
   (0xABDCAC000000001, .ballastLevel ⟨15, 0x1c, 0x2b, 0, 1⟩)]
theorem test_words_sy2 : (words_sy2.all fun p => decodeSlot .sy p.1 == some p.2 && p.2.wf) = true := by decide +kernel

def words_sy3 : List (Nat × Instr) :=
  [(0xAAA300000000002, .ballastAuto ⟨10, 0x23, 0, 0, 2⟩),
   (0xC2800000000ABCD, .trap ⟨10, 0, 0, 0, 0xabcd⟩),
   (0xC78000000000000, .eret ⟨14, 0, 0, 0, 0⟩),
   (0xC96900000000000, .statq ⟨5, 0x29, 0, 0, 0⟩),
   (0xCFCEFC000000002, .waitt ⟨15, 0xe, 0x3f, 0, 2⟩),
   (0xD0963760000ABCD, .event ⟨2, 0x16, 0xd, 0x36, 0xabcd⟩),
   (0xD7EF0000000002B, .steptag ⟨15, 0x2f, 0, 0, 0x2b⟩),
   (0xD7C96800000012B, .steptagW ⟨15, 9, 0x1a, 0, 0x12b⟩)]
theorem test_words_sy3 : (words_sy3.all fun p => decodeSlot .sy p.1 == some p.2 && p.2.wf) = true := by decide +kernel

/-! Encodings that are no instruction (R75): a term for each check of `Instr.wf`, and opcodes that no slot has. -/

def badS : List Instr :=
  [.add ⟨0, 1, 2, 3, 1⟩, .maxn ⟨0, 1, 2, 3, 0x80000000⟩, .clz ⟨0, 1, 2, 3, 0⟩, .popc ⟨0, 1, 2, 0, 1⟩, .sel ⟨0, 1, 2, 3, 16⟩,
    .addi ⟨0, 1, 2, 1, 0⟩, .movhi ⟨0, 1, 2, 32, 0⟩, .shli ⟨0, 1, 2, 0, 64⟩, .roti ⟨0, 1, 2, 1, 0⟩, .movi ⟨0, 1, 1, 0, 0⟩,
    .movi ⟨0, 1, 0, 1, 0⟩, .bfx ⟨0, 1, 2, 0, 0x1F22⟩, .bfx ⟨0, 1, 2, 0, 0x40⟩, .bfx ⟨0, 1, 2, 0, 0x4000⟩,
    .bfx ⟨0, 1, 2, 0, 0x20000⟩, .bfi ⟨0, 1, 2, 0, 0x10000⟩, .bfx ⟨0, 1, 2, 1, 0⟩, .cmp ⟨0, 1, 10, 2, 0⟩, .cmp ⟨0, 1, 0, 2, 1⟩]
def badS2 : List Instr :=
  [.cmpi ⟨0, 1, 10, 2, 0⟩, .fcmp ⟨0, 1, 8, 2, 0⟩, .fcmp ⟨0, 1, 0, 2, 0x20000000⟩, .fadd ⟨0, 1, 2, 3, 3⟩, .fmul ⟨0, 1, 2, 3, 16⟩,
    .ffma ⟨0, 1, 2, 3, 0x400⟩, .ffma ⟨0, 1, 2, 3, 3⟩, .fcvt ⟨0, 1, 2, 1, 0⟩, .fcvt ⟨0, 1, 2, 0, 0xB⟩, .fcvt ⟨0, 1, 2, 0, 0xB0⟩,
    .fcvt ⟨0, 1, 2, 0, 0x200⟩, .kmov ⟨0, 16, 2, 0, 0⟩, .kmov ⟨0, 1, 2, 1, 0⟩, .kget ⟨0, 1, 16, 0, 0⟩, .kpopc ⟨0, 1, 2, 0, 1⟩,
    .setshape ⟨0, 0, 0, 0, 7⟩, .setshape ⟨0, 1, 0, 0, 0⟩, .widf ⟨0, 1, 0, 6, 0⟩, .widf ⟨0, 1, 0, 14, 0⟩, .widf ⟨0, 1, 0, 20, 0⟩,
    .widf ⟨0, 1, 1, 0, 0⟩, .br ⟨0, 1, 2, 0, 0⟩, .ret ⟨0, 0, 2, 1, 0⟩, .bri ⟨0, 1, 0, 0, 0⟩, .bri ⟨0, 0, 1, 0, 0⟩, .call ⟨0, 1, 0, 1, 0⟩,
    .loop ⟨0, 0, 3, 0, 0⟩, .loop ⟨0, 0, 3, 0, 0x1000000⟩, .loop ⟨0, 1, 3, 0, 1⟩, .timer ⟨0, 1, 0, 0, 3⟩, .timer ⟨0, 1, 2, 0, 0⟩,
    .sysrd ⟨0, 1, 0, 0, 0⟩, .sysrd ⟨0, 1, 0, 0, 0x1001⟩, .syswr ⟨0, 0, 1, 0, 0x006⟩, .syswr ⟨0, 1, 1, 0, 1⟩]
/-- Vector terms: a landing slot, scalar or constant field with other bits; types out of class; control words with unused bits; the
opcodes of VA alone in VB. -/
def badV : List Instr :=
  [.vadd ⟨false, 0, 1, 32, 3, 0, 0, 1⟩, .vadd ⟨false, 0, 1, 64, 3, 0, 0, 2⟩, .vadd ⟨false, 0, 1, 16, 3, 0, 0, 3⟩, .vadd ⟨false, 0, 1, 2, 3, 1, 0, 0⟩,
    .vadd ⟨false, 0, 1, 2, 3, 0, 11, 0⟩, .vfma ⟨false, 0, 1, 2, 3, 4, 12, 0⟩, .vabs ⟨false, 0, 1, 2, 1, 0, 0, 0⟩, .vnot ⟨true, 0, 1, 2, 0, 0, 11, 0⟩,
    .vcmp ⟨false, 0, 16, 2, 3, 0, 0, 0⟩, .vcmp ⟨false, 0, 1, 2, 3, 16, 0, 0⟩, .vcmp ⟨false, 0, 1, 2, 3, 6, 3, 0⟩, .vcmp ⟨false, 0, 1, 2, 3, 256, 0, 0⟩,
    .vcmp ⟨false, 0, 1, 2, 3, 0, 12, 0⟩, .vsel ⟨false, 0, 1, 2, 3, 16, 0, 0⟩, .vsel ⟨false, 0, 1, 2, 3, 0, 11, 0⟩, .vshl ⟨false, 0, 1, 2, 3, 0, 0, 0⟩,
    .vcvt ⟨false, 0, 1, 2, 16, 0, 0, 0⟩, .vcvt ⟨false, 0, 1, 2, 0, 5, 0, 0⟩, .vcvt ⟨false, 0, 1, 2, 2, 0x10, 0, 0⟩,
    .vcvt ⟨false, 0, 1, 2, 0, 0xB0, 11, 0⟩, .vcvt ⟨false, 0, 1, 2, 0, 0xC0, 0, 0⟩, .vcvt ⟨false, 0, 1, 2, 0, 0x100, 0, 0⟩,
    .vscale ⟨false, 0, 1, 2, 3, 0, 3, 0⟩, .vclass ⟨false, 0, 1, 2, 1, 0, 0, 0⟩, .vclass ⟨false, 0, 1, 2, 0, 1, 0, 0⟩, .vclass ⟨false, 0, 1, 2, 0, 0, 3, 0⟩,
    .vfinite ⟨false, 0, 16, 2, 0, 0, 0, 0⟩]
def badV2 : List Instr :=
  [.vbcast ⟨false, 0, 1, 2, 128, 0, 0, 0⟩, .vsat ⟨false, 0, 1, 2, 0, 1, 3, 0⟩, .vsat ⟨false, 0, 1, 2, 0, 0x30, 5, 0⟩, .vsat ⟨false, 0, 1, 2, 0, 0x30, 0, 0⟩,
    .vhash ⟨false, 0, 1, 2, 3, 0, 4, 0⟩, .viota ⟨false, 0, 1, 2, 0, 0, 0, 0⟩, .vkmov ⟨false, 0, 16, 2, 0, 0, 0, 0⟩, .vdiv ⟨true, 0, 1, 2, 3, 0, 0, 0⟩,
    .vsqrt ⟨false, 0, 1, 2, 0, 0, 3, 0⟩, .vtanh ⟨true, 0, 1, 2, 0, 0, 0, 0⟩, .vperm ⟨true, 0, 1, 2, 3, 0, 0, 0⟩, .vtrans ⟨true, 0, 1, 2, 0, 0, 0, 0⟩,
    .vrowred ⟨false, 0, 1, 2, 5, 0, 3, 0⟩, .vcolred ⟨false, 0, 1, 2, 3, 0, 0, 0⟩, .vallred ⟨true, 0, 1, 2, 0, 0, 0, 0⟩, .vrot ⟨false, 0, 1, 2, 64, 0, 0, 0⟩,
    .vpack ⟨false, 0, 1, 2, 3, 0x00, 0, 0⟩, .vpack ⟨true, 0, 1, 2, 3, 0x00, 1, 0⟩, .vunpack ⟨false, 0, 2047, 2, 0, 0x10, 0, 0⟩,
    .vunpack ⟨false, 0, 1, 2, 1, 0x10, 0, 0⟩, .vlaneget ⟨false, 0, 64, 2, 0, 0, 0, 0⟩, .vlaneget ⟨false, 0, 1, 2, 256, 0, 5, 0⟩]
def badMx : List Instr :=
  [.cube ⟨0, 1, 59, 1, 0, 0, 0, 0⟩, .cube ⟨0, 1, 2, 0, 0, 0, 0, 0⟩, .cube ⟨0, 1, 2, 1, 6, 0, 0, 0⟩, .cube ⟨0, 1, 2, 1, 0, 6, 0, 0⟩, .cube ⟨0, 1, 2, 1, 0, 0, 3, 0⟩,
    .cube ⟨0, 1, 2, 1, 0, 0, 2, 0⟩, .cube ⟨0, 1, 2, 1, 0, 0, 0, 1⟩, .mresume ⟨0, 1, 0⟩, .mresume ⟨0, 0, 1⟩, .mresumeAbandon ⟨0, 0, 0⟩, .mpusha ⟨0, 1, 2, 1⟩,
    .mpushb ⟨0, 1, 2, 1⟩, .mstep ⟨0, 1, 1, 1, 0, 0, 0, 0, 0⟩, .mstep ⟨0, 1, 0, 0, 0, 0, 0, 0, 0⟩, .mstep ⟨0, 1, 0, 1, 6, 0, 0, 0, 0⟩,
    .mdrain ⟨0, 1, 1, 0, 0, 0, 3, 0, 0, 0, 0⟩, .mdrain ⟨0, 1, 1, 0, 0, 0, 0, 1, 0, 0, 0⟩, .mdrain ⟨0, 1, 1, 0, 0, 0, 0, 0, 0, 5, 0⟩, .mzero ⟨0, 1, 1, 0, 0⟩,
    .mzero ⟨0, 1, 0, 1, 0⟩, .mouter ⟨0, 1, 2, 3, 0, 3, 0, 0, 0⟩, .mouter ⟨0, 1, 2, 3, 0, 1, 1, 0, 0⟩, .mouter ⟨0, 1, 2, 3, 0, 2, 0, 1, 0⟩,
    .mrdacc ⟨0, 1, 2, 1, 0, 0, 0, 0⟩, .mwracc ⟨0, 1, 2, 0, 0, 0, 0, 4, 0⟩, .mscacc ⟨0, 1, 2, 3, 0, 0, 1⟩, .mrenorm ⟨0, 2, 1, 0⟩, .mexp ⟨0, 1, 2, 0, 0, 1, 0⟩,
    .mexp ⟨0, 1, 2, 0, 1, 0, 0⟩, .mexpW ⟨0, 1, 2, 0, 1, 3, 0⟩, .mexpW ⟨0, 0, 2, 0, 0, 3, 0⟩, .mfmt ⟨0, 1, 2, 1⟩, .mprog ⟨0, 1, 3, 0⟩]
def badMem : List Instr :=
  [.ldg ⟨0, 1, 2, 3, 0, 4, 0⟩, .ldv ⟨0, 1, 2, 3, 0, 7, 0⟩, .ldgv ⟨0, 1, 2, 3, 0, 3, 0⟩, .ldvv ⟨0, 1, 2, 3, 0, 7, 0⟩, .ldgx ⟨0, 1, 2, 3, 0, 0, 0, 4, 0, 0⟩,
    .ldgx ⟨0, 1, 2, 3, 3, 0, 0, 2, 0, 0⟩, .ldvx ⟨0, 1, 2, 3, 0, 0, 0, 0, 0, 1⟩, .ldvs ⟨0, 1, 2, 3, 0, 0, 0⟩, .wld ⟨0, 1, 8, 3, 0, 0, 0⟩, .wld ⟨0, 1, 7, 3, 0, 4, 0⟩,
    .wldv ⟨0, 1, 7, 3, 0, 3, 0⟩, .wldv ⟨0, 1, 8, 3, 0, 4, 0⟩, .lda ⟨0, 1, 2, 3, 0, 1, 0⟩, .ldk ⟨0, 1, 2, 3, 0, 2, 0⟩, .ldk ⟨0, 16, 2, 3, 0, 3, 0⟩,
    .ldk ⟨0, 1, 2, 3, 1, 3, 0⟩, .dld ⟨0, 1, 2, 0, 1, 2, 0⟩, .dst ⟨0, 1, 2, 0, 0, 1, 0⟩, .stg ⟨0, 33, 2, 3, 0, 0, 0⟩, .stv ⟨0, 32, 2, 3, 0, 4, 0⟩,
    .stg ⟨0, 32, 2, 3, 1, 0, 0⟩, .stgv ⟨0, 1, 2, 3, 0, 3, 0⟩, .stvv ⟨0, 1, 2, 3, 0, 7, 0⟩, .stgx ⟨0, 1, 2, 3, 0, 0, 0, 4, 0⟩, .stvx ⟨0, 1, 2, 3, 0, 0, 0, 0, 1⟩,
    .stvs ⟨0, 1, 2, 3, 0, 0, 0⟩, .stl ⟨0, 32, 2, 3, 0, 1, 0⟩, .stl ⟨0, 33, 2, 3, 0, 2, 0⟩, .stk ⟨0, 128, 2, 3, 0, 2, 0⟩, .stk ⟨0, 129, 2, 3, 0, 3, 0⟩]
def badCe : List Instr :=
  [.cebase ⟨0, 1, 2, 3, 4, 0⟩, .cebase ⟨0, 1, 2, 3, 0, 6⟩, .cebase ⟨0, 1, 2, 3, 0, 16⟩, .celvl ⟨0, 1, 2, 3, 4, 6⟩, .celvl ⟨0, 1, 2, 3, 4, 8⟩, .celen ⟨0, 1, 2, 3, 0, 0⟩,
    .cego ⟨0, 1, 2, 0, 0, 0⟩, .cego ⟨0, 1, 2, 0, 0, 8⟩, .ceidx ⟨0, 1, 2, 3, 0, 0⟩, .ceidx ⟨0, 1, 2, 0, 0, 8⟩, .ceidxv ⟨0, 1, 2, 0, 0, 0, 0, 0⟩,
    .ceidxv ⟨0, 1, 2, 0, 0, 0, 65, 0⟩, .ceidxv ⟨0, 1, 2, 0, 0, 0, 1, 1⟩, .ceidxend ⟨0, 1, 2, 0, 0, 0⟩, .cecancel ⟨0, 1, 0, 0, 0, 1⟩, .ceresume ⟨0, 1, 0, 1, 0, 0⟩,
    .cestat ⟨0, 1, 2, 0, 0, 18⟩, .cestat ⟨0, 1, 2, 0, 0, 32⟩, .cefab ⟨0, 1, 2, 3, 1, 0⟩, .cefab ⟨0, 1, 2, 3, 0, 0x180⟩, .cefab ⟨0, 1, 2, 3, 0, 0x200⟩]
def badSy : List Instr :=
  [.fork ⟨0, 1, 2, 3, 1⟩, .join ⟨0, 1, 1, 0, 0⟩, .join ⟨0, 1, 0, 0, 1⟩, .joinPark ⟨0, 1, 0, 0, 0x81000000⟩, .exit ⟨0, 0, 0, 0, 1⟩, .eret ⟨0, 1, 0, 0, 0⟩,
    .yield ⟨0, 0, 0, 0, 0x1000000⟩, .ckpt ⟨0, 0, 1, 0, 0⟩, .spawn ⟨0, 1, 2, 3, 16⟩, .kill ⟨0, 1, 2, 1, 0⟩, .kill ⟨0, 1, 2, 0, 2⟩, .killL ⟨0, 1, 2, 0, 0⟩,
    .binit ⟨0, 1, 2, 3, 1, 0, 1, 0⟩, .barr ⟨0, 1, 2, 3, 0, 0, 1, 0⟩, .bwait ⟨0, 1, 2, 3, 0, 0, 1, 0⟩, .bwait ⟨0, 0, 2, 3, 0, 1, 1, 0⟩, .binit ⟨0, 1, 2, 3, 0, 0, 0, 0⟩,
    .cewait ⟨0, 1, 1, 9, 0⟩, .cewait ⟨0, 1, 0, 9, 1⟩, .fence ⟨0, 0, 0, 0, 5⟩, .fence ⟨0, 1, 0, 0, 0⟩, .gred ⟨0, 1, 2, 3, 0⟩, .gred ⟨0, 1, 2, 0, 5⟩, .gred ⟨0, 1, 2, 0, 0x70⟩,
    .gred ⟨0, 1, 2, 0, 0x80⟩, .gred ⟨0, 1, 2, 0, 8⟩]
def badSy2 : List Instr :=
  [.vaadd ⟨0, 1, 2, 3, 4, 0, 1, 0⟩, .vaadd ⟨0, 1, 2, 3, 0, 1, 1, 0⟩, .vaor ⟨0, 1, 2, 3, 0, 0, 1, 0⟩, .vaor ⟨0, 1, 2, 3, 3, 0, 1, 1⟩,
    .dmode ⟨0, 0, 0, 0, 2⟩, .dreg ⟨0, 1, 2, 0, 8⟩, .dreg ⟨0, 1, 2, 3, 0⟩, .tapemk ⟨0, 0, 2, 0, 1⟩, .tune ⟨0, 1, 2, 3, 0⟩, .clkdiv ⟨0, 1, 2, 0, 1⟩,
    .ballastOff ⟨0, 1, 2, 0, 0⟩, .ballastLevel ⟨0, 1, 2, 0, 0⟩, .ballastAuto ⟨0, 1, 0, 0, 3⟩, .trap ⟨0, 0, 0, 0, 0x10000⟩, .statq ⟨0, 63, 0, 0, 0⟩,
    .statq ⟨0, 1, 0, 0, 1⟩, .waitt ⟨0, 1, 2, 0, 0⟩, .waitt ⟨0, 1, 2, 0, 3⟩, .event ⟨0, 1, 2, 3, 0x10000⟩, .steptag ⟨0, 1, 2, 0, 0⟩, .steptag ⟨0, 1, 0, 0, 64⟩,
    .steptagW ⟨0, 1, 2, 0, 0x200⟩]
theorem test_wf_scalar : ((badS ++ badS2).all fun i => !i.wf) = true := by decide +kernel
theorem test_wf_vector : ((badV ++ badV2).all fun i => !i.wf) = true := by decide +kernel
theorem test_wf_matrix : (badMx.all fun i => !i.wf) = true := by decide +kernel
theorem test_wf_memory : (badMem.all fun i => !i.wf) = true := by decide +kernel
theorem test_wf_copy : (badCe.all fun i => !i.wf) = true := by decide +kernel
theorem test_wf_sync : ((badSy ++ badSy2).all fun i => !i.wf) = true := by decide +kernel

/-- Steps of units that there are not. -/
theorem test_wf_steps :
  (([.bundleIssue 96 0, .contextTakeWork 0 2, .coreCycle 96, .copyIteration 0 4, .copyIteration 96 0, .patrolScrub 96 0, .patrolScrub 0 0x800000, .tlbFill 24,
    .clusterFail 24 0, .sampleBoundary 4, .rstStack 4, .lqEntryRead 16, .featEnWrite 4 0, .pkgRootWrite 64 0, .grpGo 16, .rankUpdOne 1024, .rwBind 64,
    .gangAdmit 256] : List Instr).all fun i => !i.wf) = true := by decide +kernel

/-- Opcodes that no table gives, 0x2F of S, 0x1F and 0x30 of VA, 0x1F of VB, 0x10 of MX, 0x0D of LD, 0x0B of ST, 0x0C of CE, 0x08 of SY, and header bits 31:29. -/
theorem test_opcodes_refused :
    ([(Slot.s, 0x2F), (.s, 0x35), (.s, 0x3E), (.va, 0x1F), (.va, 0x30), (.vb, 0x1F), (.mx, 0x10), (.ld, 0x0D), (.st, 0x0B), (.ce, 0x0C), (.sy, 0x08),
      (.sy, 0x16), (.sy, 0x36)].all fun p => decodeSlot p.1 (p.2 * 2 ^ 54) == none) = true
      ∧ decodeBundle (2 ^ 31) = .error .illb ∧ decodeBundle 0 = .ok (Bundle.single .s (.nop .s)) := by decide +kernel
/-! Steps on small states: results from the manual's examples, or by hand from its rules. -/

/-- What an outcome's next state says. -/
def after (r : Host.Outcome State Fault Refusal) (f : State → α) : Option α :=
  match r with
  | .next t => some (f t)
  | _ => none
/-- The results that the context next has pending, with their values. -/
def results (i : Instr) (s : State) : Option (List (Dst × Nat)) :=
  after (exec i s) fun t => t.here.pend.map fun p => (p.dst, p.val.toNat)
/-- A register's value after an instruction whose result lands at once. -/
def sAfter (i : Instr) (s : State) (r : BitVec 6) : Option Nat := after (exec i s) fun t => (t.here.rs r).toNat
def kAfter (i : Instr) (s : State) (r : BitVec 4) : Option (BitVec 64) := after (exec i s) fun t => t.here.rk r
def sregs (l : List (Nat × BitVec 64)) : State := baseWith fun k => { k with s := l }
def vregs (l : List (Nat × List Nat)) : State := baseWith fun k => { k with v := l.map fun p => (p.1, joinElems 32 p.2) }

/-- Example (borderline scalar results) after R168. -/
theorem test_div_min : results (.div ⟨0, 4, 5, 6, 0⟩) (sregs [(5, 0x8000000000000000), (6, -1)]) = some [(.s 4, 0x8000000000000000)] := by
  decide +kernel
theorem test_div_zero : results (.div ⟨0, 4, 5, 6, 0⟩) (sregs [(5, -7)]) = some [(.s 4, 0xFFFFFFFFFFFFFFFF)]
    ∧ after (exec (.div ⟨0, 4, 5, 6, 0⟩) (sregs [(5, -7)])) (fun t => t.here.stat) ≠ some base.here.stat := by decide +kernel
theorem test_rem_sign : results (.rem ⟨0, 4, 5, 6, 0⟩) (sregs [(5, -7), (6, 2)]) = some [(.s 4, 0xFFFFFFFFFFFFFFFF)] := by decide +kernel
theorem test_divn_zero : results (.divn ⟨0, 4, 5, 0, 0⟩) base = some [(.s 4, 0xFFFFFFFFFFFFFFFF)] := by decide +kernel
theorem test_shl_modulo : sAfter (.shl ⟨0, 4, 5, 6, 0⟩) (sregs [(5, 1), (6, 70)]) 4 = some 0x40 := by decide +kernel
theorem test_cmp_signed : kAfter (.cmp ⟨0, 2, 2, 5, 6 * 2 ^ 30⟩) (sregs [(5, -1), (6, 1)]) 2 = some (-1) := by decide +kernel
theorem test_cmp_unsigned : kAfter (.cmp ⟨0, 2, 6, 5, 6 * 2 ^ 30⟩) (sregs [(5, -1), (6, 1)]) 2 = some 0 := by decide +kernel
theorem test_fcvt_clamp : results (.fcvt ⟨0, 4, 5, 0, 0x103⟩) (sregs [(5, 0x4F32D05E)]) = some [(.s 4, 0x7FFFFFFF)] := by decide +kernel
theorem test_fadd_overflow : results (.fadd ⟨0, 4, 5, 6, 2⟩) (sregs [(5, 0x7F7F), (6, 0x7F7F)]) = some [(.s 4, 0x7F80)] := by decide +kernel

/-- R157: the high halves of −2 × 5 signed, 10 below 2^128 unsigned; leading zeros of 5. -/
theorem test_mulh : results (.mulh ⟨0, 9, 5, 3, 0⟩) base = some [(.s 9, 2 ^ 64 - 1)] := by decide +kernel
theorem test_mulhn : results (.mulhn ⟨0, 9, 5, 3, 0⟩) base = some [(.s 9, 4)] := by decide +kernel
theorem test_clz : sAfter (.clz ⟨0, 9, 3, 0, 0⟩) base 9 = some 61 := by decide +kernel
/-- R159: bits 11:4 of 0xFF0, sign-extended; s3 = 5 with its bits 9:2 replaced by 0xFE. -/
theorem test_bfx_signed : sAfter (.bfx ⟨0, 9, 10, 0, 0x10704⟩) (sregs [(10, 0xFF0)]) 9 = some (2 ^ 64 - 1) := by decide +kernel
theorem test_bfi : sAfter (.bfi ⟨0, 3, 5, 0, 0x702⟩) base 3 = some 0x3F9 := by decide +kernel
theorem test_movhi : sAfter (.movhi ⟨0, 9, 5, 0, 0x12345678⟩) base 9 = some 0x12345678FFFFFFFE := by decide +kernel
/-- R51: s0 discards a write. -/
theorem test_s0_discards : after (exec (.addi ⟨0, 0, 3, 0, 1⟩) base) (fun t => t.here.rs 0) = some 0 := by decide +kernel
/-- R68, R165: a branch one bundle back from 0x1000. Example (a three-pass loop): imm32 = 2 names the last bundle of the body. -/
theorem test_bri_back : after (exec (.bri ⟨0, 0, 0, 0, 0xFFFFFFFF⟩) base) (fun t => t.here.pc) = some 0xFC0 := by decide +kernel
theorem test_loop_end : after (exec (.loop ⟨0, 0, 3, 0, 2⟩) base) (fun t => (t.here.pc, t.here.loopEnd)) = some (0x1040, 0x1080) := by decide +kernel

/-- Example (F32 to E4M3, part 1) after R179: bytes 64 to 69. -/
theorem test_vcvt_e4m3 : (results (.vcvt ⟨false, 0, 10, 4, 1, 0x208, 11, 0⟩)
    (vregs [(4, [0x43960000, 0x43F00000, 0x43FA0000, 0xBA83126F, 0x7F800000, 0x7FC00000])])).map (fun l => l.map fun p => (p.1, p.2 / 2 ^ 512))
      = some [(.v 10, 0x7F7E817E7E79)] := by decide +kernel
/-- Example (row sums under SHAPE 2) after R185. -/
def ramp : State :=
  baseWith fun k => { k with shape := 2, v := [(1, joinElems 32 ((List.range 64).map fun n => ((Fmt.f32.ofVal 0 false 0 (.fin false n 0)).bits)))] }
theorem test_vrowred : results (.vrowred ⟨false, 0, 3, 1, 0, 0, 0, 0⟩) ramp = some [(.v 3, 0x445E0000441E000043BC000042F00000)] := by decide +kernel
theorem test_vcolred : (results (.vcolred ⟨false, 0, 4, 1, 0, 0, 0, 0⟩) ramp).map (fun l => l.map fun p => (p.1, p.2 % 2 ^ 96, p.2 / 2 ^ 512))
    = some [(.v 4, 0x42D0000042C8000042C00000, 0)] := by decide +kernel
/-- R173: 4.0 × 4.0, 3.0 × 3.0, 2.0 × 2.0 and 1.0 × 1.0. -/
theorem test_vmul : results (.vmul ⟨false, 0, 9, 8, 8, 0, 0, 0⟩) base = some [(.v 9, 0x3F800000408000004110000041800000)] := by decide +kernel

/-- R42, R41, R39, after the example (renormalisation): 2^53 + 2^52 with E = −8 takes 2^44, and renormalises; its neighbour 23 becomes
Rne(23 / 16) = 1. Then the example (drain). -/
def tiled (e : Int) (els : NMap Elem) (op : BeatOp) : State :=
  { base with
    cores := [(0, { base.core 0 with fifo := [⟨0, 0x1000, 0, 0, op⟩], tileE := [(1, e)], elems := els })] }
def elemOf (t : State) (n : Nat) : Nat × Int := ((mget {} (t.core 0).elems (16384 + n)).cls, (mget {} (t.core 0).elems (16384 + n)).sig)
theorem test_renormalisation :
    after (exec (.matrixBeat 0) (tiled (-8) [(16384, { sig := 2 ^ 53 + 2 ^ 52 }), (16385, { sig := 23 })] (.wracc 1 0 0 0 true 0 0x55800000)))
      (fun t => ((t.core 0).tileExp 1, elemOf t 0, elemOf t 1)) = some (-4, (0, 2 ^ 50), (0, 1)) := by decide +kernel
theorem test_drain : ({ sig := 2 ^ 50 } : Elem).drain (-4) Fmt.f32 0 false 0 = { bits := 0x56800000, fl := 0 } := by decide +kernel

/-- Example (interleave) after R388. -/
theorem test_interleave : canonPa 0x12345678 = 0xD002468678 := by decide +kernel
/-- Example (work identifier) after R89: an index of 235 in a launch of 240, a gang of 4. -/
def widHdr : Header := { launch0.hdr with lcfg := 0x0100251000003102, extm1 := 0x12F }
theorem test_work_identifier : (widHdr.total, widHdr.gang, widHdr.index 0x12B 6, (List.range 3).map fun i => widHdr.field 0x12B i)
    = (240, 4, 235, [3, 10, 4]) := by decide +kernel
/-- Example (a stack with seven layers) after R364. -/
theorem test_layermap :
    after (exec (.stackBringup 0) { base with stks := [], pkg := { base.pkg with boot := 2 }, badLayers := [(7, 8), (12, 0x22)] })
      (fun t => [0x310, 0x317, 0x31C].map fun i => t.readReg (regAt 0 0 i)) = some [0xF6543210, 0x8F7654210, 0x22F8764320] := by decide +kernel

/-- Example (the mailbox) after R312: TUNE of code 50 and matrix divisor 4 is posted; with a move on and code 45 waiting, code 60 replaces
it; code 10 is denied for matrix divisor 4; CLKDIV of divisor 3 is denied. -/
def rail (q : Cluster) (d : Nat) (v : BitVec 64) : State :=
  { baseWith fun k => { k with s := [(3, v)] } with
    clusters := [(0, { q with userTune := true })]
    cores := [0, 1, 2, 3].map fun c => (c, { base.core 0 with cor := 4, vec := 4, mat := d, cpy := 2, utlb := (base.core 0).utlb }) }
def tuned (i : Instr) (s : State) : Option (Nat × Nat × Nat × Option Nat × Nat) :=
  after (exec i s) fun t => ((t.here.rs 9).toNat, (t.cluster 0).vtgt, (t.cluster 0).mstate, (t.cluster 0).mbox.map (· / 65536), (t.cluster 0).nrepl)
theorem test_tune_posted : (tuned (.tune ⟨0, 9, 3, 0, 0⟩) (rail { vnow := 40, vtgt := 40 } 5 0x320400)).map (fun p => (p.1, p.2.2.1, p.2.2.2.1)) = some (0, 1, none) := by
  decide +kernel
theorem test_tune_replaced :
    (tuned (.tune ⟨0, 9, 3, 0, 0⟩) (rail { vnow := 45, vtgt := 50, mstate := 1, mbox := some 0x2D0000, move := 0x320400 } 5 0x3C0000)).map (fun p => (p.1, p.2.2.1, p.2.2.2))
      = some (1, 1, some 0x3C, 1) := by decide +kernel
theorem test_tune_denied : (tuned (.tune ⟨0, 9, 3, 0, 0⟩) (rail { vnow := 60, vtgt := 60 } 4 0x0A0000)).map (·.1) = some 2 := by decide +kernel
theorem test_clkdiv_denied : (tuned (.clkdiv ⟨0, 9, 3, 0, 0⟩) (rail { vnow := 60, vtgt := 60 } 4 0x0300)).map (·.1) = some 4 := by decide +kernel

/-- Example (a step change) after R373, in quarter degrees: 90.25 °C is 361, 88.50 °C is 354. -/
theorem test_governor : after (exec (.sampleBoundary 0) { base with stks := [(0, { base.stk 0 with tmax := 361 })] }) (fun t => (t.stk 0).govStep) = some 2
    ∧ after (exec (.sampleBoundary 0) { base with stks := [(0, { base.stk 0 with tmax := 354, tstep := 2, govStep := 2 })] }) (fun t => (t.stk 0).govStep) = some 2 := by
  decide +kernel

/-- R211, R206: a store of eight bytes through the own vault's pointer, little-endian. -/
theorem test_stv : after (exec (.stv ⟨0, 5 * 32, 6, 0, 0, 3, 0⟩) base) (fun t => (t.mem.read (vaultPa 0 (vpLin 0x1FC000000)), t.mem.read (vaultPa 0 (vpLin 0x1FC000000) + 7)))
    = some (0xFE, 0xFF) := by decide +kernel
/-- R296: the old value comes back and the sum of 5 is stored. -/
theorem test_aadd_local : after (exec (.aadd ⟨0, 9, 6, 3, 1, 0, 1, 0⟩) base) (fun t => (t.rd (vaultPa 0 (vpLin 0x1FC000000)) 8, t.here.pend.map fun p => (p.dst, p.val.toNat)))
    = some (5, [(.s 9, 0)]) := by decide +kernel
/-- R149, R316: TRAP saves its code, slot 7 and its operand, and goes to the handler of the launch; ERET returns to the bundle after it. -/
theorem test_trap : after (exec (.trap ⟨0, 0, 0, 0, 0x1234⟩) base) (fun t => (t.here.pc, t.here.trapPc, t.here.trapm)) = some (0x2000, 0x1000, true) := by decide +kernel
theorem test_eret : after (exec (.eret ⟨0, 0, 0, 0, 0⟩) baseTrap) (fun t => (t.here.pc, t.here.trapm)) = some (0x3000, false) := by decide +kernel

end Sys2Proof.Tests
end

section
/-! SUPPORT. The values of the integer operations of slot S (R15, R16, R157 to R159): the model's computations on natural
numbers and integers are the operations on bit vectors that the statements name. -/

namespace Sys2Proof.Machine

open Sys2Proof.Claims

/-! Integers of a width (R15). -/

/-- The signed reading of the low bits is that of the bit vector of them. -/
theorem sgn_eq_toInt (w n : Nat) : sgn w n = (BitVec.ofNat w n).toInt := by
  cases w with
  | zero => simp [sgn, Nat.mod_one, BitVec.toInt_of_zero_length]
  | succ w =>
    have hp : 2 ^ (w + 1) = 2 * 2 ^ w := by rw [pow_succ, mul_comm]
    have hlt : 2 * (n % 2 ^ (w + 1)) < 2 ^ (w + 1) ↔ n % 2 ^ (w + 1) < 2 ^ w := by omega
    simp [sgn, BitVec.toInt_eq_toNat_cond, hlt]

@[simp] theorem ival_true_toNat {w : Nat} (a : BitVec w) : ival true w a.toNat = a.toInt := by simp [ival, sgn_eq_toInt]

@[simp] theorem ival_false_toNat {w : Nat} (a : BitVec w) : ival false w a.toNat = a.toNat := by
  simp [ival]

@[simp] theorem ival_zero (signed : Bool) (w : Nat) : ival signed w 0 = 0 := by cases signed <;> simp [ival, sgn]

/-- The low bits of an integer, as a bit vector. -/
@[simp] theorem ofNat_wrap (w : Nat) (i : Int) : BitVec.ofNat w (wrap w i) = BitVec.ofInt w i := by
  apply BitVec.eq_of_toNat_eq
  have h0 : 0 ≤ i % 2 ^ w := Int.emod_nonneg _ (by positivity)
  have h1 : (i % 2 ^ w).toNat < 2 ^ w := by
    have := Int.emod_lt_of_pos i (show (0 : Int) < 2 ^ w by positivity)
    zify [h0]; simpa [h0] using this
  simp [wrap, Nat.mod_eq_of_lt h1]

/-! The high half of a product (R157). -/

/-- The high half of the 128 low bits of an integer. -/
theorem extractLsb'_ofInt_high (z : Int) : (BitVec.ofInt 128 z).extractLsb' 64 64 = BitVec.ofInt 64 (z / 2 ^ 64) := by
  apply BitVec.eq_of_toNat_eq
  simp only [BitVec.extractLsb'_toNat, BitVec.toNat_ofInt, Nat.shiftRight_eq_div_pow]
  omega

theorem mulHigh_true (a b : BitVec 64) : mulHigh true a b = (a.signExtend 128 * b.signExtend 128).extractLsb' 64 64 := by
  have hp : a.signExtend 128 * b.signExtend 128 = BitVec.ofInt 128 (a.toInt * b.toInt) := (BitVec.ofInt_mul ..).symm
  rw [hp, extractLsb'_ofInt_high, mulHigh, ival_true_toNat, ival_true_toNat]

theorem mulHigh_false (a b : BitVec 64) : mulHigh false a b = (a.setWidth 128 * b.setWidth 128).extractLsb' 64 64 := by
  have hw : ∀ v : BitVec 64, v.setWidth 128 = BitVec.ofInt 128 v.toNat := fun v => by simp
  rw [hw, hw, ← BitVec.ofInt_mul, extractLsb'_ofInt_high, mulHigh, ival_false_toNat, ival_false_toNat]

/-! Division (R16). -/

/-- A division by zero sets DIVZ; its remainder is the dividend. -/
theorem divPair_zero (signed : Bool) (a : BitVec 64) :
    (BitVec.ofNat 64 (divPair signed a 0).1, (divPair signed a 0).2.2) = divide signed true a 0
      ∧ (BitVec.ofNat 64 (divPair signed a 0).2.1, (divPair signed a 0).2.2) = divide signed false a 0 := by
  cases signed with
  | false => simp [divPair, idiv, divide]
  | true =>
    have hneg : a.slt 0#64 = true ↔ a.toInt < 0 := BitVec.slt_iff_toInt_lt
    by_cases h : a.toInt < 0 <;> simp [divPair, idiv, divide, hneg, h]

/-- Any other division is that of the integers read from the sources, and sets no flag. -/
theorem divPair_ne_zero (signed : Bool) (a b : BitVec 64) (hb : b ≠ 0) :
    (BitVec.ofNat 64 (divPair signed a b).1, (divPair signed a b).2.2) = divide signed true a b
      ∧ (BitVec.ofNat 64 (divPair signed a b).2.1, (divPair signed a b).2.2) = divide signed false a b := by
  cases signed with
  | false =>
    have hn : b.toNat ≠ 0 := fun h => hb (BitVec.eq_of_toNat_eq h)
    simp only [divPair, idiv, divide, hb, ival_false_toNat, Int.natCast_eq_zero, hn, if_false, ofNat_wrap,
      ← Int.ofNat_tdiv, ← Int.ofNat_tmod, BitVec.ofInt_natCast,
      BitVec.udiv_def, BitVec.umod_def, and_self]
  | true =>
    have hi : b.toInt ≠ 0 := fun h => hb (BitVec.eq_of_toInt_eq h)
    simp only [divPair, idiv, divide, hb, ival_true_toNat, hi, if_false, ofNat_wrap, and_self]

theorem divPair_quotient (signed : Bool) (a b : BitVec 64) :
    (BitVec.ofNat 64 (divPair signed a b).1, (divPair signed a b).2.2) = divide signed true a b := by
  by_cases hb : b = 0
  · exact hb ▸ (divPair_zero signed a).1
  · exact (divPair_ne_zero signed a b hb).1

theorem divPair_remainder (signed : Bool) (a b : BitVec 64) :
    (BitVec.ofNat 64 (divPair signed a b).2.1, (divPair signed a b).2.2) = divide signed false a b := by
  by_cases hb : b = 0
  · exact hb ▸ (divPair_zero signed a).2
  · exact (divPair_ne_zero signed a b hb).2

/-! Counts of bits (R157). -/

/-- The elements before the first that fails, when that is m. -/
theorem length_takeWhile_range (p : Nat → Bool) (n m : Nat) (hm : m ≤ n) (hp : ∀ i < m, p i = true) (hf : m < n → p m = false) :
    ((List.range n).takeWhile p).length = m := by
  obtain ⟨d, rfl⟩ := Nat.exists_eq_add_of_le hm
  rw [List.range_add, List.takeWhile_append_of_pos fun i hi => hp i (List.mem_range.1 hi)]
  cases d with
  | zero => simp
  | succ d => simp [List.range_succ_eq_map, hf]

theorem lt_two_pow_bitLen (n : Nat) : n < 2 ^ bitLen n := by
  unfold bitLen
  split
  · next h => simp [h]
  · exact Nat.lt_log2_self

theorem testBit_bitLen_pred {n : Nat} (h : n ≠ 0) : n.testBit (bitLen n - 1) = true := by
  simp [bitLen, h, Nat.testBit_log2]

theorem bitLen_le {n w : Nat} (h : n < 2 ^ w) : bitLen n ≤ w := by
  unfold bitLen
  split
  · omega
  · next h0 => exact (Nat.log2_lt h0).2 h

theorem clz64_eq (a : BitVec 64) : clz64 a = ((List.range 64).takeWhile fun i => !a.getMsbD i).length := by
  have hle := bitLen_le a.isLt
  have hbig := lt_two_pow_bitLen a.toNat
  refine (length_takeWhile_range _ _ _ (by simp [clz64]) (fun i hi => ?_) fun hlt => ?_).symm
  · have hz : a.toNat.testBit (63 - i) = false :=
      Nat.testBit_lt_two_pow (hbig.trans_le (Nat.pow_le_pow_right (by decide) (by simp only [clz64] at hi; omega)))
    simp [BitVec.getMsbD, BitVec.getLsbD, hz]
  · have hpos : 0 < bitLen a.toNat := by simp only [clz64] at hlt; omega
    have h0 : a.toNat ≠ 0 := fun h => by simp [bitLen, h] at hpos
    have hi : 63 - clz64 a = bitLen a.toNat - 1 := by simp only [clz64]; omega
    simp [BitVec.getMsbD, BitVec.getLsbD, hlt, hi, testBit_bitLen_pred h0]

theorem popc64_eq (a : BitVec 64) : popc64 a = (List.range 64).countP fun i => a.getLsbD i :=
  List.countP_eq_length_filter.symm

/-! Words and fields of a word (R158, R159). -/

/-- MOVHI replaces the high half of its source. -/
theorem movhi_eq_append (a : BitVec 64) (i : BitVec 32) :
    (i.setWidth 64 <<< 32) ||| (a &&& 0xFFFFFFFF) = i ++ a.extractLsb' 0 32 := by
  apply BitVec.eq_of_toNat_eq
  have happ : (i ++ a.extractLsb' 0 32 : BitVec 64).toNat = i.toNat <<< 32 ||| (a.extractLsb' 0 32).toNat :=
    BitVec.toNat_append ..
  have hi : (i.setWidth 64 <<< 32).toNat = i.toNat <<< 32 := by
    simp only [BitVec.toNat_shiftLeft, BitVec.toNat_setWidth, Nat.shiftLeft_eq]; omega
  have ha : a.toNat &&& 0xFFFFFFFF = a.toNat % 2 ^ 32 := Nat.and_two_pow_sub_one_eq_mod a.toNat 32
  have he : (a.extractLsb' 0 32).toNat = a.toNat % 2 ^ 32 := by simp
  rw [happ, he, ← ha, BitVec.toNat_or, hi]; rfl

/-- A field as the model reads it (R159). -/
theorem extractLsb'_eq_ofNat_div (a : BitVec 64) (p n : Nat) : a.extractLsb' p n = BitVec.ofNat n (a.toNat / 2 ^ p % 2 ^ n) := by
  apply BitVec.eq_of_toNat_eq
  simp [Nat.shiftRight_eq_div_pow]

theorem signExtend_extractLsb' (a : BitVec 64) (p n : Nat) :
    BitVec.ofInt 64 (sgn n (a.toNat / 2 ^ p % 2 ^ n)) = (a.extractLsb' p n).signExtend 64 := by
  rw [extractLsb'_eq_ofNat_div, sgn_eq_toInt]; rfl

theorem setWidth_extractLsb' (a : BitVec 64) (p n : Nat) :
    BitVec.ofNat 64 (a.toNat / 2 ^ p % 2 ^ n) = (a.extractLsb' p n).setWidth 64 := by
  apply BitVec.eq_of_toNat_eq
  simp [Nat.shiftRight_eq_div_pow]

/-- The mask of a field of n bits from bit p up. -/
theorem fieldMask_eq (p n : Nat) : BitVec.ofNat 64 ((2 ^ n - 1) * 2 ^ p) = (BitVec.allOnes n).setWidth 64 <<< p := by
  apply BitVec.eq_of_toNat_eq
  simp [Nat.shiftLeft_eq]

/-- A shift of an immediate shift instruction is below 64 (R158). -/
theorem imm_lt_of_wfShiftI {o : OpI} (h : wfShiftI o = true) : o.imm.toNat < 64 := by
  simp only [wfShiftI, bitsOf, Bool.and_eq_true, beq_iff_eq, Nat.shiftRight_eq_div_pow] at h
  have := o.imm.isLt
  omega

end Sys2Proof.Machine
end

section
/-! SUPPORT. The issue of an integer operation of slot S alone: what the shared forms of the model (`opRR`, `opRF`, `opRI`) do,
for every function of the sources. -/

namespace Sys2Proof.Machine

open Sys2Proof.Claims

/-- A slot instruction that only writes a scalar and sets flags (R31, R69). -/
theorem does_scalar {i : Instr} {g : BitVec 4} {sem : State → Nat → Nat → Sem} {s : State} {rs : List RegName} {d : BitVec 6}
    {v : BitVec 64} {n : Nat} {f : BitVec 5} (h : s.runs i .s g)
    (hsem : sem (s.setCtx s.cur.1 s.cur.2 s.here) s.cur.1 s.cur.2 =
      { reads := rs, writes := [.s d.toNat]
        eff := fun t => (t.resS s.cur.1 s.cur.2 d v n).setFlags s.cur.1 s.cur.2 f }) :
    Does s (issueOne .s i g sem s) { regs := [(.s d.toNat, asReg v)], lat := n, rest := fun k => k.flagged f } :=
  does_result .s i g sem s _ (.s d.toNat) (asReg v) n f hsem h (Goes.plain _ _ _ rfl rfl rfl rfl rfl rfl rfl) rfl rfl (Dst.ok_s d)
    (fits_asReg_s _ v)

/-- A slot instruction that only writes a scalar (R69). -/
theorem writes_scalar {i : Instr} {g : BitVec 4} {sem : State → Nat → Nat → Sem} {s : State} {rs : List RegName} {d : BitVec 6}
    {v : BitVec 64} {n : Nat} (h : s.runs i .s g)
    (hsem : sem (s.setCtx s.cur.1 s.cur.2 s.here) s.cur.1 s.cur.2 =
      { reads := rs, writes := [.s d.toNat], eff := fun t => t.resS s.cur.1 s.cur.2 d v n }) :
    Writes s (issueOne .s i g sem s) (.s d.toNat) (asReg v) n :=
  writes_result .s i g sem s _ (.s d.toNat) (asReg v) n hsem h (Goes.plain _ _ _ rfl rfl rfl rfl rfl rfl rfl) rfl rfl rfl (Dst.ok_s d)
    (fits_asReg_s _ v)

/-- An instruction that runs is well formed. -/
theorem State.runs.wf {s : State} {i : Instr} {sl : Slot} {g : BitVec 4} (h : s.runs i sl g) : i.wf = true := by
  obtain ⟨-, he, -⟩ := h
  simp only [State.enabled, Bool.and_eq_true] at he
  exact he.1

/-- A register-form operation of two sources does what its function of them says (R157). -/
theorem rr_of_opRR {mk : OpR → Instr} {n : Nat} {f : BitVec 64 → BitVec 64 → BitVec 64} {v : Ctx → OpR → BitVec 64}
    (hexec : ∀ o s, exec (mk o) s = issueOne .s (mk o) o.g (fun s c x => opRR o s c x n f) s)
    (hv : ∀ k o, f (k.rs o.sa) (k.rs o.sb) = v k o) : rr mk n v := by
  intro o s h
  rw [hexec, ← hv]
  exact writes_scalar (rs := [.s o.sa.toNat, .s o.sb.toNat]) h (by simp only [opRR, State.ctx_setCtx_same])

/-- A register-form operation with flags does what its function of the sources says (R16, R31). -/
theorem rf_of_opRF {mk : OpR → Instr} {n : Nat} {f : BitVec 64 → BitVec 64 → BitVec 64 × Flags}
    {v : Ctx → OpR → BitVec 64 × BitVec 5}
    (hexec : ∀ o s, exec (mk o) s = issueOne .s (mk o) o.g (fun s c x => opRF o s c x n f) s)
    (hv : ∀ k o, f (k.rs o.sa) (k.rs o.sb) = v k o) : rf mk n v := by
  intro o s h
  rw [hexec, ← hv]
  exact does_scalar (rs := [.s o.sa.toNat, .s o.sb.toNat]) h (by simp only [opRF, State.ctx_setCtx_same])

/-- An immediate-form operation does what its function of the source says of a well-formed instruction (R158). -/
theorem ri_of_opRI {mk : OpI → Instr} {f : OpI → BitVec 64 → BitVec 64} {v : Ctx → OpI → BitVec 64}
    (hexec : ∀ o s, exec (mk o) s = issueOne .s (mk o) o.g (fun s c x => opRI o s c x (f o)) s)
    (hv : ∀ k o, (mk o).wf = true → f o (k.rs o.sa) = v k o) : ri mk v := by
  intro o s h
  rw [hexec, ← hv _ _ h.wf]
  exact writes_scalar (rs := [.s o.sa.toNat]) h (by simp only [opRI, State.ctx_setCtx_same])

/-- SEL (R157): the modifier names the mask. -/
theorem rr_sel : rr .sel 1 fun k o => if (k.rk (o.md.extractLsb' 0 4)).getLsbD 0 then k.rs o.sa else k.rs o.sb := by
  intro o s h
  have hm : o.md.setWidth 4 = o.md.extractLsb' 0 4 := BitVec.setWidth_eq_extractLsb' (by decide)
  exact writes_scalar (sem := semSel o) (rs := [.s o.sa.toNat, .s o.sb.toNat, .k (o.md.extractLsb' 0 4).toNat]) h
    (by simp only [semSel, State.ctx_setCtx_same, hm])

/-- BFI (R159): the old value of sd is a source. -/
theorem ri_bfi : ri .bfi fun k o =>
    let pos := bitsOf o.imm 5 0
    let mask := (BitVec.allOnes (bitsOf o.imm 13 8 + 1)).setWidth 64 <<< pos
    (k.rs o.sd &&& ~~~mask) ||| (k.rs o.sa <<< pos &&& mask) := by
  intro o s h
  exact writes_scalar (sem := semBfi o) (rs := [.s o.sa.toNat, .s o.sd.toNat]) h
    (by simp only [semBfi, State.ctx_setCtx_same, fieldMask_eq])

/-- A shift by an immediate: the model takes the amount modulo 64, which it is below (R158). -/
theorem ri_of_shift {mk : OpI → Instr} {f : BitVec 64 → Nat → BitVec 64} (hwf : ∀ o, (mk o).wf = wfShiftI o)
    (hexec : ∀ o s, exec (mk o) s = issueOne .s (mk o) o.g (fun s c x => opRI o s c x (f · (o.imm.toNat % 64))) s) :
    ri mk fun k o => f (k.rs o.sa) o.imm.toNat :=
  ri_of_opRI hexec fun _ o h => by rw [Nat.mod_eq_of_lt (imm_lt_of_wfShiftI (hwf o ▸ h))]

end Sys2Proof.Machine
end

section
/-! The integer operations of slot S: O1 and O2. -/

namespace Sys2Proof.Claims

open Sys2Proof.Machine

/-- Settles O1: each operation is a shared form of the model whose function of the sources is the one of its table; SEL reads a
mask besides. -/
theorem integerOperationsWriteTheirResult : Obligations.IntegerOperationsWriteTheirResult := by
  refine ⟨?add, ?sub, ?and, ?or, ?xor, ?shl, ?shr, ?sha, ?min, ?max, ?minn, ?maxn, ?clz, ?popc, rr_sel, ?mul, ?mulh, ?mulhn,
    ?div, ?divn, ?rem, ?remn⟩
  case add | sub | and | or | xor | shl | shr | sha | mul => exact rr_of_opRR (fun _ _ => rfl) fun _ _ => rfl
  case min | max => exact rr_of_opRR (fun _ _ => rfl) fun _ _ => by simp only [BitVec.sle_iff_toInt_le]
  case minn | maxn => exact rr_of_opRR (fun _ _ => rfl) fun _ _ => by simp only [BitVec.ule_iff_toNat_le]
  case clz => exact rr_of_opRR (fun _ _ => rfl) fun _ _ => congrArg _ (clz64_eq _)
  case popc => exact rr_of_opRR (fun _ _ => rfl) fun _ _ => congrArg _ (popc64_eq _)
  case mulh => exact rr_of_opRR (fun _ _ => rfl) fun _ _ => mulHigh_true _ _
  case mulhn => exact rr_of_opRR (fun _ _ => rfl) fun _ _ => mulHigh_false _ _
  case div | divn => exact rf_of_opRF (fun _ _ => rfl) fun _ _ => divPair_quotient _ _ _
  case rem | remn => exact rf_of_opRF (fun _ _ => rfl) fun _ _ => divPair_remainder _ _ _

/-- Settles O2: each operation is the immediate form of the model with the stated function of its source; BFI reads its
destination besides. -/
theorem immediateOperationsWriteTheirResult : Obligations.ImmediateOperationsWriteTheirResult := by
  refine ⟨?addi, ?andi, ?ori, ?xori, ?shli, ?shri, ?shai, ?roti, ?movi, ?movhi, ?bfx, ri_bfi⟩
  case addi | andi | ori | xori => exact ri_of_opRI (fun _ _ => rfl) fun _ _ _ => rfl
  case shli => exact ri_of_shift (f := fun a n => a <<< n) (fun _ => rfl) fun _ _ => rfl
  case shri => exact ri_of_shift (f := fun a n => a >>> n) (fun _ => rfl) fun _ _ => rfl
  case shai => exact ri_of_shift (f := BitVec.sshiftRight) (fun _ => rfl) fun _ _ => rfl
  case roti => exact ri_of_shift (f := BitVec.rotateRight) (fun _ => rfl) fun _ _ => rfl
  case movi => exact ri_of_opRI (f := fun o _ => sext32 o.imm) (fun _ _ => rfl) fun _ _ _ => rfl
  case movhi => exact ri_of_opRI (fun _ _ => rfl) fun _ _ _ => movhi_eq_append _ _
  case bfx =>
    exact ri_of_opRI (fun _ _ => rfl) fun _ _ _ => by simp only [signExtend_extractLsb', setWidth_extractLsb']

end Sys2Proof.Claims
end

section
/-! SUPPORT. What the end of a strand, with its gang and its launch, leaves as it was (R100, R103). -/

namespace Sys2Proof.Machine

/-- The context in turn and every beat FIFO are as before, and a context without a strand still has none. -/
structure State.KeepsIdle (s t : State) : Prop where
  cur : t.cur = s.cur
  fifo : ∀ c, (t.core c).fifo = (s.core c).fifo
  idle : ∀ c x, (s.ctx c x).strand = none → (t.ctx c x).strand = none

namespace State.KeepsIdle

theorem refl (s : State) : s.KeepsIdle s := ⟨rfl, fun _ => rfl, fun _ _ h => h⟩

theorem trans {s t u : State} (h : s.KeepsIdle t) (g : t.KeepsIdle u) : s.KeepsIdle u :=
  ⟨g.cur.trans h.cur, fun c => (g.fifo c).trans (h.fifo c), fun c x e => g.idle c x (h.idle c x e)⟩

/-- The same with the later update first, which tells the state between the two. -/
theorem after {s t u : State} (g : t.KeepsIdle u) (h : s.KeepsIdle t) : s.KeepsIdle u := h.trans g

/-- An update that leaves the contexts and the cores alone. -/
theorem of_same {s t : State} (hcur : t.cur = s.cur) (hcores : t.cores = s.cores) (hctxs : t.ctxs = s.ctxs) : s.KeepsIdle t :=
  ⟨hcur, fun c => by rw [State.core, hcores]; rfl, fun c x h => by rw [State.ctx, hctxs]; exact h⟩

theorem foldl {α : Type} {f : State → α → State} (h : ∀ (s : State) (a : α), s.KeepsIdle (f s a)) (l : List α) (s : State) :
    s.KeepsIdle (l.foldl f s) := by
  induction l generalizing s with
  | nil => exact refl s
  | cons a l ih => exact (h s a).trans (ih _)

theorem modCore (s : State) (c : Nat) {f : Core → Core} (hf : ∀ k, (f k).fifo = k.fifo) : s.KeepsIdle (s.modCore c f) where
  cur := rfl
  fifo d := by
    by_cases h : d = c
    · rw [h, State.core_modCore_same, hf]
    · rw [State.core_modCore_ne _ _ _ _ h]
  idle _ _ h := h

theorem modCtx (s : State) (c x : Nat) {f : Ctx → Ctx} (hf : ∀ k, k.strand = none → (f k).strand = none) :
    s.KeepsIdle (s.modCtx c x f) where
  cur := rfl
  fifo _ := rfl
  idle d y h := by
    rw [State.ctx, State.modCtx, State.setCtx, mget_mset]
    split
    · next e => exact hf _ (by rw [State.ctx, ← e]; exact h)
    · exact h

/-! Memory, messages and translations. -/

theorem wr (s : State) (pa n v : Nat) : s.KeepsIdle (s.wr pa n v) := by
  unfold State.wr State.wrBytes
  split
  · exact refl s
  · exact of_same rfl rfl rfl

theorem setRec (s : State) (pa : Nat) (pc : BitVec 64) (st : Nat) : s.KeepsIdle (s.setRec pa pc st) := wr s pa 8 _

theorem send (s : State) (m : Msg) : s.KeepsIdle (s.send m) := of_same rfl rfl rfl

theorem dropMisses (s : State) (c unit x : Nat) : s.KeepsIdle (s.dropMisses c unit x) := by
  unfold State.dropMisses
  dsimp only
  split
  · exact of_same rfl rfl rfl
  · exact refl s

theorem reserveAll (s : State) : s.KeepsIdle s.reserveAll :=
  foldl (fun t u => foldl (fun a _ => by rw [State.reserve_units]; exact of_same rfl rfl rfl) _ t) _ s

theorem takeBackGred (s : State) (c x : Nat) : s.KeepsIdle (s.takeBackGred c x) := by
  unfold State.takeBackGred
  split
  · exact refl s
  · split
    · exact refl s
    · exact after (modCtx _ c x fun _ h => h) (of_same rfl rfl rfl)

theorem withdraw (s : State) (c x : Nat) : s.KeepsIdle (s.withdraw c x) := by
  have h : s.KeepsIdle (((s.takeBackGred c x).dropMisses c 0 x).modCtx c x fun k =>
      { k with wait := [], xl := [], trapNext := none, frozen := none, syncRun := 0 }) :=
    after (modCtx _ c x fun _ h => h) (after (dropMisses _ c 0 x) (takeBackGred s c x))
  unfold State.withdraw
  dsimp only
  split
  · exact after (reserveAll _) (h.trans (of_same rfl rfl rfl))
  · exact h

theorem leaveRounds (s : State) (c x : Nat) : s.KeepsIdle (s.leaveRounds c x) := by
  unfold State.leaveRounds
  dsimp only
  split
  · exact of_same rfl rfl rfl
  · exact refl s

/-! The units of a core. -/

theorem idleChan (s : State) (c ch : Nat) : s.KeepsIdle (s.idleChan c ch) :=
  after (modCore _ c fun _ => rfl) ((dropMisses s c (1 + ch) 0).trans (of_same rfl rfl rfl))

theorem stopCube (s : State) (c x phase : Nat) : s.KeepsIdle (s.stopCube c x phase) := by
  unfold State.stopCube
  split
  · exact refl s
  · split
    · exact after (modCtx _ c x fun _ h => h) (modCore s c fun _ => rfl)
    · exact refl s

theorem setDeque (s : State) (c : Nat) (l : List Nat) : s.KeepsIdle (s.setDeque c l) :=
  after (foldl (fun t _ => wr t _ _ _) _ _) (modCore s c fun _ => rfl)

/-! Launches. -/

theorem setLaunch (s : State) (l : Nat) (v : Launch) : s.KeepsIdle (s.setLaunch l v) := by
  unfold State.setLaunch
  dsimp only
  iterate 7 refine after (wr _ _ _ _) ?_
  exact of_same rfl rfl rfl

theorem launchDone (s : State) (l : Nat) : s.KeepsIdle (s.launchDone l) := by
  unfold State.launchDone
  dsimp only
  split <;> exact after (send _ _) (setLaunch s l _)

theorem rootEnd (s : State) (l final : Nat) : s.KeepsIdle (s.rootEnd l final) := by
  unfold State.rootEnd
  dsimp only
  split
  · exact after (launchDone _ l) (setLaunch s l _)
  · exact setLaunch s l _

theorem noteEnd (s : State) (l final : Nat) : s.KeepsIdle (s.noteEnd l final) := by
  unfold State.noteEnd
  dsimp only
  split
  · exact setLaunch s l _
  · exact refl s

theorem tellEnd (s : State) (l pjoin final core x : Nat) (rel : Bool) (tags : List (Nat × Nat)) :
    s.KeepsIdle (s.tellEnd l pjoin final core x rel tags) := by
  unfold State.tellEnd
  split
  · exact rootEnd s l final
  · exact after (send _ _) (noteEnd s l final)

theorem freeSlot (s : State) (l pa : Nat) : s.KeepsIdle (s.freeSlot l pa) := by
  unfold State.freeSlot
  split
  · exact of_same rfl rfl rfl
  · exact refl s

/-! Strands. -/

/-- A resident strand that ends leaves its context vacated (R100, R137). -/
theorem endResident_vacates (s : State) (c x final code slot rep : Nat) (st : Strand) (h : (s.ctx c x).strand = some st) :
    ∃ u, s.KeepsIdle u ∧ (u.modCtx c x Ctx.vacate).KeepsIdle (s.endResident c x final code slot rep) := by
  simp only [State.endResident, h]
  apply Exists.intro
  refine ⟨?record, after (freeSlot _ _ _) (after (tellEnd _ _ _ _ _ _ _ _) ?launch)⟩
  case launch =>
    have note (u : State) : u.KeepsIdle (u.noteContext st.launch c x) := of_same rfl rfl rfl
    exact iteInduction (fun _ => note _) fun _ => after (modCtx _ c x fun _ h => h) (after (leaveRounds _ c x) (note _))
  case record =>
    refine after (withdraw _ c x) ?_
    refine after (wr _ _ _ _) (after (wr _ _ _ _) (after (setRec _ _ _ _) (after (stopCube _ c x 0) ?_)))
    exact iteInduction (fun _ => modCore s c fun _ => rfl) fun _ => foldl (fun t ch => idleChan t c ch) _ s

theorem endResident (s : State) (c x final code slot rep : Nat) : s.KeepsIdle (s.endResident c x final code slot rep) := by
  cases h : (s.ctx c x).strand with
  | none => simpa [State.endResident, h] using refl s
  | some st =>
    obtain ⟨u, hsu, hu⟩ := endResident_vacates s c x final code slot rep st h
    exact (hsu.trans (modCtx u c x fun _ _ => rfl)).trans hu

/-- The context in which a strand ends is without a strand. -/
theorem endResident_strand (s : State) (c x final code slot rep : Nat) :
    ((s.endResident c x final code slot rep).ctx c x).strand = none := by
  cases h : (s.ctx c x).strand with
  | none => simp [State.endResident, h]
  | some st =>
    obtain ⟨u, -, hu⟩ := endResident_vacates s c x final code slot rep st h
    exact hu.idle c x (by rw [State.ctx_modCtx_same]; rfl)

theorem endParked (s : State) (l pa : Nat) : s.KeepsIdle (s.endParked l pa) :=
  after (freeSlot _ l pa) (after (tellEnd _ _ _ _ _ _ _ _) (after (foldl (fun t c => setDeque t c _) _ _)
    ((setRec s pa (BitVec.ofNat 64 (s.rd pa 8)) 6).trans (of_same rfl rfl rfl))))

theorem killOne (s : State) (l pa : Nat) : s.KeepsIdle (s.killOne l pa) := by
  unfold State.killOne
  split
  · exact endResident s _ _ _ _ _ _
  · split
    · exact refl s
    · exact endParked s l pa

theorem endStrand (s : State) (c x final code slot rep : Nat) : s.KeepsIdle (s.endStrand c x final code slot rep) := by
  unfold State.endStrand
  split
  · exact refl s
  · exact after (foldl (fun t pa => killOne t _ pa) _ _) (endResident s c x final code slot rep)

/-- The end of its gang brings no strand into the context in which a strand has ended (R103). -/
theorem endStrand_strand (s : State) (c x final code slot rep : Nat) :
    ((s.endStrand c x final code slot rep).ctx c x).strand = none := by
  unfold State.endStrand
  split
  · assumption
  · exact (foldl (fun t pa => killOne t _ pa) _ _).idle c x (endResident_strand s c x final code slot rep)

end State.KeepsIdle

end Sys2Proof.Machine
end

section
/-! SUPPORT. The issue of one slot instruction that traps at issue, and where its trap goes (R76, R121, R146). -/

namespace Sys2Proof.Machine

open Sys2Proof.Claims

/-- A calm state: the parts of the conjunction. -/
theorem State.calm_iff (s : State) : s.calm = true ↔
    s.here.calm = true ∧ s.hasCore s.cur.1 = true ∧ s.cur.2 < 2 ∧ (s.core s.cur.1).seq = none ∧ (s.core s.cur.1).fifo = []
      ∧ s.fenced s.cur.1 s.cur.2 = false := by
  simp only [State.calm, Bool.and_eq_true, Option.isNone_iff_eq_none, List.isEmpty_iff, decide_eq_true_eq, Bool.not_eq_true']
  tauto

/-- The one slot of an issue traps at issue, before any freeze or mark of it counts (R76). -/
theorem verdict_trap (k : Ctx) (p : Part) (t : TrapReq) (hon : p.on = true) (ht : p.issueTrap k = some t)
    (hu : p.sem.units = []) : verdict k [p] [] [] [] = .trap t := by
  have bank : bankConf (partUnits ([p].filter fun p => k.landed p.sem.gate)) [] = none := by
    simp only [List.filter_cons]
    split <;> simp [partUnits, hu, bankConf]
  unfold verdict
  simp [hon, twoWriters_one, ht, bank, lowerSlot]

/-- The attempt at a bundle of one slot that traps at issue takes the trap. -/
theorem attempt_trap (s : State) (c x : Nat) (sl : Slot) (i : Instr) (p : Part) (t : TrapReq) (hon : p.on = true)
    (hp : (s.ctx c x).pend = []) (ht : p.issueTrap (s.ctx c x) = some t) (hu : p.sem.units = []) (hc : t.code ≠ 0x0B) :
    attempt s c x (Bundle.single sl i) [p] [] = takeTrap s c x t := by
  have hv : verdict (s.ctx c x) [p] (plogWrites (Bundle.single sl i)) (plogReads (Bundle.single sl i)) [] = .trap t :=
    verdict_trap _ p t hon ht hu
  simp [attempt, hon, hv, hc, Ctx.hasPend_nil _ _ hp]

/-- A slot instruction alone in a calm context comes to what its attempt comes to, when that puts no beat in the FIFO: the
context has settled, which leaves it as it was, and no encoding trap is raised. -/
theorem issueOne_attempt (sl : Slot) (i : Instr) (g : BitVec 4) (sem : State → Nat → Nat → Sem) (s t : State)
    (h : s.runs i sl g)
    (hat : attempt (s.setCtx s.cur.1 s.cur.2 s.here) s.cur.1 s.cur.2 (Bundle.single sl i)
      [part (s.setCtx s.cur.1 s.cur.2 s.here) s.cur.1 s.cur.2 sl g sem] [] = t)
    (hf : (t.core s.cur.1).fifo = []) : issueOne sl i g sem s = .next t := by
  obtain ⟨hcalm, he, -⟩ := h
  obtain ⟨hk, -, -, hseq, -, hfence⟩ := s.calm_iff.1 hcalm
  obtain ⟨hp, -, -, -, -, -, hr, -, hl⟩ := (Ctx.calm_iff _).1 hk
  have settled : settle s s.cur.1 s.cur.2 = s.setCtx s.cur.1 s.cur.2 s.here := settle_calm s _ _ hp hl
  have free : (s.setCtx s.cur.1 s.cur.2 s.here).fenced s.cur.1 s.cur.2 = false := hfence
  have legal : encTrap (s.setCtx s.cur.1 s.cur.2 s.here) s.cur.1 (Bundle.single sl i) s.here.rep = none := by
    rw [hr]
    exact encTrap_single (s.setCtx s.cur.1 s.cur.2 s.here) sl i he
  have unused : seqUses (s.setCtx s.cur.1 s.cur.2 s.here) s.cur.1 s.cur.2 = [] := by simp [seqUses, hseq]
  simp [issueOne, issueBundle, settled, free, legal, unused, hat, hf]

/-- A slot instruction alone in a calm context that traps at issue takes its trap and retires nothing (R76, R121). -/
theorem issueOne_trap (sl : Slot) (i : Instr) (g : BitVec 4) (sem : State → Nat → Nat → Sem) (s : State) (t : TrapReq)
    (h : s.runs i sl g)
    (ht : (part (s.setCtx s.cur.1 s.cur.2 s.here) s.cur.1 s.cur.2 sl g sem).issueTrap s.here = some t)
    (hu : (sem (s.setCtx s.cur.1 s.cur.2 s.here) s.cur.1 s.cur.2).units = []) (hc : t.code ≠ 0x0B)
    (hf : ((takeTrap (s.setCtx s.cur.1 s.cur.2 s.here) s.cur.1 s.cur.2 t).core s.cur.1).fifo = []) :
    issueOne sl i g sem s = .next (takeTrap (s.setCtx s.cur.1 s.cur.2 s.here) s.cur.1 s.cur.2 t) := by
  obtain ⟨hk, -⟩ := s.calm_iff.1 h.1
  obtain ⟨hp, -⟩ := (Ctx.calm_iff _).1 hk
  refine issueOne_attempt sl i g sem s _ h (attempt_trap _ _ _ sl i _ t ?_ ?_ ?_ hu hc) hf
  · simpa [part] using h.2.2
  · simpa using hp
  · simpa using ht

/-! Where a trap goes. -/

/-- A trap that is no tape overflow and parks no strand ends the strand when it is in trap mode or has no handler (R121). -/
theorem takeTrap_ends (s : State) (c x : Nat) (t : TrapReq) (hc : t.code ≠ 0x0C) (hp : s.parks c x t.code t.slot = false)
    (h : s.traph c x = 0 ∨ (s.ctx c x).trapm = true) :
    takeTrap s c x t = s.endStrand c x 5 t.code t.slot (s.ctx c x).rep := by
  simp only [takeTrap, hc, hp, if_false, Bool.false_eq_true]
  exact if_pos h

/-- Outside trap mode it enters the handler that there is (R146). -/
theorem takeTrap_enters (s : State) (c x : Nat) (t : TrapReq) (hc : t.code ≠ 0x0C) (hp : s.parks c x t.code t.slot = false)
    (hh : s.traph c x ≠ 0) (hm : (s.ctx c x).trapm = false) : takeTrap s c x t = s.enterTrap c x t := by
  simp only [takeTrap, hc, hp, if_false, Bool.false_eq_true]
  exact if_neg (not_or.2 ⟨hh, by simp [hm]⟩)

/-- Only a page fault parks a strand (R122). -/
theorem State.parks_false (s : State) (c x code slot : Nat) (h : code ≠ 8) : s.parks c x code slot = false := by
  unfold State.parks
  split <;> simp [h]

/-- Without a sequencer there is none to stop (R272). -/
theorem State.stopCube_none (s : State) (c x phase : Nat) (h : (s.core c).seq = none) : s.stopCube c x phase = s := by
  simp [State.stopCube, h]

/-- A context without misses has none to forget (R330). -/
theorem State.dropMisses_none (s : State) (c x : Nat)
    (h : ∀ m ∈ (s.cluster (clusterOf c)).misses, ¬(m.core = c ∧ m.unit = 0 ∧ m.x = x)) : s.dropMisses c 0 x = s := by
  unfold State.dropMisses
  dsimp only
  rw [if_neg]
  simpa [and_assoc] using h

/-- A context with no request of its own takes back nothing but its waits (R293). -/
theorem State.withdraw_quiet (s : State) (c x : Nat) (hnet : ∀ m ∈ s.net, ¬(m.core = c ∧ m.x = x))
    (hmiss : ∀ m ∈ (s.cluster (clusterOf c)).misses, ¬(m.core = c ∧ m.unit = 0 ∧ m.x = x))
    (hg : ∀ w, (s.ctx c x).gred = some w → w.done = true) :
    s.withdraw c x = s.modCtx c x fun k => { k with wait := [], xl := [], trapNext := none, frozen := none, syncRun := 0 } := by
  have none_open : (s.net.any fun m => m.core == c && m.x == x && m.open) = false := by
    rw [List.any_eq_false]
    intro m hm
    have := hnet m hm
    simp only [Bool.and_eq_true, beq_iff_eq, not_and] at this ⊢
    exact fun a => absurd a.2 (this a.1)
  simp [State.withdraw, none_open, State.takeBackGred_done s c x hg, State.dropMisses_none s c x hmiss]

/-- A change of the context in turn changes no other. -/
theorem othersSame_setCtx (s : State) (k : Ctx) (h : s.cur.2 < 2) : othersSame s (s.setCtx s.cur.1 s.cur.2 k) := by
  intro c x hx hne
  refine State.ctx_setCtx_ne _ _ _ _ _ _ fun e => hne ?_
  exact Prod.ext (by simp only; omega) (by simp only; omega)

/-- A change of the context in turn after it has settled, which left it as it was. -/
theorem State.modCtx_setCtx_here (s : State) (f : Ctx → Ctx) :
    (s.setCtx s.cur.1 s.cur.2 s.here).modCtx s.cur.1 s.cur.2 f = s.setCtx s.cur.1 s.cur.2 (f s.here) :=
  State.modCtx_modCtx s s.cur.1 s.cur.2 id f

/-- The handler of a strand whose context has settled is the same (R83). -/
theorem State.traph_setCtx_here (s : State) :
    (s.setCtx s.cur.1 s.cur.2 s.here).traph s.cur.1 s.cur.2 = s.traph s.cur.1 s.cur.2 := by
  rw [State.traph, State.ctx_setCtx_same]; rfl

/-- A calm context with no message or translation of its own, its contribution counted, enters its handler on a trap, and
nothing else changes (R146). -/
theorem enterTrap_trapped (s : State) (t : TrapReq) (h : armed s) (hc : t.code < 65536) (hs : t.slot < 8) :
    trapped s t.code t.slot t.addr ((s.setCtx s.cur.1 s.cur.2 s.here).enterTrap s.cur.1 s.cur.2 t) := by
  obtain ⟨hcalm, ⟨hnet, hmiss⟩, -, -, hg⟩ := h
  obtain ⟨hk, -, hx, hseq, -, -⟩ := s.calm_iff.1 hcalm
  obtain ⟨-, -, htn, -, -, hrs, hr, -, -⟩ := (Ctx.calm_iff _).1 hk
  have stopped := State.stopCube_none (s.setCtx s.cur.1 s.cur.2 s.here) s.cur.1 s.cur.2 2 hseq
  have withdrawn := State.withdraw_quiet (s.setCtx s.cur.1 s.cur.2 s.here) s.cur.1 s.cur.2 hnet hmiss
    (by rw [State.ctx_setCtx_same]; exact hg)
  unfold trapped State.enterTrap
  rw [stopped, withdrawn, State.modCtx_modCtx, State.modCtx_setCtx_here, State.traph_setCtx_here]
  refine ⟨?handler, othersSame_setCtx s _ hx, rfl⟩
  rw [State.here, State.setCtx_cur, State.ctx_setCtx_same]
  simp only [trapWord, Nat.mod_eq_of_lt hc, Nat.mod_eq_of_lt hs, hr, hrs, htn, Nat.zero_mod, Nat.zero_mul, Nat.add_zero]
  rfl

theorem slot_idx_lt (sl : Slot) : sl.idx < 8 := by cases sl <;> decide

/-- A slot instruction alone that traps at issue enters the handler, when its context is armed and the trap can be taken
there (R76, R146). -/
theorem issueOne_trapped (sl : Slot) (i : Instr) (g : BitVec 4) (sem : State → Nat → Nat → Sem) (s : State) (code : Nat)
    (addr : BitVec 64) (h : s.runs i sl g) (ha : armed s)
    (ht : (part (s.setCtx s.cur.1 s.cur.2 s.here) s.cur.1 s.cur.2 sl g sem).issueTrap s.here = some ⟨code, sl.idx, addr⟩)
    (hu : (sem (s.setCtx s.cur.1 s.cur.2 s.here) s.cur.1 s.cur.2).units = []) (hlt : code < 65536) (h8 : code ≠ 8)
    (hB : code ≠ 0x0B) (hC : code ≠ 0x0C) : Gives (issueOne sl i g sem s) (trapped s code sl.idx addr) := by
  obtain ⟨-, -, -, -, hff, -⟩ := s.calm_iff.1 h.1
  obtain ⟨-, -, htm, hth, -⟩ := id ha
  have hent := enterTrap_trapped s ⟨code, sl.idx, addr⟩ ha hlt (slot_idx_lt sl)
  have htake : takeTrap (s.setCtx s.cur.1 s.cur.2 s.here) s.cur.1 s.cur.2 ⟨code, sl.idx, addr⟩ = _ :=
    takeTrap_enters _ _ _ _ hC (State.parks_false _ _ _ _ _ h8) (by rw [State.traph_setCtx_here]; exact hth)
      (by rw [State.ctx_setCtx_same]; exact htm)
  have hfifo := congrArg (fun u : State => (u.core s.cur.1).fifo) hent.2.2
  refine ⟨_, issueOne_trap sl i g sem s _ h ht hu hB ?_, ?_⟩
  · rw [htake]; exact hfifo.trans hff
  · rw [htake]; exact hent

end Sys2Proof.Machine
end

section
/-! The synchronisation instructions of slot SY: O29. -/

namespace Sys2Proof.Claims

open Sys2Proof.Machine

/-- TRAP raises BRKPT before anything else of its slot counts (R149, R316). -/
theorem issueTrap_trap (s s1 : State) (o : OpSy) :
    (part s1 s.cur.1 s.cur.2 .sy o.g (semTrap o)).issueTrap s.here = some ⟨0x12, 7, 0⟩ := rfl

/-- TRAP of an armed context enters the handler (R146, R316). -/
theorem exec_trap_enters (o : OpSy) (s : State) (h : s.runs (.trap o) .sy o.g) (ha : armed s) :
    Gives (exec (.trap o) s) (trapped s 0x12 7 0) :=
  issueOne_trapped .sy (.trap o) o.g (semTrap o) s 0x12 0 h ha (issueTrap_trap s _ o) rfl (by decide) (by decide) (by decide)
    (by decide)

/-- TRAP of a context in trap mode or without a handler ends its strand (R121, R316). -/
theorem exec_trap_ends (o : OpSy) (s : State) (h : s.runs (.trap o) .sy o.g)
    (hno : s.here.trapm = true ∨ s.traph s.cur.1 s.cur.2 = 0) :
    exec (.trap o) s = .next ((s.setCtx s.cur.1 s.cur.2 s.here).endStrand s.cur.1 s.cur.2 5 0x12 7 0) := by
  obtain ⟨hk, -, -, -, hff, -⟩ := s.calm_iff.1 h.1
  obtain ⟨-, -, -, -, -, -, hr, -, -⟩ := (Ctx.calm_iff _).1 hk
  have htake : takeTrap (s.setCtx s.cur.1 s.cur.2 s.here) s.cur.1 s.cur.2 ⟨0x12, 7, 0⟩
      = (s.setCtx s.cur.1 s.cur.2 s.here).endStrand s.cur.1 s.cur.2 5 0x12 7 0 := by
    rw [takeTrap_ends _ _ _ _ (by decide) (State.parks_false _ _ _ _ _ (by decide)), State.ctx_setCtx_same, hr]
    rw [State.traph_setCtx_here, State.ctx_setCtx_same]
    exact hno.symm
  have empty : ((takeTrap (s.setCtx s.cur.1 s.cur.2 s.here) s.cur.1 s.cur.2 ⟨0x12, 7, 0⟩).core s.cur.1).fifo = [] := by
    rw [htake, (State.KeepsIdle.endStrand _ _ _ _ _ _ _).fifo]
    exact hff
  rw [← htake]
  exact issueOne_trap .sy (.trap o) o.g (semTrap o) s _ h (issueTrap_trap s _ o) rfl (by decide) empty

/-- Settles O29: the trap of a slot at issue is taken, into the handler where there is one, else to the end of the strand,
whose gang's end brings no strand back into the context. -/
theorem trapEntersTheHandler : Obligations.TrapEntersTheHandler := by
  refine ⟨fun o s h hq hm hh hg => exec_trap_enters o s h ⟨h.1, hq, hm, hh, hg⟩, fun o s h _ hno => ?_⟩
  have hend := exec_trap_ends o s h hno
  refine ⟨hend, _, hend, ?_⟩
  dsimp only
  rw [State.here, (State.KeepsIdle.endStrand _ _ _ _ _ _ _).cur]
  exact State.KeepsIdle.endStrand_strand _ _ _ _ _ _ _

end Sys2Proof.Claims
end
